-- ==== Sys2Proof/Word.lean ====
section
/-!
DEFINITION. The words of the Synul slice: addresses, lines, sectors and the plainest index types (R6, R7, R13, R20).
-/

namespace Sys2Proof

/-- A physical address, 52 bits (R20). -/
abbrev Addr := BitVec 52

/-- A line address, ADDR bits 51:8 (R64). -/
abbrev LineAddr := BitVec 44

/-- A 256-byte line; byte i is bits 8i + 7 to 8i (R7). -/
abbrev Line := BitVec 2048

/-- A 64-byte sector (R131). -/
abbrev Sector := BitVec 512

/-- Byte enables of a line, bit i for byte i. -/
abbrev LineBE := BitVec 256

/-- A half of the slice, 0 or 1 (R13); also a memory channel, a peer channel or a sequencer number. -/
abbrev Half := Fin 2

/-- A request port, 0 to 3 (R36). -/
abbrev PortIx := Fin 4

/-- A 256-bit code word with its 10 check bits, bit p at position p (R438). -/
abbrev CodeWord := BitVec 266

/-- The line that holds an address. -/
def lineOf (a : Addr) : LineAddr := a.extractLsb' 8 44

/-- The first byte of a line. -/
def lineBase (l : LineAddr) : Addr := l.setWidth 52 <<< 8

/-- Bit `i` of a word as a truth value. -/
abbrev bitAt {w : Nat} (x : BitVec w) (i : Nat) : Bool := x.getLsbD i

/-- A truth value as a one-bit field at bit `i` of a word of `w` bits. -/
def flagAt (w : Nat) (b : Bool) (i : Nat) : BitVec w := if b then (1#w <<< i) else 0#w

/-- A field value placed at bit `i` of a 32-bit register. -/
def fieldAt {w : Nat} (x : BitVec w) (i : Nat) : BitVec 32 := x.setWidth 32 <<< i

end Sys2Proof
end

