-- ==== Sys2Proof/Config.lean ====
section
/-!
DEFINITION. What the block fixes (the resource counts of R13 and its tables) and the free values that the manual leaves open.
A free value is an opaque constant: nothing in Lean can evaluate it.
-/

namespace Sys2Proof.Config

/-- Ways of a set (R13). -/
def ways : Nat := 24

/-- Sets of a half (R13). -/
def sets : Nat := 8192

/-- Floor ways (R162). -/
def floorWays : Nat := 4

/-- Directory ways of a set (R194, "The directory store"). -/
def dirWays : Nat := 16

/-- Directory sets of a half. -/
def dirSets : Nat := 4096

/-- Victim buffer entries of a half (R149). -/
def victims : Nat := 64

/-- Merge-buffer entries of a half (R143). -/
def mergeEntries : Nat := 16

/-- Miss-tracker entries of a half (R153). -/
def missEntries : Nat := 512

/-- Conflict-tracker entries of a half (R201). -/
def conflictEntries : Nat := 256

/-- Hold-queue entries of a port (R40). -/
def holdEntries : Nat := 256

/-- Snoops outstanding on a port (R66). -/
def snoopIds : Nat := 256

/-- Parked WAITs of a slice (R251). -/
def parkedMax : Nat := 4096

/-- Invocation-queue entries of a half (R359). -/
def invokeEntries : Nat := 64

/-- Operation-queue entries of a sequencer (R298). -/
def opEntries : Nat := 8

/-- Line reads of the feed in flight, and lines of a feed buffer of 64 KiB, for each operand (R301). -/
def feedLines : Nat := 256

/-- Crucible pool units of a half (R309). -/
def crucibleUnits : Nat := 224

/-- READs, WRITEs and ATOMICs outstanding on a memory channel (R86). -/
def readsOut : Nat := 512
def writesOut : Nat := 256
def atomicsOut : Nat := 64

/-- Remote transactions outstanding (R101). -/
def remoteOut : Nat := 512

/-- Free-miss-tracker floor below which a Bellows prefetch is dropped (R157). -/
def prefetchFloor : Nat := 128

/-- DESIGN CHOICE (log 12). Which free identifier the slice takes (a TAG, an STXN, a remote tag, a TXN of
R97, a directory index): the manual names the set and leaves the choice. -/
opaque freeChoice : Nat → Nat

/-- DESIGN CHOICE (log 18). The bytes of a reservation frame that is written to the window: R347 gives what a frame of group state holds and
not where in the frame. -/
opaque groupPage : Nat → BitVec 2048

/-- DESIGN CHOICE (log 24). The INT32 result of a REDUCE sum that lies outside the range of INT32: R321 forms the sum as XA48, and R276 has no
conversion from there. -/
opaque int32Sum : Int → BitVec 32

/-- DESIGN CHOICE (log 19). A word of which the manual leaves the value open. -/
opaque freeWord : Nat → BitVec 64

/-- DESIGN CHOICE (log 20). A bit the manual leaves open. -/
opaque freeBit : Nat → Bool

end Sys2Proof.Config
end

