-- ==== Sys2Proof/Syntax.lean ====
section
/-!
DEFINITION. The commands of the slice: one constructor of `Instr` per row of the table of operations and events, with the
beats, messages and words that the ports carry as their operands.
-/

namespace Sys2Proof

/-- Response codes, Table 2.11 (R59). -/
inductive Code where
  | done | doneShared | errDecode | errPerm | errData | errSafe | errOverflow | errRefused
  deriving DecidableEq, Repr

/-- The encoding of a response code, Table 2.11 (R59). -/
def Code.bits : Code → BitVec 3
  | .done => 0 | .doneShared => 1 | .errDecode => 2 | .errPerm => 3
  | .errData => 4 | .errSafe => 5 | .errOverflow => 6 | .errRefused => 7

/-- The response code of three bits, Table 2.11 (R59). -/
def Code.ofBits (b : BitVec 3) : Code :=
  match b.toNat with
  | 0 => .done | 1 => .doneShared | 2 => .errDecode | 3 => .errPerm
  | 4 => .errData | 5 => .errSafe | 6 => .errOverflow | _ => .errRefused

/-- A REQ beat less its opcode, Table 2.4 (R45). `rsv` is bits 159:157. -/
structure ReqBeat where
  rsv   : BitVec 3
  lane  : Bool
  txn   : BitVec 10
  addr  : Addr
  size  : BitVec 4
  label : BitVec 12
  optag : BitVec 16
  inst  : BitVec 6
  gen   : BitVec 4
  dl    : BitVec 12
  hint  : BitVec 2
  aux   : BitVec 32
  deriving DecidableEq, Repr

/-- A WD beat, Table 2.9 (R53). -/
structure WdBeat where
  txn  : BitVec 10
  last : Bool
  be   : BitVec 64
  data : Sector
  deriving DecidableEq, Repr

/-- The channels of a port toward the agent (R36). -/
inductive Chan where
  | rsp | rd | snp
  deriving DecidableEq, Repr

/-- The credit pools of a port, Table 2.3 (R39). -/
inductive Pool where
  | req0 | req1 | wd | srsp
  deriving DecidableEq, Repr

/-- The links that carry credits of R83: the memory channels, the peer channels and the remote port. -/
inductive LinkIx where
  | mem (c : Half) | peer (c : Half) | remote
  deriving DecidableEq, Repr

/-- Kinds of snoop, Table 2.12 (R64). -/
inductive SnpKind where
  | inv | down | place
  deriving DecidableEq, Repr

/-- A FWD message (R93, R96): the REQ beat verbatim, with its opcode; `data` holds the WD bytes, the first at bit 0. `idx` is the
directory index of the requester, which the home needs and no header field carries (DESIGN CHOICE, log 22), `dlc` the class by which the
entry slice counts its deadline (R411; DESIGN CHOICE, log 94). -/
structure FwdMsg where
  ch     : Half
  sslice : BitVec 5
  sport  : BitVec 2
  be     : LineBE
  opc    : BitVec 6
  beat   : ReqBeat
  data   : Line
  idx    : Option (BitVec 6)
  dlc    : Option (BitVec 4)
  deriving DecidableEq, Repr

/-- A CMPL message (R93, R97). `int` is BODY bit 32, `dlen` its DLEN. -/
structure CmplMsg where
  ch     : Half
  sslice : BitVec 5
  sport  : BitVec 2
  int    : Bool
  txn    : BitVec 10
  code   : Code
  dlen   : BitVec 9
  data   : Line
  deriving DecidableEq, Repr

/-- An SNPF message (R93, R98). -/
structure SnpfMsg where
  ch     : Half
  sslice : BitVec 5
  kind   : SnpKind
  stxn   : BitVec 8
  line   : LineAddr
  idx    : BitVec 6
  data   : Line
  inst   : BitVec 6
  gen    : BitVec 4
  deriving DecidableEq, Repr

/-- An SRSPF message (R93, R98). -/
structure SrspfMsg where
  ch     : Half
  sslice : BitVec 5
  stxn   : BitVec 8
  had    : Bool
  idx    : BitVec 6
  deriving DecidableEq, Repr

/-- Kinds of XREQ (R93): shared, unique, upgrade. -/
inductive XKind where
  | shared | unique | upgrade
  deriving DecidableEq, Repr

/-- An XREQ message (R93). -/
structure XreqMsg where
  schip : BitVec 5
  line  : LineAddr
  kind  : XKind
  rtag  : BitVec 9
  deriving DecidableEq, Repr

/-- An XWB message with its DSMASK (R93, R247). -/
structure XwbMsg where
  schip  : BitVec 5
  line   : LineAddr
  rtag   : BitVec 9
  dsmask : BitVec 4
  data   : Line
  deriving DecidableEq, Repr

/-- An XSNP message (R93): `inv` is an invalidate, otherwise a downgrade. -/
structure XsnpMsg where
  schip : BitVec 5
  line  : LineAddr
  rtag  : BitVec 9
  inv   : Bool
  deriving DecidableEq, Repr

/-- An XRSP message with its DSMASK (R93, R247); `line` is none when BODY bit 58 is 0. -/
structure XrspMsg where
  schip  : BitVec 5
  rtag   : BitVec 9
  code   : Code
  line   : Option Line
  dsmask : BitVec 4
  deriving DecidableEq, Repr

/-- Where a hello word arrives (R102, R103): a sideband of a port or channel, or a HELLO message on a peer channel or the
remote port. -/
inductive HelloSrc where
  | port (p : PortIx)
  | mem (c : Half)
  | peer (c : Half)
  | remote
  | peerMsg (c : Half) (slice : BitVec 5)
  | remoteMsg (chip : BitVec 5)
  deriving DecidableEq, Repr

/-- The strap pins sampled at the start of the journal (R118, R483). -/
structure Straps where
  die   : BitVec 3
  pos   : BitVec 2
  boota : BitVec 24
  tmode : Bool
  deriving DecidableEq, Repr

/-- How a journal step ends (R483 to R487): `ok` when the step's own condition came within its limit, `rows0`, `rows1` the
failing frame rows that BIST found in each half as (set, way), `other` when BIST found another array failing, and the
ticks it took. -/
structure StepEnd where
  ok    : Bool
  rows0 : List (BitVec 13 × BitVec 5)
  rows1 : List (BitVec 13 × BitVec 5)
  other : Bool
  ticks : BitVec 16
  deriving DecidableEq, Repr

/-- The commands: one constructor per row of the table of operations and events. -/
inductive Instr where
  /-- RD_NC (R208). A request port REQ beat for a read without directory tracking is parsed, checked and served at its home. -/
  | rdNc (p : PortIx) (b : ReqBeat)
  /-- RD_S (R206). A read that caches the line shared is parsed, ordered and completed by the directory transitions. -/
  | rdS (p : PortIx) (b : ReqBeat)
  /-- RD_U (R206). A read that caches the line unique is ordered and invalidates other copies. -/
  | rdU (p : PortIx) (b : ReqBeat)
  /-- PREF (R49). An agent's prefetch fills the line into the slice without returning data. -/
  | pref (p : PortIx) (b : ReqBeat)
  /-- WR (R208). A write under byte enables is parsed, ordered and merged at the home. -/
  | wr (p : PortIx) (b : ReqBeat)
  /-- PLACE (R209). A write is applied and the line is then delivered into a named agent's cache by a PLACE snoop. -/
  | place (p : PortIx) (b : ReqBeat)
  /-- UPG (R207). A shared copy is upgraded to unique, or ownership is granted without data. -/
  | upg (p : PortIx) (b : ReqBeat)
  /-- EVICT (R206). An agent notifies that it has dropped its copy, and it is removed from AGENTS. -/
  | evict (p : PortIx) (b : ReqBeat)
  /-- ATOM_R (R222). An atomic runs at the home or in memory and returns the old value. -/
  | atomR (p : PortIx) (b : ReqBeat)
  /-- ATOM_N (R222). An atomic runs at the home or in memory without returning a value. -/
  | atomN (p : PortIx) (b : ReqBeat)
  /-- ADDL (R208). An unordered element-wise add of the write data into the line is applied at the home. -/
  | addl (p : PortIx) (b : ReqBeat)
  /-- GRP_OPEN (R338). An ordered reduction group is opened at the home half, its storage is reserved and HOLD is set on its resident lines. -/
  | grpOpen (p : PortIx) (b : ReqBeat)
  /-- GRP_CONTRIB (R342). A contribution walks the group tree, and the result is written when the sector's tree completes. -/
  | grpContrib (p : PortIx) (b : ReqBeat)
  /-- GRP_ABORT (R346). A reduction group is closed without further results. -/
  | grpAbort (p : PortIx) (b : ReqBeat)
  /-- CTR_ADD (R241). INC is added to LANDED and SETTLED of an arrival counter. -/
  | ctrAdd (p : PortIx) (b : ReqBeat)
  /-- CTR_READ (R241). LANDED of an arrival counter is returned on RD. -/
  | ctrRead (p : PortIx) (b : ReqBeat)
  /-- CTR_RESET (R241). LANDED and SETTLED of an arrival counter are set to zero. -/
  | ctrReset (p : PortIx) (b : ReqBeat)
  /-- WAIT (R248). A WAIT tests its counter against THR and either completes or parks in the counter unit. -/
  | wait (p : PortIx) (b : ReqBeat)
  /-- INVOKE (R358). An INVOKE is ordered at the home half and enters the invocation queue, or is refused. -/
  | invoke (p : PortIx) (b : ReqBeat)
  /-- CLN (R208). A dirty line is written back to memory and kept. -/
  | cln (p : PortIx) (b : ReqBeat)
  /-- INV (R208). Every holder is invalidated and the line is dropped without writeback. -/
  | inv (p : PortIx) (b : ReqBeat)
  /-- CLNINV (R208). A dirty line is written back and the line is then dropped. -/
  | clninv (p : PortIx) (b : ReqBeat)
  /-- ZERO (R208). The line is set to zero without a read from memory, after its holders are invalidated. -/
  | zero (p : PortIx) (b : ReqBeat)
  /-- WD_BEAT (R54). A WD beat is taken into the merge buffer or operand queue, and a mismatch refuses its transaction. -/
  | wdBeat (p : PortIx) (b : WdBeat)
  /-- SRSP (R65). An agent's snoop response is taken and resumes the request that waits on it, or is logged if it names no outstanding snoop. -/
  | srsp (p : PortIx) (stxn : BitVec 8) (had : Bool)
  /-- COMPLETION_TRANSFER (R41). A completion, snoop or placement beat transfers on RSP, RD or SNP when valid and ready are both 1. -/
  | completionTransfer (p : PortIx) (c : Chan)
  /-- CREDIT_RETURN (R39). A REQ, WD or SRSP credit is returned to the agent two core cycles after its beat. -/
  | creditReturn (p : PortIx) (c : Pool)
  /-- HOLD_RELEASE (R419). A port's hold queue releases its oldest eligible held request, which is rechecked and enters the pipeline. -/
  | holdRelease (p : PortIx)
  /-- BUCKET_REFILL (R416). Every 1,024 core cycles each regulated label bucket gains RATE sectors up to BURST. -/
  | bucketRefill
  /-- ORDER_POINT_WAIT_END (R201). A request waiting at the order point for the conflict tracker, a directory way, an invocation queue entry or a memory ATOMIC is ordered. -/
  | orderPointWaitEnd (h : Half)
  /-- SNOOP_TIMEOUT (R68). A snoop unanswered for 65,536 core cycles declares the port's agent dead and reclaims its lines. -/
  | snoopTimeout (p : PortIx) (stxn : BitVec 8)
  /-- HOLD_WINDOW_END (R204). The hold window of a winner ends and the delayed snoop of a conflicting request is presented. -/
  | holdWindowEnd (h : Half) (l : LineAddr)
  /-- MISS_WAIT_RELEASE (R153). A miss that waited for a free miss-tracker entry allocates one and sends its READ or XREQ. -/
  | missWaitRelease (h : Half)
  /-- MEM_CMD_ISSUE (R427). A memory channel presents one command header, choosing among READ, WRITE and ATOMIC in rotation. -/
  | memCmdIssue (h : Half)
  /-- MSG_CREDIT_RETURN (R83). A partner returns header and data credits through HCRD and DCRD. -/
  | msgCreditReturn (k : LinkIx) (hcrd : BitVec 4) (dcrd : BitVec 12)
  /-- MEM_READ_RESPONSE (R88). A READ response arrives with its sectors or ERR_DATA for a fill or an image load. -/
  | memReadResponse (c : Half) (tag : BitVec 9) (ok : Bool) (d : Line)
  /-- MEM_WRITE_RESPONSE (R88). A WRITE response completes a writeback, or makes the line lost on ERR_DATA. -/
  | memWriteResponse (c : Half) (tag : BitVec 9) (ok : Bool)
  /-- MEM_ATOMIC_RESPONSE (R226). An ATOMIC response returns the old value and completes the atomic sent to memory. -/
  | memAtomicResponse (c : Half) (tag : BitVec 9) (ok : Bool) (old : BitVec 64)
  /-- FILL_INSTALL (R147). When the fill's last sector has arrived, a victim is chosen, the line is installed and the waiting requests are answered. -/
  | fillInstall (h : Half) (l : LineAddr)
  /-- VICTIM_RECALL (R150). A frame found in the victim buffer is recalled into its set through the install stage. -/
  | victimRecall (h : Half) (l : LineAddr)
  /-- MERGE_ENTRY_TIMEOUT (R143). A merge-buffer entry without a new write for 64 core cycles starts to drain. -/
  | mergeEntryTimeout (h : Half) (l : LineAddr) (sec : Fin 4)
  /-- MERGE_DRAIN_END (R143). A drain ends, its entry frees and the request that triggered it proceeds. -/
  | mergeDrainEnd (h : Half) (l : LineAddr) (sec : Fin 4)
  /-- PACK_MOVE_OUT (R139). A line leaves a packed frame for a single-line frame, or is written back and dropped. -/
  | packMoveOut (h : Half) (l : LineAddr)
  /-- PACK_MOVE_END (R140). A move out of a packed frame ends after 8 core cycles and requests waiting on the line proceed. -/
  | packMoveEnd (h : Half) (l : LineAddr)
  /-- BELLOWS_PREFETCH (R157). A Bellows prefetch arrives at its home, does nothing on a hit, and is filled or dropped on a miss. -/
  | bellowsPrefetch (h : Half)
  /-- FWD (R96). A forwarded request arrives on a peer channel and is served at the home slice. -/
  | fwd (m : FwdMsg)
  /-- CMPL (R97). A completion of a forwarded transaction arrives and is delivered to its port or unit. -/
  | cmpl (m : CmplMsg)
  /-- SNPF (R98). A snoop for an agent of this slice arrives and is presented on the agent's port. -/
  | snpf (m : SnpfMsg)
  /-- SRSPF (R98). A forwarded snoop answer arrives at the home and resumes its request. -/
  | srspf (m : SrspfMsg)
  /-- XREQ (R210). A remote package's request is ordered at the owner's home. -/
  | xreq (m : XreqMsg)
  /-- XWB (R214). A remote package's writeback installs the line dirty, or is discarded and logged. -/
  | xwb (m : XwbMsg)
  /-- XSNP (R212). The owner's snoop is answered by the local home with or without the line. -/
  | xsnp (m : XsnpMsg)
  /-- XRSP (R212). A remote answer arrives and completes a remote transaction or resumes a request. -/
  | xrsp (m : XrspMsg)
  /-- HELLO (R108). A HELLO word on a sideband or in a HELLO message is checked and answered with JOIN or BYE. -/
  | hello (src : HelloSrc) (w : BitVec 64)
  /-- JOIN (R104). A partner's JOIN completes the exchange, and credits and indices are granted. -/
  | join (src : HelloSrc) (w : BitVec 64)
  /-- BYE (R110). A partner's BYE makes it depart, with the effects of Table 3.10. -/
  | bye (src : HelloSrc) (w : BitVec 64)
  /-- HELLO_REPEAT (R104). The own HELLO is sent again when no hello has been received within the repeat interval. -/
  | helloRepeat (src : HelloSrc)
  /-- RECLAIM_NOTICE (R218). A reclaim notice for a departed index starts the directory walk of the receiving slice. -/
  | reclaimNotice (ch : Half) (sslice : BitVec 5) (w : BitVec 64)
  /-- RECLAIM_ANSWER (R218). A slice's answer to a reclaim notice is counted, and the reclaim finishes when every slice has answered. -/
  | reclaimAnswer (ch : Half) (sslice : BitVec 5) (w : BitVec 64)
  /-- RECLAIM_WALK_STEP (R219). A half's reclaim walk clears dead indices in one directory entry. -/
  | reclaimWalkStep (h : Half)
  /-- LNK_UP_FALL (R110). LNK_UP of a peer or remote channel falls and its partners depart. -/
  | lnkUpFall (ch : Fin 3)
  /-- COUNTER_REPORT (R246). A landed or settled byte report reaches the counter unit and is applied to its counter. -/
  | counterReport
  /-- WAIT_RELEASE (R252). Up to four satisfied parked WAITs complete, oldest first. -/
  | waitRelease
  /-- MGMT_WRITE (R548). A management write is accepted and judged by the guard, which holds, completes or discards a pair, or queues the write. -/
  | mgmtWrite (a : BitVec 18) (v : BitVec 32) (mclk : Nat)
  /-- MGMT_READ (R114). A management read is accepted and returns after every earlier write has been applied. -/
  | mgmtRead (a : BitVec 18)
  /-- REG_WRITE (R12). A queued write to a register without behaviour of its own is applied in its domain. -/
  | regWrite
  /-- ALIAS_WRITE (R552). A bit alias write acts as one whole-word write with one bit replaced. -/
  | aliasWrite
  /-- PROFILE_SET (R31). A guarded write to PROFILE sets the profile's controls to their defaults. -/
  | profileSet
  /-- PORT_DISABLE (R78). A guarded write of 0 to EN of RPn_CTL disables a request port and reclaims its agent. -/
  | portDisable
  /-- PORT_ENABLE (R79). A guarded write of 1 to EN of RPn_CTL starts a new hello exchange on the port. -/
  | portEnable
  /-- HC_CMP_WRITE (R158). A write to HCn_CMP changes the compression mode and enabled encodings for later encodes. -/
  | hcCmpWrite
  /-- HC_BLW_WRITE (R160). A write to HCn_BLW enables or stops prefetch issue and sets DEPTH. -/
  | hcBlwWrite
  /-- CACHE_DISABLE (R185). A guarded write of 0 to CEN sends requests of the half to memory, bypassing the cache ways. -/
  | cacheDisable
  /-- CACHE_ENABLE (R186). A guarded write of 1 to CEN makes the lines left in the cache ways visible again. -/
  | cacheEnable
  /-- WAY_USE_WRITE (R164). A guarded write to HCn_WUSE0 or HCn_WUSE1 changes way uses and starts a sweep, or is ignored. -/
  | wayUseWrite
  /-- MASK_WRITE (R167). A write to an allocation mask changes victim choice from the next core cycle. -/
  | maskWrite
  /-- HR_CTL_WRITE (R171). A guarded write to HRk_CTL enables or disables a Hearth region subject to its rules. -/
  | hrCtlWrite
  /-- RE_CLN (R178). The range engine starts writing back the dirty homed lines of a range. -/
  | reCln
  /-- RE_INV (R178). The range engine starts invalidating and dropping the homed lines of a range. -/
  | reInv
  /-- RE_CLNINV (R178). The range engine starts writing back and then dropping the homed lines of a range. -/
  | reClninv
  /-- RE_ZERO (R178). The range engine starts setting the homed lines of a range to zero. -/
  | reZero
  /-- RE_PIN (R180). The range engine starts pinning the homed lines of a range into Hearth ways. -/
  | rePin
  /-- RE_UNPIN (R178). The range engine starts writing back and dropping the pinned lines of a range. -/
  | reUnpin
  /-- RE_ABORT (R183). ABORT stops the range engine after the line in progress in each half. -/
  | reAbort
  /-- RE_ACK (R183). ACK clears DONE of the range engine. -/
  | reAck
  /-- RE_LINE_VISIT (R177). The range engine acts on one homed line per core cycle in each half through the install stage. -/
  | reLineVisit (h : Half)
  /-- RE_COMPLETE (R177). The range operation completes once every line is visited and every WRITE it caused has its response. -/
  | reComplete
  /-- COH_CTL_WRITE (R227). A write to COH_CTL sets the hold window for windows that start later. -/
  | cohCtlWrite
  /-- COH_PRED_MODE (R228). A guarded write to COH_PRED sets where atomics run. -/
  | cohPredMode
  /-- COH_PRED_RST (R228). RST zeroes every contention predictor counter through the shadow copy. -/
  | cohPredRst
  /-- IDX_INST_WRITE (R565). A write to IDX_INSTk assigns directory indices to instances for later PLACE checks. -/
  | idxInstWrite
  /-- CTR_OWN_WRITE (R257). A write to CTR_OWNk assigns a block of counters to an instance. -/
  | ctrOwnWrite
  /-- ARB_CTL_WRITE (R258). A guarded write to ARB_CTL enables or disables the selected arrival binding. -/
  | arbCtlWrite
  /-- CTR_CMD_RESET (R259). RST of CTR_CMD resets the selected counter as a CTR_RESET. -/
  | ctrCmdReset
  /-- OPEN (R295). An OPEN leaves its queue, allocates Crucible units and seats an accumulation group. -/
  | aOpen (h k : Half)
  /-- MMA (R286). An MMA leaves its queue, takes a checkpoint when needed and feeds cycle groups into the MAC stage. -/
  | aMma (h k : Half)
  /-- REDUCE (R319). A REDUCE leaves its queue and folds K-steps of A into its group. -/
  | aReduce (h k : Half)
  /-- DRAIN (R311). A DRAIN finishes a group, writes its result rows and statistics and closes it. -/
  | aDrain (h k : Half)
  /-- DISCARD (R310). A DISCARD closes a group without a result. -/
  | aDiscard (h k : Half)
  /-- FEED_READ_COMPLETE (R303). An operand feed read completes, and on a refusal or ERR_DATA the operation stops and its group fails. -/
  | feedReadComplete (h : Half)
  /-- ANVIL_SPILL (R307). An FP32 group reaching its spill interval converts slot values to XA48 partials and zeroes the slots. -/
  | anvilSpill (h : Half)
  /-- ANVIL_OVERFLOW (R305). A slot overflow in an FP32 group with an MX operand restores the checkpoint, raises s and reruns the MMA. -/
  | anvilOverflow (h : Half)
  /-- ANVIL_OP_COMPLETE (R293). An operation's last cycle group leaves the adder tree and its STATUS is written to its descriptor slot. -/
  | anvilOpComplete (h : Half)
  /-- DRAIN_WRITE_COMPLETE (R313). A drain write completes, and the drain completes and closes its group after its last write. -/
  | drainWriteComplete (h : Half)
  /-- ANV_CTL_WRITE (R322). A guarded write to ANVn_CTL stops or lets operations leave the queues. -/
  | anvCtlWrite
  /-- DET_CTL_WRITE (R351). A guarded write to DET_CTL turns determinism enforcement on or off. -/
  | detCtlWrite
  /-- GRP_CMD_ABORT (R354). ABORT of GRPn_CMD acts as a GRP_ABORT of the selected group. -/
  | grpCmdAbort
  /-- INVOKE_DISPATCH (R359). The dispatcher starts the oldest queued invocation on a free enabled sequencer. -/
  | invokeDispatch (h : Half)
  /-- NOP (R365). The sequencer issues an instruction that does nothing. -/
  | iNop (h k : Half)
  /-- MOVI (R365). A sign-extended immediate is written to an A register. -/
  | iMovi (h k : Half)
  /-- ADDI (R365). A register plus a sign-extended immediate is written to an A register. -/
  | iAddi (h k : Half)
  /-- ADD (R365). The sum of two A registers is written modulo 2^64. -/
  | iAdd (h k : Half)
  /-- SUB (R365). The difference of two A registers is written modulo 2^64. -/
  | iSub (h k : Half)
  /-- AND (R365). The bitwise AND of two A registers is written. -/
  | iAnd (h k : Half)
  /-- OR (R365). The bitwise OR of two A registers is written. -/
  | iOr (h k : Half)
  /-- XOR (R365). The bitwise XOR of two A registers is written. -/
  | iXor (h k : Half)
  /-- SHLI (R365). An A register shifted left by an immediate is written. -/
  | iShli (h k : Half)
  /-- SHRI (R365). An A register shifted right by an immediate is written. -/
  | iShri (h k : Half)
  /-- MUL (R365). The low 64 bits of a product of two A registers are written. -/
  | iMul (h k : Half)
  /-- LDP (R365). Two constant pool words are loaded into an A register. -/
  | iLdp (h k : Half)
  /-- BEQ (R365). The program branches when two A registers are equal. -/
  | iBeq (h k : Half)
  /-- BNE (R365). The program branches when two A registers differ. -/
  | iBne (h k : Half)
  /-- BLTU (R365). The program branches when one A register is below the other, unsigned. -/
  | iBltu (h k : Half)
  /-- JMP (R365). The program branches to TGT. -/
  | iJmp (h k : Half)
  /-- SETC (R365). A loop counter takes bits 31:0 of an A register. -/
  | iSetc (h k : Half)
  /-- SETCI (R365). A loop counter takes an immediate. -/
  | iSetci (h k : Half)
  /-- LOOP (R365). A loop counter is decremented and the program branches while it is nonzero. -/
  | iLoop (h k : Half)
  /-- LD (R367). The sequencer sends an 8-byte RD_NC to the address's home. -/
  | iLd (h k : Half)
  /-- LD_COMPLETE (R368). An LD read completes and writes its destination register, or faults the program. -/
  | ldComplete (h k : Half)
  /-- ST (R367). The sequencer sends an 8-byte WR to the address's home. -/
  | iSt (h k : Half)
  /-- FENCE (R365). The program waits until every request it sent has completed. -/
  | iFence (h k : Half)
  /-- CADD (R369). The sequencer posts a CTR_ADD to a named counter. -/
  | iCadd (h k : Half)
  /-- CWAIT (R369). The sequencer sends a WAIT and issues nothing more until it completes. -/
  | iCwait (h k : Half)
  /-- CREAD (R369). The sequencer reads LANDED of a named counter into an A register. -/
  | iCread (h k : Half)
  /-- CRST (R369). The sequencer posts a CTR_RESET of a named counter. -/
  | iCrst (h k : Half)
  /-- PROGRAM_REQ_COMPLETE (R374). A completion of a program's store or counter request arrives and faults the program unless it is DONE. -/
  | programReqComplete (h k : Half)
  /-- DCOPY (R365). A descriptor slot is filled from a template of the constant pool. -/
  | iDcopy (h k : Half)
  /-- DSET (R366). One word of a descriptor slot is written from an A register by MODE. -/
  | iDset (h k : Half)
  /-- ISSUE (R371). A descriptor slot is copied into the operation queue and marked busy. -/
  | iIssue (h k : Half)
  /-- OPWAIT (R371). The program waits until a slot is free, then reads its STATUS word. -/
  | iOpwait (h k : Half)
  /-- END (R362). The program ends and waits for its operations and requests to finish. -/
  | iEnd (h k : Half)
  /-- END_COMPLETE (R362). Once every operation and request of an ended program is done, the INVOKE's RSP is presented. -/
  | endComplete (h k : Half)
  /-- SEQ_FAULT_COMPLETE (R375). After work in flight ends, the fault's DISCARDs are issued and the INVOKE completes with the fault code. -/
  | seqFaultComplete (h k : Half)
  /-- SEQ_ENABLE (R378). A guarded write to ENk of SEQn_CTL stops or allows dispatch to a sequencer. -/
  | seqEnable
  /-- SEQ_KILL (R378). KILLk faults a running program of the sequencer with cause 0x5. -/
  | seqKill
  /-- IMAGE_LOAD (R396). LOAD of IMG_CTL starts a load of the named slot, or a run-time reload is refused. -/
  | imageLoad
  /-- IMAGE_LOAD_END (R396). Once the image lines have arrived, the load checks, applies the sections and writes the structure words, or fails. -/
  | imageLoadEnd
  /-- LBL_SWAP (R413). SWAP makes the shadow label table live and starts copying it back. -/
  | lblSwap
  /-- SVC_CTL_WRITE (R433). A guarded write to SVC_CTL switches ingress regulation and memory read ordering. -/
  | svcCtlWrite
  /-- CLASS_DESC_WRITE (R428). A write to a class descriptor changes its kind, rates or bucket ceiling. -/
  | classDescWrite
  /-- CLASS_BUCKET_REFILL (R424). Every 1,024 core cycles each guaranteed class bucket gains GRD sectors, and a shortfall may be counted. -/
  | classBucketRefill (h : Half)
  /-- ECC_WRITEBACK (R441). A corrected code word is written back through the install stage unless it has changed since. -/
  | eccWriteback (h : Half)
  /-- ECC_RECHECK (R441). A rewritten word is reread, and an error marks the frame hard-failing for remap. -/
  | eccRecheck (h : Half)
  /-- STRUCT_VOTE (R454). Each core cycle a half votes the three copies of every structure word and rewrites failing copies. -/
  | structVote (h : Half)
  /-- RAS_FORCE (R455). FORCEn of RAS_CTL puts a half in its safe state. -/
  | rasForce
  /-- RAS_INJ_ARM (R464). ARM of RAS_INJ arms one error injection into the next written code word. -/
  | rasInjArm
  /-- RAS_INJ_DISARM (R464). A write with ARM 0 disarms the injection. -/
  | rasInjDisarm
  /-- RM_REMAP (R459). RMn_CMD with CLEAR 0 starts a remap of a frame into a spare row. -/
  | rmRemap
  /-- RM_RELEASE (R459). RMn_CMD with CLEAR 1 copies a spare row back and releases the entry. -/
  | rmRelease
  /-- REMAP_COPY (R459). A remap copies one code word per core cycle and swaps in the shadow remap table. -/
  | remapCopy (h : Half)
  /-- QN_GO (R463). GO of QNn_CTL starts a Quench pass over the named arrays and sets. -/
  | qnGo
  /-- QN_ABORT (R463). ABORT stops the Quench pass after the code word in progress. -/
  | qnAbort
  /-- QN_ACK (R463). ACK clears DONE of the Quench pass. -/
  | qnAck
  /-- QUENCH_READ (R461). The pass reads one code word in an idle cycle of its bank and treats any error. -/
  | quenchRead (h : Half)
  /-- STOP_IDLE_EXPIRY (R477). After STOPIDLE quiet core cycles AWAKEn falls and the 64-cycle tail begins. -/
  | stopIdleExpiry (h : Half)
  /-- STOP_TAIL_EXPIRY (R477). The tail ends without a beat and CKREQn falls on the next tick, putting the half in STOP. -/
  | stopTailExpiry (h : Half)
  /-- RET_ENTRY (R479). After RETIDLE ticks in STOP, PREQn moves to retention level. -/
  | retEntry (h : Half)
  /-- DEMAND_SAMPLE (R478). A demand sampled on a reference tick starts the clocks or the rail of a stopped or retained half. -/
  | demandSample (h : Half)
  /-- PACK_RISE (R479). PACKn is sampled 1 at the requested level and the half enters RET or raises CKREQn. -/
  | packRise (h : Half)
  /-- CKACK_RISE (R478). The half samples CKACKn at 1 and begins its start or wake delay. -/
  | ckackRise (h : Half)
  /-- CLOCK_START_DONE (R478). 200 core cycles after CKACKn, or 1,600 after a retention restore, AWAKEn rises and the half serves. -/
  | clockStartDone (h : Half)
  /-- PACK_TIMEOUT (R481). PACKn stays 0 for 256 ticks after PREQn moved to on, and PTO rises. -/
  | packTimeout (h : Half)
  /-- PWR_CTL_WRITE (R480). A write to PWR_CTL holds or releases the fast clocks and sets retention controls. -/
  | pwrCtlWrite
  /-- POWER_ON_RESET (R482). PORST_N clears everything, the always-on domain and journal included. -/
  | powerOnReset
  /-- BLOCK_RESET (R482). BLKRST_N clears every array and register outside the always-on domain and turns both halves off. -/
  | blockReset
  /-- JOURNAL_START (R483). On release of BLKRST_N the straps are sampled and the start journal begins. -/
  | journalStart (st : Straps)
  /-- JOURNAL_STEP_END (R483). A journal step ends by success, failure or limit, its record is written and the next step starts. -/
  | journalStepEnd (o : StepEnd)
  /-- PORT_RESET (R482). RPRST_N resets a request port, its agent departs, and a new hello starts at release. -/
  | portReset (p : PortIx)
  /-- JRN_CLR (R491). CLR of JRN_CTL clears the named journal records. -/
  | jrnClr
  /-- VI_RESET (R500). RESET raises the instance's generation and ends the old generation's work. -/
  | viReset
  /-- VI_FREEZE (R501). FREEZE removes the current generation and drains the instance's work. -/
  | viFreeze
  /-- VI_THAW (R499). THAW raises GEN and makes a frozen instance running. -/
  | viThaw
  /-- VI_SAVE (R502). SAVE parks the instance's groups and writes its save record. -/
  | viSave
  /-- VI_RESTORE (R503). RESTORE reads a save record, checks it and installs counters and parked groups. -/
  | viRestore
  /-- VI_CMD_DONE (R499). BUSY of VI_STAT falls when the running command's condition of Table 16.2 is met. -/
  | viCmdDone
  /-- VI_ENABLE (R504). A guarded write to EN of VI_CTL disables a frozen instance or enables a disabled one. -/
  | viEnable
  /-- VI_WCTL_WRITE (R497). A guarded write to VI_WCTL enables or disables a memory window. -/
  | viWctlWrite
  /-- DL_ENABLE (R507). A guarded write to EN of DL_CTL starts or stops dirty-page logging. -/
  | dlEnable
  /-- DL_SWITCH (R510). SWITCH flips the active bitmap and empties the dirty filter. -/
  | dlSwitch
  /-- DL_OR_COMPLETE (R511). A logger OR completes, and a failure is counted in FAILS. -/
  | dlOrComplete
  /-- SYNC_PULSE (R520). An accepted SYNC pulse latches TS, loads TS_NEXT when armed and applies an armed global stop. -/
  | syncPulse
  /-- TS_ARM (R520). ARM of TS_CTL arms the load of TS_NEXT at the next pulse. -/
  | tsArm
  /-- OFS_REMEASURE (R522). REMEAS of OFS_CTL starts an offset measurement of a package. -/
  | ofsRemeasure
  /-- TS_PROBE_REQUEST (R521). A timestamp probe request arrives and is answered with t2 and t3 − t2. -/
  | tsProbeRequest (schip : BitVec 5) (t1 : BitVec 64)
  /-- TS_PROBE_REPLY (R522). A probe reply arrives, its rtt and offset are computed and the next probe is sent or the entry updated. -/
  | tsProbeReply (schip : BitVec 5) (t2 : BitVec 64) (dt : BitVec 32)
  /-- PROBE_TIMEOUT (R522). A probe without a reply within 2^20 core cycles counts as lost. -/
  | probeTimeout
  /-- BREAKPOINT_HIT (R523). The next instruction matches an enabled breakpoint and the sequencer halts before it. -/
  | breakpointHit (h k : Half)
  /-- SEQ_HALT (R523). HALTk halts a sequencer before its next issue. -/
  | seqHalt
  /-- SEQ_RESUME (R525). RESUMEk lets a halted sequencer issue again. -/
  | seqResume
  /-- SEQ_STEP (R525). STEPk lets a halted sequencer issue exactly one instruction. -/
  | seqStep
  /-- TRC_ARM (R528). ARM of TRCn_CTL empties the trace buffer and starts ring capture. -/
  | trcArm
  /-- TRC_TRIG (R528). TRIG of TRCn_CTL triggers the trace when enabled. -/
  | trcTrig
  /-- TRC_ACK (R538). ACK of TRCn_CTL clears DONE of the trace buffer. -/
  | trcAck
  /-- TRACE_CAPTURE_END (R528). POST records after the trigger, capture stops and DONE rises. -/
  | traceCaptureEnd (h : Half)
  /-- PF_CLR (R531). CLRn of PF_CTL zeroes the profiling counters of a half. -/
  | pfClr
  /-- MB_GO (R555). GO of MB_CTL requests a 64-bit capture into the mailbox. -/
  | mbGo
  /-- MB_ACK (R555). ACK of MB_CTL clears VALID. -/
  | mbAck
  /-- DBG_MBSEL_WRITE (R555). A write to DBG_MBSEL selects a source and requests a capture with SRC 0. -/
  | dbgMbselWrite
  /-- MAILBOX_CAPTURE_DONE (R555). The source's sample reaches MB_LO and MB_HI and VALID rises on the next tick. -/
  | mailboxCaptureDone
  /-- DMP_ARM (R532). ARM of DMPk_CTL arms a dump trigger and clears its COUNT. -/
  | dmpArm
  /-- DMP_ACK (R538). ACK of DMPk_CTL clears DONE of the dump trigger. -/
  | dmpAck
  /-- DUMP_COPY_DONE (R533). The dump copy's last write completes, the trigger disarms and the INVOKE's RSP is presented. -/
  | dumpCopyDone
  /-- GS_GO (R535). GO of GS_CTL stops the slice on the next core cycle. -/
  | gsGo
  /-- GS_ARM (R535). GO with SYNC arms the global stop for the next accepted pulse. -/
  | gsArm
  /-- GS_RESUME (R537). RESUME of GS_CTL ends or disarms the global stop. -/
  | gsResume
  /-- IND_DATA_READ (R557). A read of IND_DATA returns the indirect word at IND_ADDR and increments IND_ADDR. -/
  | indDataRead
  /-- IND_DATA_WRITE (R557). A write of IND_DATA writes the indirect word at IND_ADDR and increments IND_ADDR. -/
  | indDataWrite
  /-- TIMESTAMP_TICK (R519). On each reference tick the timestamp counter TS adds 40. -/
  | timestampTick
  /-- PROFILING_CYCLE (R530). In each core cycle an enabled profiling counter set to a per-cycle event, such as core cycles or hold-queue cycles, adds its count. -/
  | profilingCycle (h : Half)
  /-- SWEEP_FRAME (R165). The way-use sweep passes one frame per core cycle through the install stage, evicts lines by the new use, and clears SWEEP after the last set. -/
  | sweepFrame (h : Half)
  /-- LABEL_SHADOW_COPY (R413). After a swap, one label context per core cycle is copied into the shadow table, and COPY falls after context 4,095. -/
  | labelShadowCopy
  /-- LNK_UP_RISE (R125). LNK_UP of a peer or remote channel rises, which makes the channel's link status read up once its hello is complete and acts as a demand of R478. -/
  | lnkUpRise (ch : Fin 3)
  /-- RESERVED_OPCODE (R75). A REQ beat with a reserved OPC is taken, carries no WD beats, and is refused with ERR_DECODE and logged as a violation. -/
  | reservedOpcode (p : PortIx) (opc : BitVec 6) (b : ReqBeat)
  /-- RESERVED_ANVIL_OP (R294). An operation with a reserved OP value reaches the head of its queue and is refused with ERR_DECODE in its STATUS. -/
  | reservedAnvilOp (h k : Half)
  /-- RESERVED_INSTRUCTION (R374). The sequencer fetches a word with a reserved opcode, or one whose fetch meets an uncorrectable error, and faults with cause 0x0 or 0x6. -/
  | reservedInstruction (h k : Half)
  deriving DecidableEq, Repr

end Sys2Proof
end

