-- ==== Sys2Proof/Machine/Format.lean ====
section
/-!
DEFINITION. Number formats (chapter 08): exact values, the one rounding of R265, conversions, microscaling blocks and the
order of R278. A value is kept exactly as sign, natural significand and exponent, and is rounded once where a rule says so.
-/

namespace Sys2Proof.Machine

/-- An exact value: NaN, an infinity, or (−1)^neg × man × 2^exp. A zero keeps its sign. -/
inductive Num where
  | nan
  | inf (neg : Bool)
  | fin (neg : Bool) (man : Nat) (exp : Int)
  deriving DecidableEq, Repr

/-- How a layout spends its highest exponent (Table 8.2): IEEE specials, the single NaN of E4M3, or none. -/
inductive Special where
  | ieee | e4m3 | none
  deriving DecidableEq, Repr

/-- A floating-point layout, Table 8.2 (R261). -/
structure Layout where
  ebits   : Nat
  mbits   : Nat
  bias    : Nat
  special : Special
  deriving DecidableEq, Repr

def binary32 : Layout := ⟨8, 23, 127, .ieee⟩
def binary16 : Layout := ⟨5, 10, 15, .ieee⟩
def bfloat16 : Layout := ⟨8, 7, 127, .ieee⟩
def e4m3 : Layout := ⟨4, 3, 7, .e4m3⟩
def e5m2 : Layout := ⟨5, 2, 15, .ieee⟩
def e2m3 : Layout := ⟨2, 3, 1, .none⟩
def e3m2 : Layout := ⟨3, 2, 3, .none⟩
def e2m1 : Layout := ⟨2, 1, 1, .none⟩
def xa48 : Layout := ⟨10, 37, 511, .ieee⟩

/-- Fraction, exponent and sign fields of an encoding. -/
def fracField (f : Layout) (x : Nat) : Nat := x % 2 ^ f.mbits
def expField (f : Layout) (x : Nat) : Nat := x / 2 ^ f.mbits % 2 ^ f.ebits
def signField (f : Layout) (x : Nat) : Bool := x / 2 ^ (f.mbits + f.ebits) % 2 == 1

/-- The encoding with the given fields. -/
def packFields (f : Layout) (neg : Bool) (e m : Nat) : Nat :=
  (if neg then 2 ^ (f.mbits + f.ebits) else 0) + e * 2 ^ f.mbits + m

/-- The value of an encoding (R261, R263, R264). -/
def decodeFloat (f : Layout) (x : Nat) : Num :=
  let e := expField f x
  let m := fracField f x
  let s := signField f x
  let top := 2 ^ f.ebits - 1
  if e == top && f.special == .ieee then (if m == 0 then .inf s else .nan)
  else if e == top && f.special == .e4m3 && m == 2 ^ f.mbits - 1 then .nan
  else if e == 0 then .fin s m (1 - (f.bias : Int) - f.mbits)
  else .fin s (2 ^ f.mbits + m) ((e : Int) - f.bias - f.mbits)

/-- The canonical NaN of a layout (R262). A layout without NaN has none to write; no rule asks it for one. -/
def canonicalNan (f : Layout) : Nat :=
  match f.special with
  | .ieee => packFields f false (2 ^ f.ebits - 1) (2 ^ (f.mbits - 1))
  | _ => packFields f false (2 ^ f.ebits - 1) (2 ^ f.mbits - 1)

/-- An infinity of a layout that has them. -/
def infinityOf (f : Layout) (neg : Bool) : Nat := packFields f neg (2 ^ f.ebits - 1) 0

/-- The largest finite encoding of a layout (R262). -/
def largestFinite (f : Layout) (neg : Bool) : Nat :=
  match f.special with
  | .ieee => packFields f neg (2 ^ f.ebits - 2) (2 ^ f.mbits - 1)
  | .e4m3 => packFields f neg (2 ^ f.ebits - 1) (2 ^ f.mbits - 2)
  | .none => packFields f neg (2 ^ f.ebits - 1) (2 ^ f.mbits - 1)

/-- `man` divided by 2^d, rounded to nearest with ties to even (R265). -/
def shiftRne (man d : Nat) : Nat :=
  let q := man / 2 ^ d
  let r := man % 2 ^ d
  let half := 2 ^ (d - 1)
  if d == 0 then q
  else if r > half || (r == half && q % 2 == 1) then q + 1 else q

/-- A finite value rounded to a layout by R265: its encoding, or none when the rounded magnitude exceeds the largest finite
value. -/
def roundFinite (f : Layout) (neg : Bool) (man : Nat) (exp : Int) : Option Nat :=
  if man == 0 then some (packFields f neg 0 0)
  else
    let lead : Int := exp + man.log2
    let q : Int := max (lead - f.mbits) (1 - (f.bias : Int) - f.mbits)
    let n := if q ≤ exp then man * 2 ^ (exp - q).toNat else shiftRne man (q - exp).toNat
    let n' := if n == 2 ^ (f.mbits + 1) then 2 ^ f.mbits else n
    let q' := if n == 2 ^ (f.mbits + 1) then q + 1 else q
    if n' < 2 ^ f.mbits then some (packFields f neg 0 n')
    else
      let e : Int := q' + f.mbits + f.bias
      let m := n' - 2 ^ f.mbits
      let top : Int := 2 ^ f.ebits - 1
      let tooLarge :=
        match f.special with
        | .ieee => decide (e ≥ top)
        | .e4m3 => decide (e > top) || (decide (e = top) && m == 2 ^ f.mbits - 1)
        | .none => decide (e > top)
      if tooLarge then none else some (packFields f neg e.toNat m)

/-- A value in a layout with infinities; an overflow gives an infinity of its sign (Table 8.7, R274). -/
def encodeFloat (f : Layout) (v : Num) : Nat :=
  match v with
  | .nan => canonicalNan f
  | .inf s => infinityOf f s
  | .fin s m e => (roundFinite f s m e).getD (infinityOf f s)

/-- The FP8 drains of Table 8.7: SAT = 1 saturates a finite overflow, SAT = 0 gives an infinity or, for E4M3, 0x7F. -/
def encodeFp8 (f : Layout) (sat : Bool) (v : Num) : Nat :=
  match v with
  | .nan => canonicalNan f
  | .inf s => if f.special == .e4m3 then canonicalNan f else infinityOf f s
  | .fin s m e =>
    (roundFinite f s m e).getD
      (if sat then largestFinite f s else if f.special == .e4m3 then canonicalNan f else infinityOf f s)

/-- The significand of a value at exponent `e`, not above its own. -/
def alignedInt (neg : Bool) (man : Nat) (exp e : Int) : Int :=
  let v : Int := man * 2 ^ (exp - e).toNat
  if neg then -v else v

/-- The exact sum of two values (R266, R274): opposite infinities and NaN give NaN; an exact zero is +0 unless both addends
are −0. -/
def addNum (a b : Num) : Num :=
  match a, b with
  | .nan, _ => .nan
  | _, .nan => .nan
  | .inf s, .inf t => if s == t then .inf s else .nan
  | .inf s, _ => .inf s
  | _, .inf t => .inf t
  | .fin s m e, .fin t n g =>
    let x := min e g
    let v := alignedInt s m e x + alignedInt t n g x
    if v == 0 then .fin (s && t && m == 0 && n == 0) 0 x
    else .fin (v < 0) v.natAbs x

/-- The exact product of two values, with the sign rule of the products; an infinity times zero is NaN. -/
def mulNum (a b : Num) : Num :=
  match a, b with
  | .nan, _ => .nan
  | _, .nan => .nan
  | .inf s, .inf t => .inf (s != t)
  | .inf s, .fin t n _ => if n == 0 then .nan else .inf (s != t)
  | .fin s m _, .inf t => if m == 0 then .nan else .inf (s != t)
  | .fin s m e, .fin t n g => .fin (s != t) (m * n) (e + g)

/-- The value with its sign changed. -/
def negNum (a : Num) : Num :=
  match a with
  | .nan => .nan
  | .inf s => .inf (!s)
  | .fin s m e => .fin (!s) m e

/-- The value scaled by 2^k. -/
def scaleNum (k : Int) (a : Num) : Num :=
  match a with
  | .fin s m e => .fin s m (e + k)
  | x => x

def isNan (a : Num) : Bool := match a with | .nan => true | _ => false
def isFiniteNum (a : Num) : Bool := match a with | .fin .. => true | _ => false
def isZeroNum (a : Num) : Bool := match a with | .fin _ m _ => m == 0 | _ => false
def numNeg (a : Num) : Bool := match a with | .nan => false | .inf s => s | .fin s _ _ => s

/-- An integer as a value. -/
def numOfInt (n : Int) : Num := .fin (n < 0) n.natAbs 0

/-- The order of R278 without NaNs: a is below b, with −0 below +0. -/
def belowNum (a b : Num) : Bool :=
  match a, b with
  | .inf s, .inf t => s && !t
  | .inf s, _ => s
  | _, .inf t => !t
  | .fin s m e, .fin t n g =>
    let x := min e g
    let v := alignedInt s m e x
    let w := alignedInt t n g x
    if v == w then v == 0 && s && !t else decide (v < w)
  | _, _ => false

/-- The order of R278 for argmax (`hi`), where a NaN ranks above +infinity, and for argmin, where it ranks below −infinity. -/
def belowArg (hi : Bool) (a b : Num) : Bool :=
  match isNan a, isNan b with
  | true, true => false
  | true, false => !hi
  | false, true => hi
  | false, false => belowNum a b

/-- The sum of two XA48 encodings (R274). -/
def addXa48 (a b : BitVec 48) : BitVec 48 :=
  BitVec.ofNat 48 (encodeFloat xa48 (addNum (decodeFloat xa48 a.toNat) (decodeFloat xa48 b.toNat)))

/-- A value that XA48 holds exactly (R273). -/
def toXa48 (v : Num) : BitVec 48 := BitVec.ofNat 48 (encodeFloat xa48 v)

/-- A signed integer of `w` bits. -/
def intOfBits (w x : Nat) : Int := (BitVec.ofNat w x).toInt

/-- The layout behind a format code of a single element (Table 8.1); integers have none. -/
def layoutOf (fmt : Nat) : Option Layout :=
  match fmt with
  | 1 => some binary32
  | 2 => some bfloat16
  | 3 => some binary16
  | 4 => some e4m3
  | 5 => some e5m2
  | 6 => some e4m3
  | 7 => some e5m2
  | 8 => some e2m3
  | 9 => some e3m2
  | 10 => some e2m1
  | 14 => some xa48
  | _ => none

/-- Element bits of a format code (Table 8.1). -/
def elementBits (fmt : Nat) : Nat :=
  match fmt with
  | 0 => 32 | 1 => 32 | 2 => 16 | 3 => 16 | 4 => 8 | 5 => 8 | 6 => 8 | 7 => 8
  | 8 => 6 | 9 => 6 | 10 => 4 | 11 => 8 | 12 => 8 | 13 => 4 | 14 => 48 | _ => 0

/-- A microscaling format (Table 8.4). -/
def isMx (fmt : Nat) : Bool := decide (6 ≤ fmt) && decide (fmt ≤ 11)

/-- The value of an element under a format code, before any block scale (R261, R267, R269). -/
def elementNum (fmt x : Nat) : Num :=
  match layoutOf fmt with
  | some f => decodeFloat f x
  | none =>
    if fmt == 11 then scaleNum (-6) (numOfInt (intOfBits 8 x))
    else numOfInt (intOfBits (elementBits fmt) x)

/-- The value of an element under its block's E8M0 scale (R268). -/
def scaledNum (fmt scale x : Nat) : Num :=
  if scale == 255 then .nan else scaleNum ((scale : Int) - 127) (elementNum fmt x)

/-- Exponent of the element format's largest power of two (R277). -/
def mxEmax (fmt : Nat) : Int :=
  match fmt with
  | 6 => 8 | 7 => 15 | 8 => 2 | 9 => 4 | 10 => 2 | _ => 0

/-- The largest element value of a microscaling float (Table 8.4): 57,344 for E5M2, else the layout's largest finite value. -/
def mxFloatElement (f : Layout) (v : Num) : Nat :=
  match v with
  | .fin s m e => (roundFinite f s m e).getD (largestFinite f s)
  | _ => 0

/-- A finite value rounded to an integer, ties to even (R265). -/
def roundInt (v : Num) : Int :=
  match v with
  | .fin s m e =>
    let n := if 0 ≤ e then m * 2 ^ e.toNat else shiftRne m (-e).toNat
    if s then -(n : Int) else n
  | _ => 0

/-- An MXINT8 element: t × 64 rounded and saturated to −128 and 127 (R277). -/
def mxIntElement (v : Num) : Nat :=
  (BitVec.ofInt 8 (max (-128) (min 127 (roundInt (scaleNum 6 v))))).toNat

/-- floor(log2 |v|) of a nonzero finite value. -/
def floorLog2 (v : Num) : Int :=
  match v with
  | .fin _ m e => e + m.log2
  | _ => 0

/-- The largest magnitude of a list of finite values. -/
def largestMag (vs : List Num) : Num :=
  vs.foldl (fun a v =>
    let b := match v with | .fin _ m e => Num.fin false m e | x => x
    if belowNum a b then b else a) (.fin false 0 0)

/-- One microscaling block from 32 values (R277): the scale byte and the element encodings. -/
def quantiseBlock (fmt : Nat) (vs : List Num) : Nat × List Nat :=
  if vs.any (fun v => !isFiniteNum v) then (255, vs.map fun _ => 0)
  else
    let a := largestMag vs
    if isZeroNum a then
      (0, vs.map fun v => match layoutOf fmt with | some f => packFields f (numNeg v) 0 0 | none => 0)
    else
      let x := max 0 (min 254 (floorLog2 a - mxEmax fmt + 127))
      (x.toNat, vs.map fun v =>
        let t := scaleNum (127 - x) v
        match layoutOf fmt with
        | some f => mxFloatElement f t
        | none => mxIntElement t)

/-- An integer saturated to a signed format of `w` bits (Table 8.7). -/
def saturateInt (w : Nat) (n : Int) : Nat :=
  (BitVec.ofInt w (max (-(2 ^ (w - 1) : Int)) (min (2 ^ (w - 1) - 1) n))).toNat

/-- The element-wise add of ADDL and of the float atomics (Table 8.7): INT32 wraps, a float is the exact sum rounded once. -/
def addElement (fmt a b : Nat) : Nat :=
  match layoutOf fmt with
  | some f => encodeFloat f (addNum (decodeFloat f a) (decodeFloat f b))
  | none => (a + b) % 2 ^ elementBits fmt

end Sys2Proof.Machine
end

