-- ==== Sys2Proof/Machine/AnvilMath.lean ====
section
/-!
DEFINITION. The arithmetic of the Anvil (chapters 08 to 10): products and the step of accumulation (R282, R329, R330), reductions (R320,
R567), the band combination and results of a drain (R311, R321), row statistics and the exp2 unit (R316, R317).
-/

namespace Sys2Proof.Machine

/-! ## Formats and shapes (R280, R281, R284) -/

/-- Class of an input format: 0 float, 1 integer; none is no Anvil operand. -/
def inputClass (fmt : Nat) : Option Nat :=
  if 1 ≤ fmt ∧ fmt ≤ 11 then some 0 else if fmt = 12 ∨ fmt = 13 then some 1 else none

/-- g of a format (Table 9.1). -/
def rateOf (fmt : Nat) : Nat :=
  match fmt with
  | 1 => 1 | 2 => 2 | 3 => 2 | 10 => 8 | 13 => 8 | _ => 4

/-- Rows and columns of a shape (Table 9.2). -/
def shapeDims (shape : Nat) : Nat × Nat :=
  match shape with
  | 0 => (32, 32) | 1 => (64, 32) | 2 => (16, 32) | 3 => (8, 32) | _ => (64, 64)

/-- Bands of a shape. -/
def shapeBands (shape : Nat) : Nat := match shape with | 2 => 2 | 3 => 4 | _ => 1

/-- Slots of a tile with an FP32 or INT32 accumulator. -/
def shapeSlots (shape : Nat) : Nat := match shape with | 1 => 2 | 4 => 4 | _ => 1

/-- The output and band that a role of cell (i, j) holds: row, column, band (Table 9.2, R285). -/
def placeOut (shape i j role : Nat) : Nat × Nat × Nat :=
  match shape with
  | 1 => (i + 32 * role, j, 0)
  | 2 => (i % 16, j, i / 16)
  | 3 => (i % 8, j, i / 8)
  | 4 => (i + 32 * (role / 2), j + 32 * (role % 2), 0)
  | _ => (i, j, 0)

/-- The cell and role that hold band b of output (m, n). -/
def outPlace (shape m n b : Nat) : Nat × Nat × Nat :=
  match shape with
  | 1 => (m % 32, n, m / 32)
  | 2 => (m + 16 * b, n, 0)
  | 3 => (m + 8 * b, n, 0)
  | 4 => (m % 32, n % 32, 2 * (m / 32) + n / 32)
  | _ => (m, n, 0)

/-! ## Products and the step -/

/-- A format whose zero has no sign (R329). -/
def unsignedZero (fmt : Nat) : Bool := fmt == 11 || fmt == 12 || fmt == 13

/-- A product of two elements (R282, R329) with the factor 2^−s of R305. -/
def product (af bf s : Nat) (a b : Num) : Num :=
  let p := mulNum a b
  if isZeroNum p && ((unsignedZero af && isZeroNum a) || (unsignedZero bf && isZeroNum b)) then .fin false 0 0
  else scaleNum (-(s : Int)) p

/-- The layout of an accumulator; INT32 has none. -/
def accLayout (acc : Nat) : Layout := if acc == 2 then xa48 else binary32

/-- A finite value that a layout rounds to an infinity. -/
def overflowsIn (f : Layout) (v : Num) : Bool := match v with | .fin s m e => (roundFinite f s m e).isNone | _ => false

/-- One step of accumulation (R283, R330): the new value, whether it overflowed (R305), whether an INT32 addition wrapped. -/
def accStep (acc y : Nat) (ps : List Num) : Nat × Bool × Bool :=
  if acc == 1 then
    let x := ps.foldl (fun (a : Int) p => a + roundInt p) (intOfBits 32 y)
    ((BitVec.ofInt 32 x).toNat, false, !(decide (-(2 ^ 31 : Int) ≤ x) && decide (x < 2 ^ 31)))
  else
    let t := ps.foldl addNum (decodeFloat (accLayout acc) y)
    (encodeFloat (accLayout acc) t, overflowsIn (accLayout acc) t, false)

/-- A slot value or partial scaled by 2^−k with one rounding (R305, R333). -/
def rescale (f : Layout) (k x : Nat) : Nat := encodeFloat f (scaleNum (-(k : Int)) (decodeFloat f x))

/-! ## Reductions (R320, R567) -/

/-- An element as a slot of a max, min, argmax or argmin group holds it. -/
def heldForm (fmt scale x : Nat) : BitVec 32 :=
  if isMx fmt then BitVec.ofNat 32 (scale * 256 + x)
  else match layoutOf fmt with
    | some f => BitVec.ofNat 32 (encodeFloat binary32 (decodeFloat f x))
    | none => BitVec.ofInt 32 (intOfBits (elementBits fmt) x)

/-- The initial value of a slot (R295, R567). -/
def heldInitial (fmt func : Nat) : BitVec 32 :=
  let low := func == 1 || func == 3
  if func == 0 || func == 7 then 0
  else if isMx fmt then 0x10000
  else if fmt == 12 || fmt == 13 then (if low then 0x80000000 else 0x7FFFFFFF)
  else if low then 0xFF800000 else 0x7F800000

/-- The value of a slot of such a group. -/
def heldNum (fmt func : Nat) (x : BitVec 32) : Num :=
  if isMx fmt then
    (if bitAt x 16 then .inf (func == 1 || func == 3) else scaledNum fmt (x.extractLsb' 8 8).toNat (x.extractLsb' 0 8).toNat)
  else if fmt == 12 || fmt == 13 then numOfInt x.toInt
  else decodeFloat binary32 x.toNat

/-- y is strictly better than x for max and argmax (`hi`), or for min and argmin (R278). -/
def better (hi : Bool) (y x : Num) : Bool := if hi then belowArg true x y else belowArg false y x

def funcHigh (func : Nat) : Bool := func == 1 || func == 3

/-- Max and min: the better of the slot and each element, in turn. -/
def foldBest (fmt func : Nat) (slot : BitVec 32) (xs : List (BitVec 32)) : BitVec 32 :=
  xs.foldl (fun s x => if better (funcHigh func) (heldNum fmt func x) (heldNum fmt func s) then x else s) slot

/-- Argmax and argmin: the best element of the cycle group, the lowest K-step on a tie. -/
def candidate (fmt func : Nat) (xs : List (BitVec 32 × Nat)) : Option (BitVec 32 × Nat) :=
  xs.foldl (fun b x => match b with
    | none => some x
    | some y => if better (funcHigh func) (heldNum fmt func x.1) (heldNum fmt func y.1) then some x else some y) none

/-- The held pair after a cycle group. -/
def foldArg (fmt func : Nat) (val idx : BitVec 32) (xs : List (BitVec 32 × Nat)) : BitVec 32 × BitVec 32 :=
  match candidate fmt func xs with
  | none => (val, idx)
  | some (v, k) =>
    if idx == 0xFFFFFFFF || better (funcHigh func) (heldNum fmt func v) (heldNum fmt func val) then (v, BitVec.ofNat 32 k) else (val, idx)

/-! ## Fixed trees -/

/-- One level of a pairwise tree: neighbours combine, a last one alone passes. -/
def pairUp {α : Type} (f : α → α → α) (xs : List α) : List α :=
  match xs with
  | a :: b :: r => f a b :: pairUp f r
  | x => x

/-- A pairwise tree over a list. -/
def treeFold {α : Type} (fuel : Nat) (f : α → α → α) (xs : List α) : List α :=
  match fuel with
  | 0 => xs
  | n + 1 => if xs.length ≤ 1 then xs else treeFold n f (pairUp f xs)

/-- Argmax and argmin in the tree: the better value, the lower index on equal values (R321). -/
def combineArg (fmt func : Nat) (x y : BitVec 32 × BitVec 32) : BitVec 32 × BitVec 32 :=
  let a := heldNum fmt func x.1
  let b := heldNum fmt func y.1
  if better (funcHigh func) b a then y
  else if !better (funcHigh func) a b && decide (y.2.toNat < x.2.toNat) then y
  else x

/-! ## Combination and results -/

/-- An addition of XA48 values, or of INT32 values with its wrap (R267, R274). -/
def addAcc (acc : Nat) (x y : Nat × Bool) : Nat × Bool :=
  if acc == 1 then
    let v := intOfBits 32 x.1 + intOfBits 32 y.1
    ((BitVec.ofInt 32 v).toNat, x.2 || y.2 || !(decide (-(2 ^ 31 : Int) ≤ v) && decide (v < 2 ^ 31)))
  else ((addXa48 (BitVec.ofNat 48 x.1) (BitVec.ofNat 48 y.1)).toNat, false)

/-- The value of a band at the drain (R311). -/
def bandValue (acc slot : Nat) (part : Option (BitVec 48)) : Nat :=
  if acc == 0 then
    let x := toXa48 (decodeFloat binary32 slot)
    (match part with | none => x | some p => addXa48 p x).toNat
  else slot

/-- The combination of the bands. -/
def combineBands (acc : Nat) (vs : List Nat) : Nat × Bool :=
  ((treeFold 2 (addAcc acc) (vs.map fun v => (v, false))).head?).getD (0, false)

/-- A combined value as a number. -/
def accNum (acc w : Nat) : Num := if acc == 1 then numOfInt (intOfBits 32 w) else decodeFloat xa48 w

/-- A value converted to a result format (R276). -/
def resultCode (rfmt : Nat) (sat : Bool) (v : Num) : Nat :=
  match rfmt with
  | 4 => encodeFp8 e4m3 sat v
  | 5 => encodeFp8 e5m2 sat v
  | 12 => saturateInt 8 (roundInt v)
  | 13 => saturateInt 4 (roundInt v)
  | 0 => saturateInt 32 (roundInt v)
  | _ => match layoutOf rfmt with
    | some f => encodeFloat f v
    | none => 0

/-- A result that is NaN. -/
def resultNan (rfmt x : Nat) : Bool := match layoutOf rfmt with | some f => isNan (decodeFloat f x) | none => false

/-- Elements packed as R270 lays them out, the first lowest. -/
def packElems (w : Nat) (xs : List Nat) : Nat := xs.foldr (fun x a => a * 2 ^ w + x) 0

/-- A list in pieces of 32. -/
def blocks32 (fuel : Nat) (xs : List Num) : List (List Num) :=
  match fuel with
  | 0 => []
  | n + 1 => if xs.isEmpty then [] else xs.take 32 :: blocks32 n (xs.drop 32)

/-! ## Row statistics (R316 to R318) -/

/-- M is at most the binary32 significand of 2^(j/128): 2M − 1 < 2 · 2^23 · 2^(j/128), so that the largest such M is the nearest. -/
def expAtMost (j m : Nat) : Bool := decide ((2 * m - 1) ^ 128 < 2 ^ (128 * 24 + j))

/-- The significand of T[j], found bit by bit. -/
def expSignificand (j : Nat) : Nat :=
  (List.range 24).foldl (fun a i => let b := a + 2 ^ (23 - i); if expAtMost j b then b else a) 0

/-- T[j], the binary32 value nearest 2^(j/128) (R317). -/
def expTable (j : Nat) : Num := .fin false (expSignificand j) (-23)

/-- A value rounded to binary32. -/
def round32 (v : Num) : Num := decodeFloat binary32 (encodeFloat binary32 v)

/-- The exp2 unit (R317) on a binary32 value. -/
def exp2Unit (t : Num) : Num :=
  match t with
  | .nan => .nan
  | .inf s => if s then .fin false 0 0 else .inf false
  | .fin s m e =>
    -- in units of 2^−149
    let v : Int := alignedInt s m e (-149)
    if v < -151 * 2 ^ 149 then .fin false 0 0
    else
      let n := v / 2 ^ 149
      let f := (v % 2 ^ 149).toNat
      let j := 128 * f / 2 ^ 149
      let r : Num := .fin false (f - j * 2 ^ 142) (-149)
      let u := round32 (mulNum r (decodeFloat binary32 0x3E75FDF0))
      let u := round32 (addNum u (decodeFloat binary32 0x3F317218))
      let u := round32 (mulNum u r)
      let w := round32 (mulNum (expTable j) u)
      let w := round32 (addNum w (expTable j))
      round32 (scaleNum n w)

/-- m_r and s_r of a row, as binary32 (R316). -/
def rowStats (vals : List Num) (c : Nat) : Nat × Nat :=
  let xs := vals.map round32
  let mr := match xs with
    | [] => Num.nan
    | x :: r => r.foldl (fun a y => if better true y a then y else a) x
  let es := xs.map fun x =>
    let d := round32 (addNum x (negNum mr))
    toXa48 (exp2Unit (round32 (mulNum d (decodeFloat binary32 c))))
  let s := ((treeFold 6 addXa48 es).head?).getD 0
  (encodeFloat binary32 mr, encodeFloat binary32 (decodeFloat xa48 s.toNat))

end Sys2Proof.Machine
end

