-- ==== Sys2Proof/Machine/Ecc.lean ====
section
/-!
DEFINITION. The code of R438 and R439. The code is linear, so the syndrome and the parity of a stored word are those of the
positions at which it differs from the encoding of its data (log 5): the model keeps those positions as a mask.
-/

namespace Sys2Proof.Machine

/-- Positions 0 to 265 whose bit is set. -/
def maskPositions (x : CodeWord) : List Nat := (List.range 266).filter fun p => x.getLsbD p

/-- A check position: 0, or a power of two (R438). -/
def isCheckPos (p : Nat) : Bool := p == 0 || (List.range 9).any fun j => p == 2 ^ j

/-- The positions of the data bits d0 to d255, ascending (R438). -/
def dataPositions : List Nat := (List.range 266).filter fun p => !isCheckPos p

/-- The data bits of a code word. -/
def dataBits (x : CodeWord) : BitVec 256 :=
  (dataPositions.zipIdx).foldl (fun a pi => if x.getLsbD pi.1 then a ||| (1#256 <<< pi.2) else a) 0

/-- The code word of 256 data bits (R438). -/
def eccEncode (d : BitVec 256) : CodeWord :=
  let body : CodeWord := (dataPositions.zipIdx).foldl (fun a pi => if d.getLsbD pi.2 then a ||| (1#266 <<< pi.1) else a) 0
  let s := (maskPositions body).foldl Nat.xor 0
  let checks : CodeWord := (List.range 9).foldl (fun a j => if s.testBit j then a ||| (1#266 <<< (2 ^ j)) else a) body
  if (maskPositions checks).length % 2 == 1 then checks ||| 1 else checks

/-- The syndrome of a stored word: the exclusive or of its set positions (R439). -/
def syndrome (x : CodeWord) : Nat := (maskPositions x).foldl Nat.xor 0

/-- The parity P of a stored word (R439). -/
def parityP (x : CodeWord) : Bool := (maskPositions x).length % 2 == 1

/-- How a read of a code word ends (Table 14.1): no error or corrected, with the flips that remain in the data (R568), or
uncorrectable. -/
inductive EccRead where
  | clean (left : BitVec 256)
  | corrected (left : BitVec 256)
  | bad
  deriving DecidableEq, Repr

/-- Table 14.1 on the mask of a stored word (R439, R568). -/
def eccRead (mask : CodeWord) : EccRead :=
  if mask == 0 then .clean 0
  else
    let s := syndrome mask
    if parityP mask then
      if s == 0 then .corrected (dataBits mask)
      else if s ≤ 265 then .corrected (dataBits (mask ^^^ (1#266 <<< s)))
      else .bad
    else if s == 0 then .clean (dataBits mask)
    else .bad

/-- The flips of the data that a read of the word lets pass (R568). -/
def leftOf (mask : CodeWord) : BitVec 256 :=
  match eccRead mask with
  | .clean x => x
  | .corrected x => x
  | .bad => 0

end Sys2Proof.Machine
end

