-- ==== Sys2Proof/Machine/State.lean ====
section
/-!
DEFINITION. The state of the slice as plain data: the host-written registers (`Regs`), everything that moves by itself
(`Mach`), and the queue of waiting commands. INVENTORY.md, "State", lists each piece with its rule.
-/

namespace Sys2Proof.Machine

/-- A sparse table: keys strictly rising, no entry equal to what an absent key reads as (Laws/Sparse.lean). -/
abbrev Tab (α : Type) := List (Nat × α)

/-! ## Host-written registers -/

/-- HCn_CMP, HCn_REPL, HCn_BLW, HCn_CTL, HCn_WUSE0/1, the allocation masks and GRPn_SEL of one half (R158 to R160, R187 to
R189, R353). `wuse` holds the 24 two-bit use codes, way w in bits 2w + 1 to 2w. -/
structure HcRegs where
  cmode   : BitVec 2
  bexp    : Bool
  delta   : Bool
  rep     : Bool
  zero    : Bool
  pfage   : BitVec 2
  nage    : BitVec 2
  depth   : BitVec 5
  blwEn   : Bool
  cen     : Bool
  wuse    : BitVec 48
  amask   : Vector (BitVec 24) 16
  pmask   : BitVec 24
  xmask   : BitVec 24
  grpSel  : BitVec 6
  deriving DecidableEq, Repr

/-- A Hearth region entry (R170, R191). -/
structure Region where
  base : BitVec 32
  size : BitVec 16
  en   : Bool
  inst : BitVec 6
  ways : BitVec 24
  deriving DecidableEq, Repr

/-- An index or a counter block assigned to an instance: IDX_INST (R565), CTR_OWN (R257). -/
structure Owner where
  v    : Bool
  inst : BitVec 6
  deriving DecidableEq, Repr

/-- An arrival binding (R242): first granule, length in granules, counter, EN. -/
structure Binding where
  base  : BitVec 42
  len   : BitVec 20
  slice : BitVec 5
  ctr   : BitVec 13
  en    : Bool
  deriving DecidableEq, Repr

/-- A label context (R410). -/
structure LabelCtx where
  en    : Bool
  cls   : BitVec 4
  inst  : BitVec 6
  attr  : BitVec 6
  burst : BitVec 16
  rate  : BitVec 13
  deriving DecidableEq, Repr

/-- A class descriptor CLSk_D0 to CLSk_D2 (R422). -/
structure ClassDesc where
  kind   : BitVec 2
  grd    : BitVec 13
  cburst : BitVec 15
  gwr    : BitVec 13
  ieDl   : Bool
  ieSf   : Bool
  deriving DecidableEq, Repr

/-- An instance entry (R493). -/
structure Instance where
  en  : Bool
  gen : BitVec 4
  frz : Bool
  deriving DecidableEq, Repr

/-- A memory window (R496). -/
structure Window where
  base : BitVec 31
  size : BitVec 20
  en   : Bool
  inst : BitVec 6
  deriving DecidableEq, Repr

/-- A breakpoint BPn_k_j (R541). -/
structure Breakpoint where
  en    : Bool
  om    : Bool
  optag : BitVec 16
  pc    : BitVec 12
  deriving DecidableEq, Repr

/-- TRCn_CTL and TRCn_DEPTH fields that keep a value (R542). -/
structure TraceCfg where
  om     : Bool
  seqs   : BitVec 2
  src    : BitVec 4
  toptag : BitVec 16
  post   : BitVec 11
  pre    : BitVec 11
  deriving DecidableEq, Repr

/-- PFn_CFGk and PFn_OPTk (R542). -/
structure ProfCfg where
  evt   : BitVec 8
  lmode : BitVec 2
  lsel  : BitVec 12
  oval  : BitVec 16
  omask : BitVec 16
  deriving DecidableEq, Repr

/-- The written registers of a dump trigger (R543); addresses in lines. -/
structure DumpCfg where
  src   : BitVec 44
  dst   : BitVec 44
  step  : BitVec 32
  len   : BitVec 17
  optag : BitVec 16
  deriving DecidableEq, Repr

/-- A program table entry (R392). -/
structure ProgEntry where
  optag : BitVec 16
  v0    : Bool
  pc0   : BitVec 12
  v1    : Bool
  pc1   : BitVec 12
  deriving DecidableEq, Repr

/-- Every register that the host or a load writes, and the stores that only they write. -/
structure Regs where
  profile  : BitVec 2
  detEn    : Bool
  rpEn     : Vector Bool 4
  hc       : Vector HcRegs 2
  hr       : Vector Region 16
  reAddrL  : BitVec 32
  reAddrH  : BitVec 10
  reLen    : BitVec 32
  reIe     : Bool
  reOp     : BitVec 3
  cohHold  : BitVec 11
  predMode : BitVec 2
  idxInst  : Vector Owner 64
  ctrOwn   : Vector Owner 64
  arb      : Tab Binding
  arbSel   : BitVec 8
  ctrSel   : BitVec 13
  svcReg   : Bool
  svcOrder : Bool
  lblSrc   : Bool
  live     : Tab LabelCtx
  shadow   : Tab LabelCtx
  lblLsel  : BitVec 12
  cls      : Vector ClassDesc 16
  mack     : Vector (BitVec 32) 16
  anvEn    : Vector Bool 2
  seqEn    : Vector Bool 4
  rasAuto  : Bool
  ieQn     : Bool
  ieVio    : Bool
  ieLoss   : Bool
  lossAck  : BitVec 32
  lossSel  : BitVec 6
  vioAck   : BitVec 32
  vioSel   : BitVec 6
  injHalf  : Bool
  injArray : BitVec 4
  injTwo   : Bool
  injPosB  : BitVec 9
  injPosA  : BitVec 9
  rmCmd    : Vector (BitVec 32) 2
  qnFirst  : Vector (BitVec 13) 2
  qnLast   : Vector (BitVec 13) 2
  qnArrays : Vector (BitVec 6) 2
  holdclk  : Bool
  reten    : Bool
  iePto    : Bool
  retidle  : BitVec 10
  stopidle : BitVec 16
  jrnIe    : Bool
  jrnSteps : BitVec 12
  imgSlot  : Bool
  insts    : Tab Instance
  windows  : Tab Window
  viSel    : BitVec 6
  viWsel   : BitVec 8
  viSaveL  : BitVec 24
  viSaveH  : BitVec 20
  dlEn     : Bool
  dlAct    : Bool
  dlInst   : BitVec 6
  dlRbase  : BitVec 22
  dlPages  : BitVec 25
  dlBAL    : BitVec 20
  dlBAH    : BitVec 20
  dlBBL    : BitVec 20
  dlBBH    : BitVec 20
  dbgIe    : BitVec 5
  mbselSrc : BitVec 3
  mbselH   : Bool
  mbselIdx : BitVec 6
  tsNext   : BitVec 64
  ofsPkg   : BitVec 5
  ofsSel   : BitVec 5
  bps      : Tab Breakpoint
  trc      : Vector TraceCfg 2
  pfEn     : BitVec 2
  pfCfg    : Tab ProfCfg
  dmp      : Vector DumpCfg 8
  gsSync   : Bool
  ackJ     : BitVec 16
  ackD     : BitVec 16
  linkIe   : Bool
  mbIe     : Bool
  mbSrc    : BitVec 3
  indAddr  : BitVec 30
  indInc   : Bool
  grpBytes : BitVec 32
  store    : Tab (BitVec 32)
  pool     : Tab (BitVec 32)
  ptab     : Tab ProgEntry
  deriving DecidableEq, Repr

/-! ## Requests and their parts -/

/-- What a request does at its home: the opcodes of Table 2.6, the remote requests of Table 6.5, the owner's snoops of Table 6.7,
and the two range operations that no opcode has (R178). -/
inductive Op where
  | rdNc | rdS | rdU | pref | wr | place | upg | evict | atomR | atomN | addl
  | grpOpen | grpContrib | grpAbort | ctrAdd | ctrRead | ctrReset | wait | invoke
  | cln | inv | clnInv | zero
  | xShared | xUnique | xUpgrade | xwb | xsnpDown | xsnpInv | pin | unpin
  deriving DecidableEq, Repr

/-- Who sent a request: a request port, a FWD of another slice (R97), a unit of this slice (Table 3.19), the result write of
a group contribution (R343), another package (R210), the range engine (R177), or the Bellows (R157). -/
inductive Origin where
  | port (p : PortIx)
  | fwd (ch : Half) (slice : BitVec 5) (sport : BitVec 2) (txn : BitVec 10) (int : Bool)
  | feed (h : Half) (opB : Bool)
  | seq (h k : Half)
  | drain (h : Half)
  | logger
  | save
  | dump (k : Fin 8)
  | grp (h : Half) (rid : Nat)
  | remote (chip : BitVec 5) (rtag : BitVec 9)
  | range (h : Half)
  | bellows
  deriving DecidableEq, Repr

/-- A request inside the slice. Write data and byte enables are aligned to the line; the operand of an atomic is the WD beat as
sent (R55, R56). `accept` is the core cycle of acceptance at this slice (R426, R429, log 94); `bound` the slice and counter that its bytes were
matched to at the order point (R245). `agent` is the directory index of the requester, `shared` what the directory decided for its
completion (DONE_SHARED, or an upgrade without a line), `passed` that its order point has made its reports, or that an update of its
counter has met a parked WAIT (R248), `given` a line that
reached it without an install (R147, R155), `dlc` the class that makes its deadline count, read in the cycle of acceptance (R411),
`filled` that a fill brought its line, so that it is no hit (R155),
`fresh` that its order point put its agent into AGENTS or its package into CHIPS (R444), `looked` that it is past its lookup (R185). -/
structure Req where
  id     : Nat
  origin : Origin
  op     : Op
  lane   : Bool
  txn    : BitVec 10
  addr   : Addr
  size   : BitVec 4
  hint   : BitVec 2
  label  : BitVec 12
  optag  : BitVec 16
  inst   : BitVec 6
  gen    : BitVec 4
  dl     : BitVec 12
  aux    : BitVec 32
  accept : Nat
  data   : Line
  be     : LineBE
  bound  : Option (BitVec 5 × BitVec 13)
  agent  : Option (BitVec 6)
  shared : Bool
  passed : Bool
  given  : Option Line
  dlc    : Option (BitVec 4)
  filled : Bool
  fresh  : Bool
  looked : Bool
  deriving DecidableEq, Repr

/-- The stage of a transaction that a port or sequencer has outstanding. -/
inductive Phase where
  | held | ranged | home | refused (c : Code) | done
  deriving DecidableEq, Repr

/-- A transaction outstanding on a port or sequencer (R47): its request, its stage, and the WD beats still to come. -/
structure Txn where
  req   : Req
  phase : Phase
  need  : Nat
  dup   : Bool
  deriving DecidableEq, Repr

/-- A REQ beat in the ingress buffer: its OPC, what it asks for, whether the port was enabled (R78) and determinism enforced (R33) when it
was presented, whether its TXN was outstanding then (R47), and the request with its serial number and its cycle of acceptance. -/
structure InBeat where
  opc  : BitVec 6
  beat : ReqBeat
  en   : Bool
  det  : Bool
  dup  : Bool
  req  : Req
  deriving DecidableEq, Repr

/-- A completion on its way to its port (R58); `pres` is the core cycle in which its first beat was presented (R429). -/
structure Cmpl where
  req  : Req
  code : Code
  dup  : Bool
  data : Line
  pres : Nat
  deriving DecidableEq, Repr

/-- What waits for the RD channel: a completion, or the delivery of a PLACE snoop (R65) under the serial number of its SNP beat. -/
inductive RdItem where
  | cmpl (c : Cmpl)
  | place (id : Nat) (stxn : BitVec 8) (inst : BitVec 6) (gen : BitVec 4) (data : Line)
  deriving DecidableEq, Repr

/-- Who decided a snoop: a half of this slice, or another slice by SNPF (R98). -/
inductive SnpSrc where
  | home (h : Half)
  | peer (ch : Half) (slice : BitVec 5) (stxn : BitVec 8)
  deriving DecidableEq, Repr

/-- A snoop for an agent (R64, R65). -/
structure Snoop where
  kind : SnpKind
  line : LineAddr
  idx  : BitVec 6
  src  : SnpSrc
  data : Line
  inst : BitVec 6
  gen  : BitVec 4
  deriving DecidableEq, Repr

/-- A snoop on a port with its identifier; `sent` once its SNP beat has transferred (R66, R68). -/
structure PortSnoop where
  stxn  : BitVec 8
  snoop : Snoop
  sent  : Bool
  deriving DecidableEq, Repr

/-- The join state of a partner (R104): own HELLO sent, a HELLO of the partner received, own JOIN sent, partner's JOIN received; the
partner's HELLO that waits for a reclaim (R109). -/
structure Hello where
  sent    : Bool
  heard   : Bool
  joinOut : Bool
  joinIn  : Bool
  waiting : Option (BitVec 64)
  deriving DecidableEq, Repr

/-- Credits of the four pools of a port (R39). -/
structure Credits where
  req0 : Nat
  req1 : Nat
  wd   : Nat
  srsp : Nat
  deriving DecidableEq, Repr

/-- One request port (chapter 02). `avail` are the agent's credits, `owed` those the slice has still to return; `in0` and `in1` the
ingress buffer; `wd` names, in the order of their REQ beats, the requests whose WD beats are due, with the beats they take and have
taken; `wdIn` holds WD beats until the request they belong to is parsed. `rspNew` and `rdNew` became ready in this core cycle, by the
order of their REQ beats (R44). -/
structure Port where
  hello    : Hello
  caching  : Bool
  idx      : Option (BitVec 6)
  former   : Option (BitVec 6)
  departed : Bool
  avail    : Credits
  owed     : Credits
  in0      : List InBeat
  in1      : List InBeat
  laneRun  : Nat
  txns     : List Txn
  wd       : List (Nat × Nat × Nat)
  wdIn     : List WdBeat
  wdSkip   : Bool
  rspNew   : List Cmpl
  rdNew    : List RdItem
  rsp      : List Cmpl
  rspCur   : Option Cmpl
  rd       : List RdItem
  rdCur    : Option (RdItem × Bool)
  snp      : List PortSnoop
  snoops   : List PortSnoop
  deferred : List Snoop
  deriving DecidableEq, Repr

/-! ## Frames, buffers and trackers -/

/-- One line in a frame: presence, LOST, DIRTY, its four sector descriptors (Table 4.2), its 256 bytes. -/
structure LineSt where
  pres  : Bool
  lost  : Bool
  dirty : BitVec 4
  desc  : BitVec 16
  data  : Line
  deriving DecidableEq, Repr

/-- A frame with its tag entry (R129) and the pinned mark of R172. -/
structure Frame where
  tag    : BitVec 29
  packed : Bool
  hold   : Bool
  age    : BitVec 2
  pinned : Bool
  lines  : Vector LineSt 4
  deriving DecidableEq, Repr

/-- A victim-buffer entry (R149) at place `slot`: the frame and the set it left, its lines whose writeback still waits (R151) or
is outstanding, a recall that is due (R150) with the label whose class gives its mask, and the writes that wait for the recall. -/
structure VbEntry where
  slot    : Nat
  set     : BitVec 13
  frame   : Frame
  unsent  : BitVec 4
  sent    : BitVec 4
  recalled : Option (Option (BitVec 12))
  waiters : List Req
  deriving DecidableEq, Repr

/-- A merge-buffer entry (R143) at place `slot`, with the label of the last write into it (R166); `waiters` proceed when its drain ends. -/
structure MergeEntry where
  slot : Nat
  line : LineAddr
  sec  : Fin 4
  data : Sector
  be   : BitVec 64
  label : Option (BitVec 12)
  draining : Bool
  waiters  : List Req
  deriving DecidableEq, Repr

/-- A miss-tracker entry (R153): the sectors asked for, what arrived, the requests that joined in order, the label whose class gives the
mask of its fill (R411); `xreq` is the XREQ sent for a line of another package, `prefetch` a fill of the Bellows, `noFill` a fill that
installs nothing (R155, R184), `dirty` the DIRTY bits it installs with, `brought` a line that an XWB or XRSP brought to its owner's
home, which takes no place in the tracker (R214). -/
structure MissEntry where
  line     : LineAddr
  smask    : BitVec 4
  data     : Line
  arrived  : Bool
  dirty    : BitVec 4
  waiters  : List Req
  prefetch : Bool
  noFill   : Bool
  xreq     : Option XKind
  label    : Option (BitVec 12)
  brought  : Bool
  deriving DecidableEq, Repr

/-- A move out of a packed frame or a floor way (R140, R169): the label whose class gives its mask, the write that triggered it, whether the
range engine did (R177), and the requests that wait for its end. -/
structure Move where
  line    : LineAddr
  label   : Option (BitVec 12)
  started : Bool
  trigger : Option Req
  range   : Bool
  waiters : List Req
  deriving DecidableEq, Repr

/-- A stride detector (R156); `used` orders the last trainings, 0 for a detector never trained. -/
structure Detector where
  port   : PortIx
  label  : BitVec 12
  last   : LineAddr
  stride : Int
  conf   : Nat
  far    : LineAddr
  used   : Nat
  deriving DecidableEq, Repr

/-- A directory entry (R196). -/
structure DirEntry where
  xp     : BitVec 2
  rem    : Bool
  age    : BitVec 2
  ochip  : BitVec 5
  owner  : BitVec 6
  state  : BitVec 3
  tag    : BitVec 32
  chips  : BitVec 32
  agents : BitVec 64
  deriving DecidableEq, Repr

/-- A holder of a line: a caching agent by its index, or another package (R193). -/
inductive Holder where
  | agent (idx : BitVec 6)
  | chip (c : BitVec 5)
  deriving DecidableEq, Repr

/-- Why a conflict-tracker entry is held: snoops of a request before it acts, the PLACE snoop of a request that has acted, the
completion of a request, the back-invalidation of a directory victim for a request (R216), or a lost line's invalidations
(R444). -/
inductive ConfWhy where
  | acting | placing | completing | backInv | lost
  deriving DecidableEq, Repr

/-- A conflict-tracker entry (R201): the line, the holders whose answers are awaited, what a unique holder answered, the line
that an XRSP brought, the package whose XWB is awaited (R214). -/
structure Conf where
  line    : LineAddr
  why     : ConfWhy
  req     : Option Req
  pend    : List Holder
  had     : Bool
  ret     : Option Line
  waitXwb : Option (BitVec 5)
  deriving DecidableEq, Repr

/-- A hold window (R203) with the snoops it delays (R204). -/
structure Win where
  line    : LineAddr
  holder  : Holder
  delayed : List Snoop
  xdelay  : List (BitVec 5 × Bool)
  deriving DecidableEq, Repr

/-- The reclaim walk of a half (R219). -/
structure Walk where
  run   : Bool
  pos   : Nat
  again : Bool
  deriving DecidableEq, Repr

/-- The sweep of a half (R165): next set and way, and the ways whose use changed. -/
structure Sweep where
  run  : Bool
  set  : Nat
  way  : Nat
  ways : BitVec 24
  deriving DecidableEq, Repr

/-- A partial of a group tree (Table 10.4): an XA48 or plain value in `val`, and the contributor index of argmax and argmin. -/
structure Partial where
  val : BitVec 48
  idx : BitVec 8
  deriving DecidableEq, Repr

/-- A stored node of a sector's tree (R340): level, position, one partial per element. -/
structure Node where
  level : Nat
  pos   : Nat
  vals  : List Partial
  deriving DecidableEq, Repr

/-- The state of one sector of a group (R341): arrival record, stored nodes, whether its result is written. -/
structure GrpSector where
  arrived : BitVec 256
  nodes   : List Node
  done    : Bool
  deriving DecidableEq, Repr

/-- An open ordered reduction group of a half (R336). Sector s of line j of the range is key 4j + s of `sectors`; `spilled`
lists the lines whose state R181 moved with the Crucible units it took, `lost` those that R348 made lost for the group, `writing` the result writes under way,
`opening` the GRP_OPEN that waits for its moves (R338); a group that is `closing` is open no more and keeps what the contributions need
that were ordered before its abort (R346). -/
structure Group where
  op      : BitVec 3
  fmt     : BitVec 4
  nm1     : BitVec 8
  lm1     : BitVec 8
  base    : Addr
  inst    : BitVec 6
  label   : BitVec 12
  optag   : BitVec 16
  sectors : Tab GrpSector
  reserve : Nat
  spilled : List (LineAddr × Nat)
  lost    : List LineAddr
  writing : List Nat
  opening : Option Req
  closing : Bool
  deriving DecidableEq, Repr

/-- A piece of a group line's records and nodes in a reservation frame (R175, R347): its group, its line, its frame, and the `n` code words
from `first` on that it takes there. -/
structure ResFrame where
  gid   : BitVec 6
  line  : LineAddr
  way   : Nat
  set   : Nat
  first : Nat
  n     : Nat
  deriving DecidableEq, Repr

/-- A piece of `n` code words written out to a line of the reservation window (R175); `back` once its READ is sent. -/
structure ResOut where
  gid  : BitVec 6
  line : LineAddr
  win  : LineAddr
  n    : Nat
  back : Bool
  deriving DecidableEq, Repr

/-- A contribution whose result write is under way (R343). -/
structure GrpWrite where
  rid  : Nat
  gid  : Nat
  req  : Req
  secs : List Nat
  deriving DecidableEq, Repr

/-- A remap entry (R472). -/
structure Remap where
  v    : Bool
  auto : Bool
  way  : BitVec 5
  set  : BitVec 13
  deriving DecidableEq, Repr

/-- A remap copy in progress (R459): the entry, whether it releases, the next code word; `pass` where the running or last Quench pass found
the failing frame (R462). -/
structure RemapCopy where
  entry : Nat
  clear : Bool
  auto  : Bool
  way   : BitVec 5
  set   : BitVec 13
  word  : Nat
  pass  : Bool
  deriving DecidableEq, Repr

/-- Protected arrays by the numbers of R471, then the control and slice-wide arrays of Table 14.2. -/
inductive Arr where
  | frames | tags | dir | victim | merge | crucible | progs | structs | ctl | sliceArr
  deriving DecidableEq, Repr

/-- A stored code word that differs from the encoding of its data: the positions flipped (R438). `idx` numbers the code word in
its array. -/
structure ErrWord where
  arr  : Arr
  half : Half
  idx  : Nat
  mask : CodeWord
  deriving DecidableEq, Repr

/-- The Quench pass of a half (R461 to R463, R473). `cru` is the number of the next Crucible word, `found` the code words that the pass found
correctable, whose frames' remaps it counts (R462). -/
structure Quench where
  busy   : Bool
  dn     : Bool
  result : BitVec 2
  rmap   : BitVec 5
  set    : BitVec 13
  step   : Nat
  words  : BitVec 32
  ce     : BitVec 16
  ue     : BitVec 16
  fueV   : Bool
  fueArr : BitVec 3
  fueWay : BitVec 5
  fueSet : BitVec 13
  cru    : Nat
  found  : List (Arr × Nat)
  deriving DecidableEq, Repr

/-- The power control of a half (chapter 15). `demand` is a demand waiting for its tick, WAKEn among them, `tail` the 64 core cycles
after AWAKEn fell, `ramp` the start of the clocks after CKACKn. -/
structure Power where
  preq   : BitVec 2
  pack   : Bool
  ckreq  : Bool
  ckack  : Bool
  awake  : Bool
  demand : Bool
  tail   : Bool
  inRet  : Bool
  ramp   : Bool
  pto    : Bool
  deriving DecidableEq, Repr

/-- The trace of a half (R527, R528, R542): the queue of records that wait for the buffer, the buffer, where the next record goes
and how many it holds, the records still to take after the trigger, the drops, the cycle of the last record. `stamp` asks for a time
record first. -/
structure Trace where
  act   : Bool
  trgd  : Bool
  dn    : Bool
  queue : List (BitVec 64)
  buf   : Tab (BitVec 64)
  next  : Nat
  count : Nat
  tptr  : BitVec 11
  left  : Nat
  drops : BitVec 32
  pdrop : Nat
  lastC : Nat
  stamp : Bool
  deriving DecidableEq, Repr

/-- The view latch of a half (R560): the view, the entry, its words. -/
structure Latch where
  isDir : Bool
  entry : Nat
  val   : BitVec 256
  deriving DecidableEq, Repr

/-- Everything one half holds and moves. `refetch` names lines whose fetch in place waits for a tracker entry (R145, R153), `resv` the
reservation frames in use, the one written longest ago first, `pageWait` the contributions that wait for the window (R175). `instPtr` is the
rotating pointer of the install stage (R43, R141): the port served last, plus one. -/
structure HalfSt where
  frames   : Tab Frame
  vb       : List VbEntry
  merge    : List MergeEntry
  miss     : List MissEntry
  missWait : List Req
  refetch  : List LineAddr
  moves    : List Move
  det      : Vector Detector 64
  prefQ    : List Req
  dir      : Tab DirEntry
  conf     : List Conf
  opWait   : List Req
  ordPtr   : Nat
  instPtr  : Nat
  wins     : List Win
  pred     : Tab (BitVec 2)
  walk     : Walk
  binv     : BitVec 32
  sweep    : Sweep
  groups   : Tab (Option Group)
  gwrites  : List GrpWrite
  gaborts  : List (BitVec 6 × Req)
  resv     : List ResFrame
  resOut   : List ResOut
  pageWait : List Req
  wout     : BitVec 32
  iq       : List Req
  words    : Vector (Tab (BitVec 32)) 3
  safe     : Bool
  safeDue  : Option (BitVec 4 × BitVec 6)
  scause   : BitVec 4
  sword    : BitVec 6
  ceCnt    : BitVec 16
  ueCnt    : BitVec 16
  votes    : BitVec 16
  remap    : Tab Remap
  rcopy    : Option RemapCopy
  wback    : List (Arr × Nat)
  recheck  : List (Arr × Nat)
  qn       : Quench
  pw       : Power
  trace    : Trace
  latch    : Option Latch
  cycle    : Nat
  sub      : Nat
  prof     : Tab (BitVec 64)
  reNext   : Nat
  deriving DecidableEq, Repr

/-! ## Memory channels and links -/

/-- Why a READ was sent: a fill of a line, a line of the forge image (R384), a line of the reservation window (R175). -/
inductive RdWhy where
  | fill | image (n : Nat) | page
  deriving DecidableEq, Repr

/-- A READ that waits or is outstanding (R85, R425). -/
structure RdCmd where
  tag      : BitVec 9
  line     : LineAddr
  smask    : BitVec 4
  why      : RdWhy
  cls      : BitVec 4
  low      : Bool
  deadline : Option Nat
  label    : BitVec 12
  optag    : BitVec 16
  inst     : BitVec 6
  deriving DecidableEq, Repr

/-- A WRITE that waits or is outstanding: its sectors, the requests that wait for its response (R88, R148), the victim entry it comes from,
and the attribution of its header (R85). -/
structure WrCmd where
  tag     : BitVec 9
  vb      : Option Nat
  line    : LineAddr
  smask   : BitVec 4
  data    : Line
  waiters : List Req
  cls     : BitVec 4
  label   : BitVec 12
  optag   : BitVec 16
  inst    : BitVec 6
  deriving DecidableEq, Repr

/-- An ATOMIC that waits or is outstanding (R87, R226). -/
structure AtCmd where
  tag : BitVec 9
  req : Req
  cls : BitVec 4
  deriving DecidableEq, Repr

/-- A memory channel (chapters 03 and 13). `bucket` holds the difference of each class bucket from CBURST. -/
structure MemChan where
  hello   : Hello
  atm     : Bool
  aops    : BitVec 11
  readQ   : List RdCmd
  writeQ  : List WrCmd
  atomQ   : List AtCmd
  readO   : List RdCmd
  writeO  : List WrCmd
  atomO   : List AtCmd
  hcr     : Vector Nat 3
  dcr     : Vector Nat 3
  ptr     : Nat
  l4ptr   : Nat
  drrPtr  : Nat
  drrIn   : Bool
  deficit : Tab Int
  bucket  : Tab Int
  since   : Nat
  deriving DecidableEq, Repr

/-- Messages the slice sends on the peer and remote ports (R93), with what their headers are made from. A CMPL carries its read data at the line's places. -/
inductive Msg where
  | fwd (dst : BitVec 5) (sport : BitVec 2) (int : Bool) (req : Req) (op : Op)
  | report (dst : BitVec 5) (ctr : BitVec 13) (bytes : Nat) (landed settled : Bool)
  | cmpl (dst : BitVec 5) (sport : BitVec 2) (int : Bool) (req : Req) (code : Code) (data : Line)
  | snpf (dst : BitVec 5) (stxn : BitVec 8) (s : Snoop)
  | srspf (dst : BitVec 5) (sport : BitVec 2) (stxn : BitVec 8) (had : Bool) (idx : BitVec 6)
  | xreq (dst : BitVec 5) (line : LineAddr) (kind : XKind) (rtag : BitVec 9)
  | xwb (dst : BitVec 5) (line : LineAddr) (rtag : BitVec 9) (dsmask : BitVec 4) (data : Line)
  | xsnp (dst : BitVec 5) (line : LineAddr) (rtag : BitVec 9) (inv : Bool)
  | xrsp (dst : BitVec 5) (rtag : BitVec 9) (code : Code) (line : Option Line) (dsmask : BitVec 4)
  | hello (dst : BitVec 5) (word : BitVec 64)
  | probe (dst : BitVec 5) (reply : Bool) (t : BitVec 64) (dt : BitVec 32)
  deriving DecidableEq, Repr

/-- A peer channel or the remote port (R94, R102, R124, R536). `part` is the join state of each slice or package. -/
structure Link where
  hello  : Hello
  up     : Bool
  part   : Tab Hello
  sendQ  : List Msg
  hcr    : Vector Nat 4
  dcr    : Vector Nat 4
  ptr    : Nat
  ctlRun : Nat
  sent   : Vector (BitVec 32) 4
  rcvd   : Vector (BitVec 32) 4
  latchS : Vector (BitVec 32) 4
  latchR : Vector (BitVec 32) 4
  deriving DecidableEq, Repr

/-- A forwarded transaction in flight from this slice (R97). -/
structure FwdOut where
  ch    : Half
  dst   : BitVec 5
  sport : BitVec 2
  int   : Bool
  txn   : BitVec 10
  req   : Req
  deriving DecidableEq, Repr

/-- An SNPF in flight from this slice (R98). -/
structure SnpfOut where
  ch   : Half
  dst  : BitVec 5
  stxn : BitVec 8
  home : Half
  snp  : Snoop
  deriving DecidableEq, Repr

/-- Why a remote transaction was sent (R101): a fill, a writeback with the requests that wait for it, a snoop of a home. -/
inductive RemWhy where
  | fill (h : Half) (line : LineAddr) (kind : XKind)
  | wb (h : Half) (line : LineAddr) (waiters : List Req) (dsmask : BitVec 4) (data : Line)
  | snp (h : Half) (line : LineAddr) (inv : Bool)
  deriving DecidableEq, Repr

/-- An outstanding remote transaction (R101). -/
structure RemOut where
  rtag : BitVec 9
  chip : BitVec 5
  why  : RemWhy
  deriving DecidableEq, Repr

/-! ## Counters, reclaim, range engine -/

/-- An arrival counter (R237). -/
structure Counter where
  landed  : BitVec 64
  settled : BitVec 64
  deriving DecidableEq, Repr

/-- A report of landed or settled bytes on its way to a counter of this slice (R246). -/
structure Report where
  ctr     : BitVec 13
  bytes   : Nat
  landed  : Bool
  settled : Bool
  deriving DecidableEq, Repr

/-- A reclaim that this slice runs for an index it granted (R218): the slices that have answered. -/
structure Reclaim where
  idx      : BitVec 6
  answered : BitVec 32
  deriving DecidableEq, Repr

/-- A reclaim notice this slice is walking for (R218). -/
structure Notice where
  idx : BitVec 6
  src : BitVec 5
  ch  : Half
  deriving DecidableEq, Repr

/-- The range engine (R176, R192); `stop` ends the visits (R180, R183); `out` holds the requests of visited lines that have not
completed, `writes` the lines whose writeback an install of the engine caused. -/
structure RangeEng where
  busy   : Bool
  dn     : Bool
  result : BitVec 2
  op     : BitVec 3
  stop   : Bool
  lines  : BitVec 32
  skip   : BitVec 32
  failV  : Bool
  fail   : LineAddr
  out    : List Nat
  writes : List (Half × LineAddr)
  deriving DecidableEq, Repr

/-! ## Anvil and sequencers -/

/-- An accumulation group (R295) with words 0 and 2 of its OPEN, its park area and its spill partials (R297, R307), both keyed by slot. -/
structure AGroup where
  isOpen : Bool
  inst   : BitVec 6
  w0     : BitVec 32
  w2     : BitVec 32
  k      : Nat
  s      : Nat
  fail   : Option Code
  ovf    : Bool
  wrap   : Bool
  seated : Bool
  park   : Tab (BitVec 32)
  part   : Tab (Option (BitVec 48))
  deriving DecidableEq, Repr

/-- A checkpoint (R304). -/
structure Checkpoint where
  group : Nat
  slots : Tab (BitVec 32)
  part  : Tab (Option (BitVec 48))
  k     : Nat
  s     : Nat
  deriving DecidableEq, Repr

/-- An operation in a queue or in flight (R287, R371): its 32 words, the slot and sequencer it came from, its program's INST,
GEN, LABEL and OPTAG; `clean` for a DISCARD of fault handling (R375). -/
structure AOp where
  words : List (BitVec 32)
  seq   : Half
  slot  : Fin 8
  inst  : BitVec 6
  gen   : BitVec 4
  label : BitVec 12
  optag : BitVec 16
  clean : Bool
  deriving DecidableEq, Repr

/-- Where the operation in the MAC stage stands: it takes cycle groups, a spill is due (R307), or it has overflowed (R305). -/
inductive MacSt where
  | feeding | spill | overflow
  deriving DecidableEq, Repr

/-- An operation that the feed serves (R286, R301), in the MAC stage or at the head of its queue: its group and the slots it uses, the
group as an instance reset closed it (R295), the K-steps taken, the feed reads awaited with their lines, the lines read, whether the
spill of the present K count is done, the spills, OVF and WRAP of the operation, whether it runs again (RRUN), and the code of a feed read
that failed while the operation waits at the head of its queue. -/
structure MacOp where
  op      : AOp
  grp     : Nat
  use     : BitVec 4
  own     : Option AGroup
  step    : Nat
  st      : MacSt
  await   : List (Nat × Nat)
  lines   : Tab (Option Line)
  spilled : Bool
  spills  : Nat
  ovf     : Bool
  wrap    : Bool
  rrun    : Bool
  bad     : Option Code
  deriving DecidableEq, Repr

/-- An operation whose last cycle group is in the adder tree (R283): its STATUS is due. `gone` when a reset has closed its group. -/
structure TreeOp where
  op   : AOp
  grp  : Nat
  use  : BitVec 4
  gone : Bool
  word : BitVec 32
  rrun : Bool
  deriving DecidableEq, Repr

/-- The DRAIN in the drain unit (R313): the writes not sent yet, those in flight, the failing write that comes first, STATUS without its
CODE. `gone` when a reset has closed its group. -/
structure DrnOp where
  op    : AOp
  grp   : Nat
  use   : BitVec 4
  gone  : Bool
  left  : List Req
  await : List Nat
  fail  : Option (Nat × Code)
  word  : BitVec 32
  deriving DecidableEq, Repr

/-- The Anvil of a half (chapter 09). Slot q of cell (i, j) is key 4(32i + j) + q. `own` names the group seated in each slot; `ahead` is
what the feed has read for the head of each queue, and `feedOut` the feed reads in flight, true for B (R301); `turn` is the rotating
pointer of R298. -/
structure Anvil where
  slots  : Tab (BitVec 32)
  own    : Vector (Option Nat) 4
  groups : Vector AGroup 16
  ck     : Option Checkpoint
  q      : Vector (List AOp) 2
  turn   : Half
  ahead  : Vector (Option MacOp) 2
  feedOut : List (Nat × Bool)
  mac    : Option MacOp
  tree   : List TreeOp
  drn    : Option DrnOp
  reruns : BitVec 32
  spills : BitVec 32
  confl  : BitVec 32
  deriving DecidableEq, Repr

/-- How a program is ending: by END with a code, which the instruction names itself (`own`) or takes from a register, or by a fault with its
cause, code and PC (R362, R375). -/
inductive SeqStop where
  | ended (c : Code) (own : Bool)
  | fault (cause : BitVec 4) (c : Code) (pc : BitVec 12)
  deriving DecidableEq, Repr

/-- A sequencer (R356, R380 to R382, R523). `run` holds the running program's INVOKE; `dest` gives each outstanding request its
destination register, 0 for none, and the PC it issued from; `copying` while dump copies follow the program's END (R533); `haltDue` a halt
that stands before the next program's first issue while this one ends (R523). -/
structure Seq where
  run    : Option Req
  pc     : BitVec 12
  a      : Vector (BitVec 64) 16
  c      : Vector (BitVec 32) 4
  d      : Vector (Vector (BitVec 32) 32) 8
  busy   : BitVec 8
  txns   : List Txn
  dest   : List (Nat × Fin 16 × BitVec 12)
  cwaitI : Option Nat
  opened : List Nat
  discs  : List Nat
  stop   : Option SeqStop
  copying : Bool
  halted : Bool
  haltDue : Bool
  whyBp  : Bool
  skipBp : Bool
  oneStep : Bool
  faultV : Bool
  fCode  : BitVec 3
  fCause : BitVec 4
  fPc    : BitVec 12
  faults : BitVec 16
  ends   : BitVec 16
  deriving DecidableEq, Repr

/-! ## Slice-wide units -/

/-- A miss-log entry (R437). -/
structure MissLog where
  v      : Bool
  kind   : Bool
  ch     : Bool
  cls    : BitVec 4
  inst   : BitVec 6
  label  : BitVec 12
  optag  : BitVec 16
  amount : BitVec 16
  deriving DecidableEq, Repr

def MissLog.none : MissLog := ⟨false, false, false, 0, 0, 0, 0, 0⟩

/-- Bucket levels, the label copy and the miss counts (chapter 13). `mlN` entries of the log were made in core cycle `mlAt`. -/
structure Svc where
  level  : Tab Int
  copy   : Bool
  copyAt : Nat
  swaps  : BitVec 16
  dlcnt  : Vector (BitVec 16) 16
  sfcnt  : Vector (BitVec 16) 16
  mlog   : Tab MissLog
  mlptr  : BitVec 4
  mlAt   : Nat
  mlN    : Nat
  deriving DecidableEq, Repr

/-- A loss log entry (R469). -/
structure LossEntry where
  v     : Bool
  cause : BitVec 4
  half  : Half
  addrv : Bool
  way   : BitVec 5
  set   : BitVec 13
  line  : LineAddr
  deriving DecidableEq, Repr

/-- A violation log entry (R470). -/
structure VioEntry where
  v     : Bool
  code  : BitVec 3
  src   : BitVec 4
  opc   : BitVec 6
  inst  : BitVec 6
  label : BitVec 12
  addr  : Addr
  optag : BitVec 16
  deriving DecidableEq, Repr

/-- The two logs, the stored errors and the armed injection (chapter 14). -/
structure Ras where
  loss    : Tab LossEntry
  lossCnt : BitVec 32
  vio     : Tab VioEntry
  vioCnt  : BitVec 32
  errs    : List ErrWord
  armed   : Bool
  deriving DecidableEq, Repr

/-- A load in progress (R396). -/
structure Load where
  slot   : Bool
  lines  : Tab Line
  await  : Nat
  failed : Option (Nat × Nat)
  deriving DecidableEq, Repr

/-- Image status (R408). -/
structure ImgSt where
  loaded : Bool
  lslot  : Bool
  aslot  : Bool
  result : BitVec 4
  line   : BitVec 11
  load   : Option Load
  deriving DecidableEq, Repr

/-- A journal record (R487). -/
structure JrnRec where
  state : BitVec 3
  att   : BitVec 4
  fails : BitVec 3
  slot  : Bool
  code  : BitVec 4
  ticks : BitVec 16
  deriving DecidableEq, Repr

/-- The start journal (R483, R487, R492) with the sampled straps. -/
structure Jrn where
  run    : Bool
  ready  : Bool
  dn     : Bool
  step   : BitVec 4
  starts : BitVec 16
  recs   : Vector JrnRec 12
  missP0 : BitVec 32
  missP1 : BitVec 32
  missX  : Bool
  missRp : BitVec 4
  second : Bool
  tmode  : Bool
  die    : BitVec 3
  pos    : BitVec 2
  boota  : BitVec 24
  deriving DecidableEq, Repr

/-- An instance command in progress (R499): INST, and GEN before a reset. Of a save or restore, the lines of the record so far, its length in
lines, the next line to move, the requests in flight by serial number and line, and how the command failed. -/
structure ViCmd where
  cmd   : BitVec 3
  inst  : BitVec 6
  gen   : BitVec 4
  await : List (Nat × Nat)
  lines : Tab Line
  len   : Nat
  next  : Nat
  fail  : Option (BitVec 3)
  deriving DecidableEq, Repr

/-- Instance status and the dirty logger (R514, R516, R509). -/
structure Vi where
  busy   : Bool
  cmd    : BitVec 3
  result : BitVec 3
  inst   : BitVec 6
  aborts : BitVec 12
  saveN  : BitVec 32
  job    : Option ViCmd
  filter : List Nat
  fails  : BitVec 8
  orsOut : List Nat
  ors    : BitVec 32
  deriving DecidableEq, Repr

/-- An offset-table entry (R522). -/
structure Offset where
  v   : Bool
  rtt : Nat
  off : BitVec 64
  deriving DecidableEq, Repr

/-- A measurement in progress (R522): probes sent, stamp t1, the best answer so far. -/
structure Measure where
  pkg  : BitVec 5
  sent : Nat
  t1   : BitVec 64
  best : Option (Int × BitVec 64)
  deriving DecidableEq, Repr

/-- A dump trigger's state (R533, R543). -/
structure DumpSt where
  armed : Bool
  dn    : Bool
  code  : BitVec 3
  lines : BitVec 17
  count : BitVec 32
  stamp : BitVec 64
  deriving DecidableEq, Repr

/-- A dump copy waiting or in progress (R533, R534), for the sequencer whose INVOKE it delays. -/
structure DumpJob where
  k     : Fin 8
  seq   : Half × Half
  next  : Nat
  total : Nat
  await : List (Nat × Bool)
  code  : Code
  copied : Nat
  deriving DecidableEq, Repr

/-- Timestamps, offsets, dumps and the global stop (chapter 17). -/
structure Dbg where
  ts      : BitVec 64
  latch   : BitVec 64
  tsArm   : Bool
  syncs   : BitVec 32
  tick    : Nat
  lastP   : Option Nat
  offs    : Tab Offset
  meas    : Option Measure
  measQ   : List (BitVec 5)
  dumps   : Vector DumpSt 8
  jobs    : List DumpJob
  stopped : Bool
  pend    : Bool
  stopTs  : BitVec 64
  deriving DecidableEq, Repr

/-- A queued management access (R114). -/
inductive Access where
  | write (a : BitVec 18) (v : BitVec 32)
  | read (a : BitVec 18)
  deriving DecidableEq, Repr

/-- The guard's pending value (R548). -/
structure Pending where
  addr : BitVec 18
  data : BitVec 32
  mclk : Nat
  deriving DecidableEq, Repr

/-- The management port, guard, mailbox (chapter 18). `samp` is what a capture took when it was asked for. -/
structure Mgmt where
  q      : List Access
  guard  : Option Pending
  fails  : BitVec 8
  last   : BitVec 18
  valid  : Bool
  pend   : Bool
  src    : BitVec 3
  dsrc   : BitVec 3
  mh     : Bool
  item   : BitVec 13
  samp   : Option (BitVec 64)
  lo     : BitVec 32
  hi     : BitVec 32
  deriving DecidableEq, Repr

/-- Slice-level coherence and port counts (R194, R218, R221, R125, R126). -/
structure Coh where
  dead     : BitVec 64
  gone     : BitVec 32
  reclaims : List Reclaim
  notices  : List Notice
  rejRole  : BitVec 4
  rejWhy   : BitVec 4
  joins    : BitVec 16
  departs  : BitVec 16
  fwdOut   : List FwdOut
  snpfOut  : List SnpfOut
  remOut   : List RemOut
  remWait  : List (BitVec 5 × RemWhy)
  deriving DecidableEq, Repr

/-- A beat of a data sub-channel (R81): D_N, and the words from bit 0 up. The widest stream has 25 words. -/
structure DataBeat where
  n    : Nat
  bits : BitVec 1600
  deriving DecidableEq, Repr

/-- What the slice presents to its partners, oldest first in `Mach.out` (log 4). Commands and messages stand with the bits of their
header (Tables 3.2 and 3.4) and the beats of their data (R81). -/
inductive Output where
  | rsp (p : PortIx) (lane dup : Bool) (gen : BitVec 4) (inst : BitVec 6) (code : Code) (txn : BitVec 10)
  | rd (p : PortIx) (plc last : Bool) (gen : BitVec 4) (inst : BitVec 6) (code : Code) (txn : BitVec 10) (data : BitVec 1024)
  | snp (p : PortIx) (kind : SnpKind) (stxn : BitVec 8) (line : LineAddr)
  | credit (p : PortIx) (pool : Pool)
  | read (c : Half) (cmd : RdCmd) (hdr : BitVec 160)
  | write (c : Half) (cmd : WrCmd) (hdr : BitVec 160) (data : List DataBeat)
  | atomic (c : Half) (cmd : AtCmd) (hdr : BitVec 160) (data : List DataBeat)
  | msg (k : Fin 3) (m : Msg) (hdr : BitVec 480) (data : List DataBeat)
  | hello (src : HelloSrc) (w : BitVec 64)
  | mrsp (a : BitVec 18) (v : BitVec 32)
  | msgCredit (k : Fin 3) (cls : Fin 4) (hdr data : Nat)
  deriving DecidableEq, Repr

/-- An answer to a snoop on its way to the conflict tracker (log 11): the half, the line, the holder, HAD. -/
structure SnpAns where
  half   : Half
  line   : LineAddr
  holder : Holder
  had    : Bool
  deriving DecidableEq, Repr

/-- Where a waiting request goes on (log 11): the order point, or the data. -/
inductive Stage where
  | order
  | data
  deriving DecidableEq, Repr

/-- A request that goes on within the command that freed it. -/
structure Again where
  half  : Half
  req   : Req
  stage : Stage
  deriving DecidableEq, Repr

/-- Everything that moves by itself. `HalfSt.ordPtr` and `ctrPtr` are the rotating pointers of the order point (R199) and of the counter unit
(R252): the source granted last, plus one. `spanPtr` holds those of the span link, one for each direction by the half that sends (R16), and
`lblPtr` that of the label buckets (R43, R420). -/
structure Mach where
  nextId   : Nat
  freeCtr  : Nat
  out      : List Output
  todo     : List Req
  unitDone : List (Req × Code × Line)
  finished : List (Req × Code)
  answers  : List SnpAns
  again    : List Again
  ports    : Vector Port 4
  chans    : Vector MemChan 2
  links    : Vector Link 3
  halves   : Vector HalfSt 2
  ctrs     : Tab Counter
  parked   : List Req
  ctrPtr   : Nat
  spanPtr  : Vector Nat 2
  lblPtr   : Nat
  reports  : List Report
  coh      : Coh
  re       : RangeEng
  anvs     : Vector Anvil 2
  seqs     : Vector Seq 4
  img      : ImgSt
  svc      : Svc
  ras      : Ras
  jrn      : Jrn
  vi       : Vi
  dbg      : Dbg
  mg       : Mgmt
  detRefn  : BitVec 32
  deriving DecidableEq, Repr

/-- The state of the slice. -/
structure State where
  regs    : Regs
  m       : Mach
  pending : List Instr
  deriving DecidableEq, Repr

/-- Where a command stops: a partner broke an obligation ("must") of the port chapters and the manual gives no effect (log 9).
Every constructor is safe: the model stops where the hardware may go on. -/
inductive Fault where
  /-- A REQ, WD or SRSP beat presented without a credit (R38). Raised by the port commands. Safe. -/
  | noCredit
  /-- A credit return that would pass the bound of the pool (R84, R94). Safe. -/
  | creditOverflow
  deriving DecidableEq, Repr

/-- Commands without a meaning. -/
inductive Refusal where
  /-- The command has no meaning yet. Raised by exec's arm of that command alone. Safe. -/
  | notModelled (mnemonic : String)
  deriving DecidableEq, Repr

/-! ## Reset -/

def HcRegs.reset : HcRegs :=
  ⟨0, false, false, false, false, 2, 1, 4, false, false, 0, Vector.replicate 16 0xF, 0xF, 0xF, 0⟩

def Regs.reset : Regs where
  profile := 0
  detEn := false
  rpEn := Vector.replicate 4 false
  hc := Vector.replicate 2 HcRegs.reset
  hr := Vector.replicate 16 ⟨0, 0, false, 0, 0⟩
  reAddrL := 0
  reAddrH := 0
  reLen := 0
  reIe := false
  reOp := 0
  cohHold := 0
  predMode := 0
  idxInst := Vector.replicate 64 ⟨false, 0⟩
  ctrOwn := Vector.replicate 64 ⟨false, 0⟩
  arb := []
  arbSel := 0
  ctrSel := 0
  svcReg := true
  svcOrder := true
  lblSrc := false
  live := []
  shadow := []
  lblLsel := 0
  cls := Vector.replicate 16 ⟨0, 0, 0, 0, false, false⟩
  mack := Vector.replicate 16 0
  anvEn := Vector.replicate 2 false
  seqEn := Vector.replicate 4 false
  rasAuto := true
  ieQn := false
  ieVio := true
  ieLoss := true
  lossAck := 0
  lossSel := 0
  vioAck := 0
  vioSel := 0
  injHalf := false
  injArray := 0
  injTwo := false
  injPosB := 0
  injPosA := 0
  rmCmd := Vector.replicate 2 0
  qnFirst := Vector.replicate 2 0
  qnLast := Vector.replicate 2 0x1FFF
  qnArrays := Vector.replicate 2 0
  holdclk := false
  reten := false
  iePto := false
  retidle := 250
  stopidle := 256
  jrnIe := true
  jrnSteps := 0
  imgSlot := false
  insts := []
  windows := []
  viSel := 0
  viWsel := 0
  viSaveL := 0
  viSaveH := 0
  dlEn := false
  dlAct := false
  dlInst := 0
  dlRbase := 0
  dlPages := 0
  dlBAL := 0
  dlBAH := 0
  dlBBL := 0
  dlBBH := 0
  dbgIe := 0
  mbselSrc := 0
  mbselH := false
  mbselIdx := 0
  tsNext := 0
  ofsPkg := 0
  ofsSel := 0
  bps := []
  trc := Vector.replicate 2 ⟨false, 0, 0, 0, 0, 0⟩
  pfEn := 0
  pfCfg := []
  dmp := Vector.replicate 8 ⟨0, 0, 0, 0, 0⟩
  gsSync := false
  ackJ := 0
  ackD := 0
  linkIe := true
  mbIe := false
  mbSrc := 0
  indAddr := 0
  indInc := true
  grpBytes := 0
  store := []
  pool := []
  ptab := []

/-- A partner that has not joined (R111). -/
def Hello.none : Hello := ⟨false, false, false, false, Option.none⟩

def Credits.none : Credits := ⟨0, 0, 0, 0⟩

def Port.reset : Port where
  hello := Hello.none
  caching := false
  idx := none
  former := none
  departed := false
  avail := Credits.none
  owed := Credits.none
  in0 := []
  in1 := []
  laneRun := 0
  txns := []
  wd := []
  wdIn := []
  wdSkip := false
  rspNew := []
  rdNew := []
  rsp := []
  rspCur := none
  rd := []
  rdCur := none
  snp := []
  snoops := []
  deferred := []

/-- A line place that holds nothing. -/
def LineSt.free : LineSt := ⟨false, false, 0, 0, 0⟩

/-- A free frame: PRES 0b0000 (R129). -/
def Frame.free : Frame := ⟨0, false, false, 0, false, Vector.replicate 4 LineSt.free⟩

/-- A free directory entry reads zero in every word (R559). -/
def DirEntry.free : DirEntry := ⟨0, false, 0, 0, 0, 0, 0, 0, 0⟩

def Quench.idle : Quench := ⟨false, false, 0, 0, 0, 0, 0, 0, 0, false, 0, 0, 0, 0, []⟩

/-- A half that is OFF, as after block reset (R474, R482). -/
def Power.off : Power := ⟨0, false, false, false, false, false, false, false, false, false⟩

def Trace.reset : Trace := ⟨false, false, false, [], [], 0, 0, 0, 0, 0, 0, 0, false⟩

def HalfSt.reset : HalfSt where
  frames := []
  vb := []
  merge := []
  miss := []
  missWait := []
  refetch := []
  moves := []
  det := Vector.replicate 64 ⟨0, 0, 0, 0, 0, 0, 0⟩
  prefQ := []
  dir := []
  conf := []
  opWait := []
  ordPtr := 0
  instPtr := 0
  wins := []
  pred := []
  walk := ⟨false, 0, false⟩
  binv := 0
  sweep := ⟨false, 0, 0, 0⟩
  groups := []
  gwrites := []
  gaborts := []
  resv := []
  resOut := []
  pageWait := []
  wout := 0
  iq := []
  words := Vector.replicate 3 []
  safe := false
  safeDue := none
  scause := 0
  sword := 0
  ceCnt := 0
  ueCnt := 0
  votes := 0
  remap := []
  rcopy := none
  wback := []
  recheck := []
  qn := Quench.idle
  pw := Power.off
  trace := Trace.reset
  latch := none
  cycle := 0
  sub := 0
  prof := []
  reNext := 0

def MemChan.reset : MemChan where
  hello := Hello.none
  atm := false
  aops := 0
  readQ := []
  writeQ := []
  atomQ := []
  readO := []
  writeO := []
  atomO := []
  hcr := Vector.replicate 3 0
  dcr := Vector.replicate 3 0
  ptr := 0
  l4ptr := 0
  drrPtr := 0
  drrIn := false
  deficit := []
  bucket := []
  since := 15

def Link.reset : Link where
  hello := Hello.none
  up := false
  part := []
  sendQ := []
  hcr := Vector.replicate 4 0
  dcr := Vector.replicate 4 0
  ptr := 0
  ctlRun := 0
  sent := Vector.replicate 4 0
  rcvd := Vector.replicate 4 0
  latchS := Vector.replicate 4 0
  latchR := Vector.replicate 4 0

def AGroup.closed : AGroup := ⟨false, 0, 0, 0, 0, 0, none, false, false, false, [], []⟩

def Anvil.reset : Anvil where
  slots := []
  own := Vector.replicate 4 none
  groups := Vector.replicate 16 AGroup.closed
  ck := none
  q := Vector.replicate 2 []
  turn := 0
  ahead := Vector.replicate 2 none
  feedOut := []
  mac := none
  tree := []
  drn := none
  reruns := 0
  spills := 0
  confl := 0

def Seq.reset : Seq where
  run := none
  pc := 0
  a := Vector.replicate 16 0
  c := Vector.replicate 4 0
  d := Vector.replicate 8 (Vector.replicate 32 0)
  busy := 0
  txns := []
  dest := []
  cwaitI := none
  opened := []
  discs := []
  stop := none
  copying := false
  halted := false
  haltDue := false
  whyBp := false
  skipBp := false
  oneStep := false
  faultV := false
  fCode := 0
  fCause := 0
  fPc := 0
  faults := 0
  ends := 0

def Svc.reset : Svc :=
  ⟨[], false, 0, 0, Vector.replicate 16 0, Vector.replicate 16 0, [], 0, 0, 0⟩

def Ras.reset : Ras := ⟨[], 0, [], 0, [], false⟩

def ImgSt.reset : ImgSt := ⟨false, false, false, 0, 0, none⟩

def JrnRec.zero : JrnRec := ⟨0, 0, 0, false, 0, 0⟩

/-- The journal after power-on reset: every record at zero (R482); the straps not yet sampled (log 13). -/
def Jrn.reset : Jrn :=
  ⟨false, false, false, 0, 0, Vector.replicate 12 JrnRec.zero, 0, 0, false, 0, false, false, 0, 0, 0⟩

def Vi.reset : Vi := ⟨false, 0, 0, 0, 0, 0, none, [], 0, [], 0⟩

def Dbg.reset : Dbg :=
  ⟨0, 0, false, 0, 0, none, [], none, [], Vector.replicate 8 ⟨false, false, 0, 0, 0, 0⟩, [], false, false, 0⟩

def Mgmt.reset : Mgmt := ⟨[], none, 0, 0, false, false, 0, 0, false, 0, none, 0, 0⟩

def Coh.reset : Coh := ⟨0, 0, [], [], 0, 0, 0, 0, [], [], [], []⟩

def RangeEng.reset : RangeEng := ⟨false, false, 0, 0, false, 0, 0, false, 0, [], []⟩

def Mach.reset : Mach where
  nextId := 0
  freeCtr := 0
  out := []
  todo := []
  unitDone := []
  finished := []
  answers := []
  again := []
  ports := Vector.replicate 4 Port.reset
  chans := Vector.replicate 2 MemChan.reset
  links := Vector.replicate 3 Link.reset
  halves := Vector.replicate 2 HalfSt.reset
  ctrs := []
  parked := []
  ctrPtr := 0
  spanPtr := Vector.replicate 2 0
  lblPtr := 0
  reports := []
  coh := Coh.reset
  re := RangeEng.reset
  anvs := Vector.replicate 2 Anvil.reset
  seqs := Vector.replicate 4 Seq.reset
  img := ImgSt.reset
  svc := Svc.reset
  ras := Ras.reset
  jrn := Jrn.reset
  vi := Vi.reset
  dbg := Dbg.reset
  mg := Mgmt.reset
  detRefn := 0

/-- The slice after power-on reset, with BLKRST_N still asserted: every field at its reset value, both halves OFF, no image
loaded, no command waiting (R482, R10). -/
def State.reset : State := ⟨Regs.reset, Mach.reset, []⟩

end Sys2Proof.Machine
end

