-- ==== Sys2Proof/Machine/Ops.lean ====
section
/-!
DEFINITION. The named operations over the state: sparse tables, the halves, ports, channels and links by number, the stored
errors, the voted structure words and the topology they give, the two logs, identifiers and the output trace.
-/

namespace Sys2Proof.Machine

/-! ## Sparse tables -/

/-- The entry of a key; an absent key reads as `d`. -/
def tabGet {α : Type} (d : α) (t : Tab α) (k : Nat) : α :=
  match t with
  | [] => d
  | (j, v) :: r => if k == j then v else if k < j then d else tabGet d r k

/-- Write an entry; writing what an absent key reads as removes it. -/
def tabSet {α : Type} [DecidableEq α] (d : α) (t : Tab α) (k : Nat) (v : α) : Tab α :=
  match t with
  | [] => if v = d then [] else [(k, v)]
  | (j, w) :: r =>
    if k == j then (if v = d then r else (k, v) :: r)
    else if k < j then (if v = d then (j, w) :: r else (k, v) :: (j, w) :: r)
    else (j, w) :: tabSet d r k v

/-- Change an entry. -/
def tabMod {α : Type} [DecidableEq α] (d : α) (t : Tab α) (k : Nat) (f : α → α) : Tab α :=
  tabSet d t k (f (tabGet d t k))

/-- The canonical form: keys strictly rising from `lo`, no entry equal to `d`. -/
def tabWfFrom {α : Type} [DecidableEq α] (d : α) (lo : Nat) (t : Tab α) : Bool :=
  match t with
  | [] => true
  | (j, v) :: r => decide (lo ≤ j) && decide (v ≠ d) && tabWfFrom d (j + 1) r

def tabWf {α : Type} [DecidableEq α] (d : α) (t : Tab α) : Bool := tabWfFrom d 0 t

/-! ## Parts of the state by number -/

def halfAt (m : Mach) (h : Half) : HalfSt := m.halves[h]

def setHalf (h : Half) (x : HalfSt) (m : Mach) : Mach := { m with halves := m.halves.set h.val x h.isLt }

def modHalf (h : Half) (f : HalfSt → HalfSt) (m : Mach) : Mach := setHalf h (f (halfAt m h)) m

def portAt (m : Mach) (p : PortIx) : Port := m.ports[p]

def modPort (p : PortIx) (f : Port → Port) (m : Mach) : Mach :=
  { m with ports := m.ports.set p.val (f m.ports[p]) p.isLt }

def chanAt (m : Mach) (c : Half) : MemChan := m.chans[c]

def modChan (c : Half) (f : MemChan → MemChan) (m : Mach) : Mach :=
  { m with chans := m.chans.set c.val (f m.chans[c]) c.isLt }

/-- Links 0 and 1 are the peer channels, link 2 the remote port. -/
def linkAt (m : Mach) (k : Fin 3) : Link := m.links[k]

def modLink (k : Fin 3) (f : Link → Link) (m : Mach) : Mach :=
  { m with links := m.links.set k.val (f m.links[k]) k.isLt }

def anvAt (m : Mach) (h : Half) : Anvil := m.anvs[h]

def modAnv (h : Half) (f : Anvil → Anvil) (m : Mach) : Mach :=
  { m with anvs := m.anvs.set h.val (f m.anvs[h]) h.isLt }

/-- Sequencer k of half h stands at place 2h + k. -/
def seqIx (h k : Half) : Fin 4 := ⟨2 * h.val + k.val, by have := h.isLt; have := k.isLt; omega⟩

def seqAt (m : Mach) (h k : Half) : Seq := m.seqs[seqIx h k]

def modSeq (h k : Half) (f : Seq → Seq) (m : Mach) : Mach :=
  { m with seqs := m.seqs.set (seqIx h k).val (f m.seqs[seqIx h k]) (seqIx h k).isLt }

/-- The link that is the peer channel of a half. -/
def peerLink (ch : Half) : Fin 3 := ⟨ch.val, by have := ch.isLt; omega⟩

/-- The half a request port attaches to (R14). -/
def portHalf (p : PortIx) : Half := if p.val < 2 then 0 else 1

/-- The halves of the slice. -/
def bothHalves : List Half := [0, 1]

/-- The request ports. -/
def allPorts : List PortIx := [0, 1, 2, 3]

/-! ## Output, identifiers -/

/-- Present something to a partner (log 4). -/
def emit (o : Output) (m : Mach) : Mach := { m with out := m.out ++ [o] }

/-- A fresh serial number (log 11). -/
def newId (m : Mach) : Nat × Mach := (m.nextId, { m with nextId := m.nextId + 1 })

/-- A free identifier below n (log 12): the free choice when it is not in use, else the lowest one not in use. -/
def pickId (ctr n : Nat) (used : Nat → Bool) : Nat :=
  let c := Config.freeChoice ctr % n
  if used c then ((List.range n).find? fun i => !used i).getD 0 else c

/-- Advance the counter of the free values. -/
def spend (m : Mach) : Mach := { m with freeCtr := m.freeCtr + 1 }

/-- The core cycle that a half is in: 80 to a tick of REFCLK, and the cycles since the tick (R519, log 94). One count for both halves. -/
def coreTime (m : Mach) (h : Half) : Nat := 80 * m.dbg.tick + (halfAt m h).sub

/-- A rotating pointer over the four request ports after a grant: one place past the granted port (R16, R43). Other units have no place there
(log 118). -/
def pastPort (ptr : Nat) (r : Req) : Nat := match r.origin with | .port p => (p.val + 1) % 4 | _ => ptr

/-- The stamp of an event of a half (R519). -/
def stampOf (m : Mach) (h : Half) : BitVec 64 := m.dbg.ts + BitVec.ofNat 64 ((halfAt m h).sub / 2)

/-! ## Stored errors -/

/-- The flipped positions of a stored code word; none is stored for a word without error (log 5). -/
def errMask (m : Mach) (a : Arr) (h : Half) (i : Nat) : CodeWord :=
  match m.ras.errs.find? fun e => e.arr == a && e.half == h && e.idx == i with
  | some e => e.mask
  | none => 0

/-- Store the flipped positions of a code word. -/
def setErr (a : Arr) (h : Half) (i : Nat) (mask : CodeWord) (m : Mach) : Mach :=
  let rest := m.ras.errs.filter fun e => !(e.arr == a && e.half == h && e.idx == i)
  { m with ras := { m.ras with errs := if mask == 0 then rest else rest ++ [⟨a, h, i, mask⟩] } }

/-- The number of an array in RAS_INJ (R471); the arrays without a number take no injection. -/
def arrNumber (a : Arr) : Option Nat :=
  match a with
  | .frames => some 0 | .tags => some 1 | .dir => some 2 | .victim => some 3 | .merge => some 4
  | .crucible => some 5 | .progs => some 6 | .structs => some 7 | .ctl => none | .sliceArr => none

/-! ## Structure words -/

/-- The value of a copy of a structure word, none when its code word is uncorrectable (R454). -/
def copyValue (m : Mach) (h : Half) (c : Fin 3) (i : Nat) : Option (BitVec 32) :=
  let x := tabGet 0 (halfAt m h).words[c] i
  match eccRead (errMask m .structs h (8 * c.val + i / 8)) with
  | .bad => none
  | .clean r => some (x ^^^ r.extractLsb' (32 * (i % 8)) 32)
  | .corrected r => some (x ^^^ r.extractLsb' (32 * (i % 8)) 32)

/-- Table 14.6: the value used, none where the vote ends in the safe state (R454). -/
def vote (a b c : Option (BitVec 32)) : Option (BitVec 32) :=
  match a, b, c with
  | some x, some y, some z => if x == y || x == z then some x else if y == z then some y else none
  | some x, some y, none => if x == y then some x else none
  | some x, none, some z => if x == z then some x else none
  | none, some y, some z => if y == z then some y else none
  | some x, none, none => some x
  | none, some y, none => some y
  | none, none, some z => some z
  | none, none, none => none

def votedWord (m : Mach) (h : Half) (i : Nat) : Option (BitVec 32) :=
  vote (copyValue m h 0 i) (copyValue m h 1 i) (copyValue m h 2 i)

/-- The voted value of a structure word. Where the vote gives none, the value is free (log 20) until the vote's row puts
the half into its safe state. -/
def word (m : Mach) (h : Half) (i : Nat) : BitVec 32 :=
  (votedWord m h i).getD ((Config.freeWord m.freeCtr).setWidth 32)

/-- Half 1 holds structure words of its own: an image is loaded, and it does not name FRUGAL (R34). -/
def half1Words (m : Mach) : Bool := tabGet (0 : BitVec 32) (halfAt m 1).words[0] 17 != 0

/-- A structure word as the slice uses it: the voted value of Half 0, and where Half 0 has none, that of Half 1, which goes on with its own
words (R454, R456). -/
def sliceWord (m : Mach) (i : Nat) : BitVec 32 :=
  match votedWord m 0 i with
  | some v => v
  | none => if half1Words m then word m 1 i else word m 0 i

/-! ## Topology and homes -/

/-- FRUGAL loaded (R394, word 17 bit 31). -/
def frugal (m : Mach) : Bool := bitAt (sliceWord m 17) 31

/-- CHIP of GLB_TOPO (R19). -/
def chipNum (m : Mach) : BitVec 5 := (sliceWord m 16).extractLsb' 27 5

/-- PERDIE of GLB_TOPO. -/
def perDie (m : Mach) : Nat := ((sliceWord m 16).extractLsb' 8 3).toNat

/-- Slice count S (word 17). -/
def sliceCount (m : Mach) : Nat := ((sliceWord m 17).extractLsb' 0 6).toNat

/-- Number of this slice: die × PERDIE + position (R18, R19). -/
def ownSlice (m : Mach) : BitVec 5 :=
  BitVec.ofNat 5 (((sliceWord m 16).extractLsb' 5 3).toNat * perDie m + ((sliceWord m 16).extractLsb' 0 2).toNat)

/-- Position of a slice on its die; PERDIE 0 stands before any load, when no request is parsed. -/
def posOf (m : Mach) (s : BitVec 5) : Nat := s.toNat % perDie m

/-- The hash of R21: the home-table index of an address. -/
def homeIndex (a : Addr) : Nat :=
  (a.extractLsb' 10 6 ^^^ a.extractLsb' 16 6 ^^^ a.extractLsb' 22 6 ^^^ a.extractLsb' 28 6
    ^^^ a.extractLsb' 34 6 ^^^ a.extractLsb' 40 6 ^^^ a.extractLsb' 46 6).toNat

/-- The parity of R21 that picks the half. -/
def homeParity (a : Addr) : Bool :=
  bitAt a 10 ^^ bitAt a 17 ^^ bitAt a 24 ^^ bitAt a 31 ^^ bitAt a 38 ^^ bitAt a 45

/-- The entry of the home table for an address, in a word of it (R21, R23). -/
def homeEntry (w : Nat → BitVec 32) (a : Addr) : BitVec 5 :=
  let i := homeIndex a
  (w (i / 4)).extractLsb' (8 * (i % 4)) 5

/-- Home slice of an address (R21), by the words of half h. -/
def homeSlice (m : Mach) (h : Half) (a : Addr) : BitVec 5 := homeEntry (word m h) a

/-- Home slice of an address, before a half is known. -/
def sliceOf (m : Mach) (a : Addr) : BitVec 5 := homeEntry (sliceWord m) a

/-- Home half of an address (R21). -/
def homeHalf (m : Mach) (a : Addr) : Half := if frugal m then 0 else if homeParity a then 1 else 0

/-- Package memory: bits 51:47 equal CHIP (R20). -/
def isPackage (m : Mach) (a : Addr) : Bool := a.extractLsb' 47 5 == chipNum m

/-- The package that owns an address (R20). -/
def ownerChip (a : Addr) : BitVec 5 := a.extractLsb' 47 5

/-- The reservation window, in MiB (R174, words 21 and 22). -/
def inReservation (m : Mach) (a : Addr) : Bool :=
  let base := (sliceWord m 21).toNat
  let size := ((sliceWord m 22).extractLsb' 0 16).toNat
  let mib := a.toNat / 2 ^ 20
  decide (base ≤ mib) && decide (mib < base + size)

/-- The image area, 2 MiB from BOOTA (R383). -/
def inImageArea (m : Mach) (a : Addr) : Bool :=
  let base := m.jrn.boota.toNat * 2 ^ 28
  decide (base ≤ a.toNat) && decide (a.toNat < base + 2 ^ 21)

/-- The entry of a directory index in the index map (R391): the slice that may grant it. -/
def granter (m : Mach) (idx : BitVec 6) : Option (BitVec 5) :=
  let w := sliceWord m (25 + idx.toNat / 4)
  let b := 8 * (idx.toNat % 4)
  if bitAt w (b + 7) then some (w.extractLsb' b 5) else none

/-- The indices this slice may grant (words 23 and 24). -/
def mayGrant (m : Mach) (idx : Nat) : Bool :=
  if idx < 32 then bitAt (sliceWord m 23) idx else bitAt (sliceWord m 24) (idx - 32)

/-! ## The two logs -/

/-- An entry of the loss log (R450). -/
def logLoss (e : LossEntry) (m : Mach) : Mach :=
  { m with ras := { m.ras with
      loss := tabSet ⟨false, 0, 0, false, 0, 0, 0⟩ m.ras.loss (m.ras.lossCnt.toNat % 64) e
      lossCnt := m.ras.lossCnt + 1 } }

/-- An entry that names a line (R469). -/
def lossLine (cause : BitVec 4) (h : Half) (l : LineAddr) : LossEntry := ⟨true, cause, h, true, 0, 0, l⟩

/-- An entry that names the code word of a line too. -/
def lossWord (cause : BitVec 4) (h : Half) (l : LineAddr) (way : Nat) (set : Nat) : LossEntry :=
  ⟨true, cause, h, true, BitVec.ofNat 5 way, BitVec.ofNat 13 set, l⟩

/-- An entry without an address (causes TAG and DIR). -/
def lossPlace (cause : BitVec 4) (h : Half) (way set : Nat) : LossEntry :=
  ⟨true, cause, h, false, BitVec.ofNat 5 way, BitVec.ofNat 13 set, 0⟩

/-- The violation entry before any was made. -/
def VioEntry.none : VioEntry := ⟨false, 0, 0, 0, 0, 0, 0, 0⟩

/-- An entry of the violation log (R453). -/
def logVio (e : VioEntry) (m : Mach) : Mach :=
  { m with ras := { m.ras with
      vio := tabSet VioEntry.none m.ras.vio (m.ras.vioCnt.toNat % 64) e
      vioCnt := m.ras.vioCnt + 1 } }

/-- The entry of a discarded message (R453): CODE 0, OPC the MTYPE. -/
def vioMessage (src : BitVec 4) (mtype : BitVec 6) (a : Addr) : VioEntry := ⟨true, 0, src, mtype, 0, 0, a, 0⟩

/-- LOSS causes, Table 14.5. -/
def lossDATA : BitVec 4 := 1
def lossLOST : BitVec 4 := 2
def lossMEM : BitVec 4 := 3
def lossWRITE : BitVec 4 := 4
def lossDEPART : BitVec 4 := 5
def lossXLOST : BitVec 4 := 6
def lossTAG : BitVec 4 := 7
def lossDIR : BitVec 4 := 8
def lossGROUP : BitVec 4 := 9

/-! ## Power (R476 to R478) -/

/-- The half takes beats: AWAKEn is 1, or the 64 core cycles after its fall run. -/
def clocked (m : Mach) (h : Half) : Bool := (halfAt m h).pw.awake || (halfAt m h).pw.tail

/-- A demand for a half (R478). In the tail of a stop it abandons the stop (R481). -/
def raiseDemand (h : Half) (m : Mach) : Mach :=
  modHalf h (fun hs => { hs with pw :=
    if hs.pw.tail then { hs.pw with awake := true, tail := false } else { hs.pw with demand := !hs.pw.awake } }) m

/-- A half is needed: where it is not awake, that is a demand (R116, R478, R481). -/
def rouse (h : Half) (m : Mach) : Mach := if (halfAt m h).pw.awake then m else raiseDemand h m

/-! ## Line data -/

/-- The bits of the bytes that are enabled. -/
def byteMask (be : LineBE) : Line :=
  (List.range 256).foldl (fun a i => if be.getLsbD i then a ||| (0xFF#2048 <<< (8 * i)) else a) 0

/-- Bytes under enables: `new` where the enable is set, else `old`. -/
def mergeBytes (be : LineBE) (new old : Line) : Line :=
  (new &&& byteMask be) ||| (old &&& ~~~byteMask be)

/-- Sector s of a line. -/
def sectorOf (d : Line) (s : Nat) : Sector := d.extractLsb' (512 * s) 512

/-- Replace sector s of a line. -/
def withSector (d : Line) (s : Nat) (x : Sector) : Line :=
  (d &&& ~~~((BitVec.allOnes 512).setWidth 2048 <<< (512 * s))) ||| (x.setWidth 2048 <<< (512 * s))

/-- The sectors, as a mask, that a byte range of a line touches. -/
def sectorMask (lo n : Nat) : BitVec 4 :=
  (List.range 4).foldl (fun a s => if lo < 64 * (s + 1) && 64 * s < lo + n then a ||| (1#4 <<< s) else a) 0

/-- Byte enables of `n` bytes from byte `lo` of a line. -/
def beRange (lo n : Nat) : LineBE := BitVec.ofNat 256 ((2 ^ n - 1) * 2 ^ lo)

end Sys2Proof.Machine
end

