-- ==== Sys2Proof/Machine/Profile.lean ====
section
/-!
DEFINITION. Label contexts in use (R410), and the profiling counters of a half (R530, Table 17.2): counting an event in every counter
that selects it and whose filters pass it.
-/

namespace Sys2Proof.Machine

/-- The live context of a label (R410). -/
def LabelCtx.off : LabelCtx := ⟨false, 0, 0, 0, 0, 0⟩
def labelCtx (g : Regs) (l : BitVec 12) : LabelCtx := tabGet LabelCtx.off g.live l.toNat

/-- PFn_CFGk and PFn_OPTk after block reset (R542). -/
def ProfCfg.none : ProfCfg := ⟨0, 0, 0, 0, 0⟩

/-- The configuration of counter k of a half. -/
def profCfg (g : Regs) (h : Half) (k : Nat) : ProfCfg := tabGet ProfCfg.none g.pfCfg (64 * h.val + k)

/-- The filters of R530. `who` is the label and OPTAG of a filtered event, none for an event marked "No". LMODE 0b11 is reserved:
whether it passes a label is free (log 30). -/
def profPasses (g : Regs) (free : Bool) (c : ProfCfg) (who : Option (BitVec 12 × BitVec 16)) : Bool :=
  match who with
  | none => c.lmode == 0 && c.omask == 0
  | some (l, t) =>
    (match c.lmode.toNat with
      | 0 => true
      | 1 => l == c.lsel
      | 2 => (labelCtx g l).attr == c.lsel.extractLsb' 0 6
      | _ => free) && t &&& c.omask == c.oval &&& c.omask

/-- Profiling runs in a half: ENn is 1 and no global stop has taken effect (R530). -/
def profRuns (g : Regs) (m : Mach) (h : Half) : Bool := g.pfEn.getLsbD h.val && !m.dbg.stopped

/-- Add n events of a kind to the counters of a half (R530). -/
def profile (g : Regs) (h : Half) (evt : BitVec 8) (who : Option (BitVec 12 × BitVec 16)) (n : Nat) (m : Mach) : Mach :=
  if !profRuns g m h || n == 0 then m
  else
    let takes := fun (k : Nat) => (profCfg g h k).evt == evt && profPasses g (Config.freeBit m.freeCtr) (profCfg g h k) who
    modHalf h (fun hs => { hs with prof := ((List.range 64).filter takes).foldl (fun t k => tabMod 0 t k fun v => v + BitVec.ofNat 64 n) hs.prof }) m

/-- The filter fields of a request. -/
def who (r : Req) : Option (BitVec 12 × BitVec 16) := some (r.label, r.optag)

end Sys2Proof.Machine
end

