-- ==== Sys2Proof/Machine/Wire.lean ====
section
/-!
DEFINITION. The bits on the channels: the beats of a request port (Tables 2.4, 2.9, 2.10, 2.12), the headers of the memory, peer and
remote ports (Tables 3.2 to 3.5), the data sub-channels (R81, R82), and the command that each arriving beat or message is. Fields stand
from the highest bit down, as the tables list them.
-/

namespace Sys2Proof.Machine

/-! ## Request port -/

def boolBit (b : Bool) : BitVec 1 := BitVec.ofBool b

/-- A REQ beat (R45). -/
def reqWord (opc : BitVec 6) (b : ReqBeat) : BitVec 160 :=
  b.rsv ++ boolBit b.lane ++ opc ++ b.txn ++ b.addr ++ b.size ++ b.label ++ b.optag ++ b.inst ++ b.gen ++ b.dl ++ b.hint ++ b.aux

/-- OPC of a REQ beat. -/
def reqOpc (w : BitVec 160) : BitVec 6 := w.extractLsb' 150 6

/-- The other fields of a REQ beat (R45). -/
def reqFields (w : BitVec 160) : ReqBeat where
  rsv := w.extractLsb' 157 3
  lane := bitAt w 156
  txn := w.extractLsb' 140 10
  addr := w.extractLsb' 88 52
  size := w.extractLsb' 84 4
  label := w.extractLsb' 72 12
  optag := w.extractLsb' 56 16
  inst := w.extractLsb' 50 6
  gen := w.extractLsb' 46 4
  dl := w.extractLsb' 34 12
  hint := w.extractLsb' 32 2
  aux := w.extractLsb' 0 32

/-- The command of a REQ beat (Table 2.6). -/
def requestOf (p : PortIx) (w : BitVec 160) : Instr :=
  let b := reqFields w
  match (reqOpc w).toNat with
  | 0x00 => .rdNc p b | 0x01 => .rdS p b | 0x02 => .rdU p b | 0x03 => .pref p b | 0x08 => .wr p b | 0x0A => .place p b
  | 0x0B => .upg p b | 0x0C => .evict p b | 0x10 => .atomR p b | 0x11 => .atomN p b | 0x12 => .addl p b | 0x18 => .grpOpen p b
  | 0x19 => .grpContrib p b | 0x1A => .grpAbort p b | 0x20 => .ctrAdd p b | 0x21 => .ctrRead p b | 0x22 => .ctrReset p b
  | 0x23 => .wait p b | 0x28 => .invoke p b | 0x30 => .cln p b | 0x31 => .inv p b | 0x32 => .clninv p b | 0x33 => .zero p b
  | _ => .reservedOpcode p (reqOpc w) b

/-- A WD beat (R53). -/
def wdWord (b : WdBeat) : BitVec 587 := b.txn ++ boolBit b.last ++ b.be ++ b.data

/-- The command of a WD beat. -/
def wdOf (p : PortIx) (w : BitVec 587) : Instr :=
  .wdBeat p ⟨w.extractLsb' 577 10, bitAt w 576, w.extractLsb' 512 64, w.extractLsb' 0 512⟩

/-- KIND of a snoop (Table 2.12). -/
def snpBits (k : SnpKind) : BitVec 2 := match k with | .inv => 0 | .down => 1 | .place => 2

/-- The kind of snoop of two bits; none for the reserved value. -/
def snpOfBits (b : BitVec 2) : Option SnpKind := match b.toNat with | 0 => some .inv | 1 => some .down | 2 => some .place | _ => none

/-- An SNP beat (R64). -/
def snpWord (k : SnpKind) (stxn : BitVec 8) (l : LineAddr) : BitVec 64 := 0#10 ++ snpBits k ++ stxn ++ l

/-- An SRSP beat (R64). -/
def srspWord (had : Bool) (stxn : BitVec 8) : BitVec 16 := 0#7 ++ boolBit had ++ stxn

/-- The command of an SRSP beat. -/
def srspCommand (p : PortIx) (w : BitVec 16) : Instr := .srsp p (w.extractLsb' 0 8) (bitAt w 8)

/-- A completion header (R58): `a` is LANE or PLC, `b` is DUP or LAST. -/
def cmplWord (a b : Bool) (gen : BitVec 4) (inst : BitVec 6) (code : Code) (txn : BitVec 10) : BitVec 32 :=
  boolBit a ++ boolBit b ++ gen ++ inst ++ code.bits ++ 0#7 ++ txn

/-! ## Data sub-channels (R81, R82) -/

/-- A beat of a data sub-channel (R81): its valid words D_N, and word w in bits 64w + 63 to 64w. -/
def dataBeat (ws : List (BitVec 64)) : DataBeat :=
  ⟨ws.length, ws.zipIdx.foldl (fun (a : BitVec 1600) (x : BitVec 64 × Nat) => a ||| (x.1.setWidth 1600 <<< (64 * x.2))) 0⟩

/-- The words of a message with n bytes of data, which start at bit 0 of a line: padded with zero bytes to whole words (R82). -/
def dataWords (n : Nat) (d : Line) : List (BitVec 64) :=
  let x := d &&& byteMask (beRange 0 n)
  (List.range ((n + 7) / 8)).map fun i => x.extractLsb' (64 * i) 64

/-- Words in beats of W words (R81). -/
def beatsOfWords (fuel W : Nat) (ws : List (BitVec 64)) : List DataBeat :=
  match fuel, ws with
  | 0, _ => []
  | _, [] => []
  | n + 1, ws => dataBeat (ws.take W) :: beatsOfWords n W (ws.drop W)

/-- The beats that carry a message's data behind `before`, the words of the previous message in the beat where it ends (R82). -/
def beatsBehind (W : Nat) (before : List (BitVec 64)) (n : Nat) (d : Line) : List DataBeat := beatsOfWords 32 W (before ++ dataWords n d)

/-- The beats of a message's data; the slice starts each message on a beat of its own (log 100). -/
def dataBeats (W n : Nat) (d : Line) : List DataBeat := beatsBehind W [] n d

/-- The words that beats carry, in their order. -/
def wordsOfBeats (bs : List DataBeat) : List (BitVec 64) :=
  bs.flatMap fun b => (List.range b.n).map fun i => b.bits.extractLsb' (64 * i) 64

/-- The bytes of a message's words, the first at bit 0. -/
def lineOfWords (ws : List (BitVec 64)) : Line := ws.zipIdx.foldl (fun (a : Line) (x : BitVec 64 × Nat) => a ||| (x.1.setWidth 2048 <<< (64 * x.2))) 0

/-- The data of a message of n bytes that starts at word `start` of the first of its beats: the words of another message in the first or the
last of them are not its own (R82). -/
def dataAt (start n : Nat) (bs : List DataBeat) : Line := lineOfWords (((wordsOfBeats bs).drop start).take ((n + 7) / 8))

/-- W of the data sub-channels (R81): READ data to the slice, WRITE data from it, peer, remote. -/
def memReadW : Nat := 24
def memWriteW : Nat := 12
def peerW : Nat := 16
def remoteW : Nat := 25

/-! ## Memory port (R85, R87, R88) -/

/-- A memory command header (Table 3.2). -/
def memHeader (cls : BitVec 2) (tag : BitVec 9) (smask : BitVec 4) (addr : Addr) (aop : BitVec 5) (size : BitVec 4) (label : BitVec 12)
    (optag : BitVec 16) (inst : BitVec 6) (scls : BitVec 4) : BitVec 160 :=
  cls ++ tag ++ smask ++ addr ++ aop ++ size ++ label ++ optag ++ inst ++ scls ++ 0#46

/-- The header of a READ. -/
def readHeader (x : RdCmd) : BitVec 160 := memHeader 0 x.tag x.smask (lineBase x.line) 0 0 x.label x.optag x.inst x.cls

/-- The header of a WRITE. -/
def writeHeader (x : WrCmd) : BitVec 160 := memHeader 1 x.tag x.smask (lineBase x.line) 0 0 x.label x.optag x.inst x.cls

/-- The header of an ATOMIC. -/
def atomicHeader (x : AtCmd) : BitVec 160 :=
  memHeader 2 x.tag 0 x.req.addr (x.req.aux.extractLsb' 0 5) x.req.size x.req.label x.req.optag x.req.inst x.cls

/-- Data bytes of an ATOMIC toward memory (Table 3.3). -/
def atomicBytes (r : Req) : Nat := if r.aux.extractLsb' 0 5 == 5 then 2 * 2 ^ r.size.toNat else 2 ^ r.size.toNat

/-- A memory response header (R88). -/
def memRspWord (cls : BitVec 2) (tag : BitVec 9) (code : Code) : BitVec 16 := cls ++ tag ++ code.bits ++ 0#2

/-- The command of a memory response, whose n bytes of data start at word `start` of its first beat (R82); none for the reserved class. -/
def memRspOf (c : Half) (w : BitVec 16) (start n : Nat) (data : List DataBeat) : Option Instr :=
  let tag := w.extractLsb' 5 9
  let ok := w.extractLsb' 2 3 == 0
  let d := dataAt start n data
  match (w.extractLsb' 14 2).toNat with
  | 0 => some (.memReadResponse c tag ok d)
  | 1 => some (.memWriteResponse c tag ok)
  | 2 => some (.memAtomicResponse c tag ok (d.extractLsb' 0 64))
  | _ => none

/-! ## Peer and remote headers (R92, R93) -/

/-- A peer or remote header (Table 3.4). -/
structure LinkHdr where
  be     : LineBE
  cls    : BitVec 2
  dchip  : BitVec 5
  schip  : BitVec 5
  dslice : BitVec 5
  sslice : BitVec 5
  sport  : BitVec 2
  mtype  : BitVec 4
  dlen   : BitVec 9
  body   : BitVec 160
  deriving DecidableEq, Repr

/-- The 480 bits of a header. -/
def LinkHdr.bits (x : LinkHdr) : BitVec 480 :=
  x.be ++ x.cls ++ x.dchip ++ x.schip ++ x.dslice ++ x.sslice ++ x.sport ++ x.mtype ++ x.dlen ++ 0#27 ++ x.body

/-- The header of 480 bits. -/
def linkHdrOf (w : BitVec 480) : LinkHdr where
  be := w.extractLsb' 224 256
  cls := w.extractLsb' 222 2
  dchip := w.extractLsb' 217 5
  schip := w.extractLsb' 212 5
  dslice := w.extractLsb' 207 5
  sslice := w.extractLsb' 202 5
  sport := w.extractLsb' 200 2
  mtype := w.extractLsb' 196 4
  dlen := w.extractLsb' 187 9
  body := w.extractLsb' 0 160

/-- Kind of an XREQ (Table 3.5). -/
def xkindBits (k : XKind) : BitVec 2 := match k with | .shared => 0 | .unique => 1 | .upgrade => 2

/-- BODY of XREQ, XWB and XSNP. -/
def remoteBody (rtag : BitVec 9) (kind : BitVec 2) (l : LineAddr) : BitVec 160 := (rtag ++ kind ++ l).setWidth 160

/-- A word of KIND, ROLE, REASON and CAP (R105). -/
def helloWord (kind : BitVec 2) (role reason : BitVec 4) (cap : BitVec 64) : BitVec 64 :=
  kind ++ role ++ reason ++ cap.setWidth 54

def wordKind (w : BitVec 64) : BitVec 2 := w.extractLsb' 62 2
def wordRole (w : BitVec 64) : BitVec 4 := w.extractLsb' 58 4
def wordReason (w : BitVec 64) : BitVec 4 := w.extractLsb' 54 4

/-- The word of a timestamp probe (R521). -/
def probeWord (reply : Bool) : BitVec 64 := helloWord 1 0xA 0 (flagAt 64 reply 0)

/-- The command of a HELLO message (Tables 3.7 and 3.9, R218, R521); `src` is the slice or package that sent it. Words of ROLE 0xB are
notices, of ROLE 0xA probes. -/
def helloCommandOf (k : Fin 3) (x : LinkHdr) : Option Instr :=
  let w := x.body.extractLsb' 0 64
  let ch : Half := if k == 1 then 1 else 0
  let src : HelloSrc := if k == 2 then .remoteMsg x.schip else .peerMsg ch x.sslice
  match (wordKind w).toNat with
  | 0 => if wordRole w == 0xB && k != 2 then some (if bitAt w 48 then .reclaimAnswer ch x.sslice w else .reclaimNotice ch x.sslice w) else none
  | 1 =>
    if wordRole w == 0xA && k == 2 then
      some (if bitAt w 0 then .tsProbeReply x.schip (x.body.extractLsb' 64 64) (x.body.extractLsb' 128 32) else .tsProbeRequest x.schip (x.body.extractLsb' 64 64))
    else some (.hello src w)
  | 2 => some (.join src w)
  | _ => some (.bye src w)

/-- The command of a message that arrives on link k (Table 3.5), its DLEN bytes of data from word `start` of its first beat (R82); none for a
reserved MTYPE or kind. What Table 3.5 gives no field travels beside it: of a FWD the directory index (log 22) and the class of its deadline
(log 94), of a PLACE snoop INST and GEN (log 101). -/
def messageOf (k : Fin 3) (w : BitVec 480) (start : Nat) (data : List DataBeat) (idx : Option (BitVec 6)) (dlc : Option (BitVec 4)) (inst : BitVec 6)
    (gen : BitVec 4) : Option Instr :=
  let x := linkHdrOf w
  let d := dataAt start x.dlen.toNat data
  let ch : Half := if k == 1 then 1 else 0
  let b := x.body
  let line : LineAddr := b.extractLsb' 0 44
  let kind := (b.extractLsb' 44 2).toNat
  let rtag : BitVec 9 := b.extractLsb' 46 9
  match x.mtype.toNat with
  | 0 => some (.fwd ⟨ch, x.sslice, x.sport, x.be, reqOpc b, reqFields b, d, idx, dlc⟩)
  | 1 => some (.cmpl ⟨ch, x.sslice, x.sport, bitAt b 32, b.extractLsb' 0 10, Code.ofBits (b.extractLsb' 17 3), x.dlen, d⟩)
  | 2 => (snpOfBits (b.extractLsb' 52 2)).map fun kd => .snpf ⟨ch, x.sslice, kd, b.extractLsb' 44 8, line, b.extractLsb' 64 6, d, inst, gen⟩
  | 3 => some (.srspf ⟨ch, x.sslice, b.extractLsb' 0 8, bitAt b 8, b.extractLsb' 16 6⟩)
  | 4 => match kind with
    | 0 => some (.xreq ⟨x.schip, line, .shared, rtag⟩)
    | 1 => some (.xreq ⟨x.schip, line, .unique, rtag⟩)
    | 2 => some (.xreq ⟨x.schip, line, .upgrade, rtag⟩)
    | _ => none
  | 5 => if kind == 3 then some (.xwb ⟨x.schip, line, rtag, b.extractLsb' 55 4, d⟩) else none
  | 6 => if kind ≤ 1 then some (.xsnp ⟨x.schip, line, rtag, kind == 0⟩) else none
  | 7 =>
    let has := bitAt b 58
    some (.xrsp ⟨x.schip, rtag, Code.ofBits (b.extractLsb' 55 3), if has then some d else none, if has then b.extractLsb' 59 4 else 0⟩)
  | 8 => helloCommandOf k x
  | _ => none

end Sys2Proof.Machine
end

