-- ==== Sys2Proof/Machine/Links.lean ====
section
/-!
DEFINITION. The message layer of the peer and remote ports: classes, credits and the order in which waiting messages are
presented (R83, R93, R94), and the opcode table of the request port (R49).
-/

namespace Sys2Proof.Machine

/-! ## Table 2.6 -/

/-- OPC of an operation of a request port (R49); the remote requests of R210 have none. -/
def opcBits (o : Op) : BitVec 6 :=
  match o with
  | .rdNc => 0x00 | .rdS => 0x01 | .rdU => 0x02 | .pref => 0x03 | .wr => 0x08 | .place => 0x0A | .upg => 0x0B
  | .evict => 0x0C | .atomR => 0x10 | .atomN => 0x11 | .addl => 0x12 | .grpOpen => 0x18 | .grpContrib => 0x19
  | .grpAbort => 0x1A | .ctrAdd => 0x20 | .ctrRead => 0x21 | .ctrReset => 0x22 | .wait => 0x23 | .invoke => 0x28
  | .cln => 0x30 | .inv => 0x31 | .clnInv => 0x32 | .zero => 0x33
  | .xShared => 0x00 | .xUnique => 0x00 | .xUpgrade => 0x00 | .xwb => 0x00 | .xsnpDown => 0x00 | .xsnpInv => 0x00
  | .pin => 0x00 | .unpin => 0x00

/-- The operation of an OPC; none for a reserved value (R49). -/
def opOfBits (b : BitVec 6) : Option Op :=
  match b.toNat with
  | 0x00 => some .rdNc | 0x01 => some .rdS | 0x02 => some .rdU | 0x03 => some .pref | 0x08 => some .wr
  | 0x0A => some .place | 0x0B => some .upg | 0x0C => some .evict | 0x10 => some .atomR | 0x11 => some .atomN
  | 0x12 => some .addl | 0x18 => some .grpOpen | 0x19 => some .grpContrib | 0x1A => some .grpAbort
  | 0x20 => some .ctrAdd | 0x21 => some .ctrRead | 0x22 => some .ctrReset | 0x23 => some .wait | 0x28 => some .invoke
  | 0x30 => some .cln | 0x31 => some .inv | 0x32 => some .clnInv | 0x33 => some .zero | _ => none

/-- The counter opcodes. -/
def isCounterOp (o : Op) : Bool :=
  match o with
  | .ctrAdd => true | .ctrRead => true | .ctrReset => true | .wait => true | _ => false

/-- Lane 1 of Table 2.6. -/
def isLane1 (o : Op) : Bool := isCounterOp o || o == .invoke

/-- SIZE allowed, Table 2.6. -/
def sizeAllowed (o : Op) (size : Nat) : Bool :=
  match o with
  | .rdNc => decide (size ≤ 8)
  | .wr => decide (size ≤ 8)
  | .rdS => size == 6 || size == 8
  | .rdU => size == 6 || size == 8
  | .place => size == 6 || size == 8
  | .addl => size == 6 || size == 8
  | .grpContrib => size == 6 || size == 8
  | .atomR => size == 2 || size == 3
  | .atomN => size == 2 || size == 3
  | .ctrAdd => size == 3
  | .ctrRead => size == 3
  | .ctrReset => size == 3
  | .wait => size == 3
  | _ => size == 8

/-- WD beats of an opcode and SIZE (Table 2.6, R75). -/
def wdBeats (o : Op) (size : Nat) : Nat :=
  match o with
  | .wr => if size ≤ 6 then 1 else if size == 7 then 2 else 4
  | .place => if size ≤ 6 then 1 else if size == 7 then 2 else 4
  | .addl => if size ≤ 6 then 1 else if size == 7 then 2 else 4
  | .grpContrib => if size ≤ 6 then 1 else if size == 7 then 2 else 4
  | .atomR => 1
  | .atomN => 1
  | _ => 0

/-- A successful completion goes on RD (Table 2.6). -/
def completesRd (o : Op) : Bool :=
  match o with
  | .rdNc => true | .rdS => true | .rdU => true | .atomR => true | .ctrRead => true | _ => false

/-- DONE and DONE_SHARED. -/
def isDone (c : Code) : Bool := c == .done || c == .doneShared

/-- The completion arrives on RD (R57): a read that succeeds or fails with ERR_DATA. -/
def onRd (o : Op) (c : Code) : Bool := completesRd o && (isDone c || c == .errData)

/-- Bytes of read data in a completion. -/
def readBytes (r : Req) (c : Code) : Nat := if completesRd r.op && isDone c then 2 ^ r.size.toNat else 0

/-! ## Messages -/

/-- Class of a message, Table 3.5: 0 REQ, 1 SNP, 2 RSP, 3 CTL. -/
def msgClass (x : Msg) : Fin 4 :=
  match x with
  | .fwd _ _ _ _ o => if isLane1 o then 3 else 0
  | .report .. => 3
  | .cmpl .. => 2
  | .snpf .. => 1
  | .srspf .. => 2
  | .xreq .. => 0
  | .xwb .. => 0
  | .xsnp .. => 1
  | .xrsp .. => 2
  | .hello .. => 3
  | .probe .. => 3

/-- DLEN of a message (Table 3.5). The write data of a request is the bytes of its range; an operand goes with all lanes of its beat
(R56, log 101). -/
def msgBytes (x : Msg) : Nat :=
  match x with
  | .fwd _ _ _ r o => if wdBeats o r.size.toNat == 0 then 0 else if o == .atomR || o == .atomN then 64 else 2 ^ r.size.toNat
  | .cmpl _ _ _ r c _ => readBytes r c
  | .snpf _ _ s => if s.kind == .place then 256 else 0
  | .xwb .. => 256
  | .xrsp _ _ _ line _ => if line.isSome then 256 else 0
  | _ => 0

/-- The data of a message, its first byte at bit 0. -/
def msgData (x : Msg) : Line :=
  match x with
  | .fwd _ _ _ r o => if o == .atomR || o == .atomN then r.data else r.data >>> (8 * (r.addr.toNat % 256))
  | .cmpl _ _ _ r _ d => if r.op == .rdNc || r.op == .rdS || r.op == .rdU then d >>> (8 * (r.addr.toNat % 256)) else d
  | .snpf _ _ s => s.data
  | .xwb _ _ _ _ d => d
  | .xrsp _ _ _ line _ => line.getD 0
  | _ => 0

/-- The REQ beat in the BODY of a FWD (R93, R97): bit 159 for a unit of this slice. A prefetch carries AUX bit 31 (R157). -/
def fwdBody (int : Bool) (r : Req) (o : Op) : BitVec 160 :=
  reqWord (opcBits o) ⟨boolBit int ++ 0#2, isLane1 o, r.txn, r.addr, r.size, r.label, r.optag, r.inst, r.gen, r.dl, r.hint,
    if r.origin == .bellows then r.aux ||| (1#32 <<< 31) else r.aux⟩

/-- The REQ beat of a counter report (R246): bit 157 for LANDED, bit 158 for SETTLED. -/
def reportBody (dst : BitVec 5) (ctr : BitVec 13) (bytes : Nat) (landed settled : Bool) : BitVec 160 :=
  reqWord 0x20 ⟨0#1 ++ boolBit settled ++ boolBit landed, true, 0, (dst.setWidth 52 <<< 16) ||| (ctr.setWidth 52 <<< 3), 3, 0, 0, 0, 0, 0, 0,
    BitVec.ofNat 32 bytes⟩

/-- MTYPE and BODY of a message (Table 3.5). A completion on RD has PLC 0 and LAST 1, one on RSP the lane of its request and DUP 0, which
the entry slice sets (log 101). -/
def msgBody (x : Msg) : BitVec 4 × BitVec 160 :=
  match x with
  | .fwd _ _ int r o => (0, fwdBody int r o)
  | .report d ctr bytes l s => (0, reportBody d ctr bytes l s)
  | .cmpl _ _ int r c _ =>
    let rd := onRd r.op c
    (1, (boolBit int ++ cmplWord (!rd && r.lane) rd r.gen r.inst c r.txn).setWidth 160)
  | .snpf _ stxn s => (2, (s.idx ++ snpWord s.kind stxn s.line).setWidth 160)
  | .srspf _ _ stxn had idx => (3, (idx ++ srspWord had stxn).setWidth 160)
  | .xreq _ l k rtag => (4, remoteBody rtag (xkindBits k) l)
  | .xwb _ l rtag ds _ => (5, remoteBody rtag 3 l ||| (ds.setWidth 160 <<< 55))
  | .xsnp _ l rtag inv => (6, remoteBody rtag (if inv then 0 else 1) l)
  | .xrsp _ rtag c line ds =>
    (7, remoteBody rtag 0 0 ||| (c.bits.setWidth 160 <<< 55) ||| (if line.isSome then (1#160 <<< 58) ||| (ds.setWidth 160 <<< 59) else 0))
  | .hello _ w => (8, w.setWidth 160)
  | .probe _ reply t dt => (8, dt ++ t ++ probeWord reply)

/-- SPORT of a message (R92, R97); zero in an SNPF, which concerns no port of the slice that sends it (log 101). -/
def msgPort (x : Msg) : BitVec 2 := match x with | .fwd _ sp .. => sp | .cmpl _ sp .. => sp | .srspf _ sp .. => sp | _ => 0

/-- Destination slice or package of a message. -/
def msgDst (x : Msg) : BitVec 5 :=
  match x with
  | .fwd d .. => d | .report d .. => d | .cmpl d .. => d | .snpf d .. => d | .srspf d .. => d | .xreq d .. => d | .xwb d .. => d
  | .xsnp d .. => d | .xrsp d .. => d | .hello d _ => d | .probe d .. => d

/-- The header of a message on a link (R92, R100): to a slice of this package, or to the same slice of another. -/
def msgHeader (m : Mach) (k : Fin 3) (x : Msg) : LinkHdr where
  be := match x with | .fwd _ _ _ r .wr => r.be | _ => 0
  cls := BitVec.ofNat 2 (msgClass x).val
  dchip := if k == 2 then msgDst x else chipNum m
  schip := chipNum m
  dslice := if k == 2 then ownSlice m else msgDst x
  sslice := ownSlice m
  sport := msgPort x
  mtype := (msgBody x).1
  dlen := BitVec.ofNat 9 (msgBytes x)
  body := (msgBody x).2

/-- The beats of a message's data on a link. -/
def msgBeats (k : Fin 3) (x : Msg) : List DataBeat := dataBeats (if k == 2 then remoteW else peerW) (msgBytes x) (msgData x)

/-- Data credits of a message: DLEN / 64, rounded up (R83, Table 3.5). -/
def msgUnits (x : Msg) : Nat := (msgBytes x + 63) / 64

/-- The oldest waiting message of a class, when its credits are held (R83). -/
def readyMsg (l : Link) (c : Fin 4) : Option Msg :=
  match l.sendQ.find? fun x => msgClass x == c with
  | some x => if l.hcr[c] ≥ 1 ∧ l.dcr[c] ≥ msgUnits x then some x else none
  | none => none

/-- The class granted next (R94): CTL first, up to four in a row, then REQ, SNP and RSP in rotation. -/
def pickClass (l : Link) : Option (Fin 4) :=
  let ok := fun c : Fin 4 => (readyMsg l c).isSome
  let rot : List (Fin 4) := if l.ptr == 0 then [0, 1, 2] else if l.ptr == 1 then [1, 2, 0] else [2, 0, 1]
  let other := rot.find? ok
  if ok 3 && (decide (l.ctlRun < 4) || other.isNone) then some 3 else other

/-- A timestamp probe takes its stamp in the cycle its header transfers (R521): t1 in a request, t3 − t2 in a reply. -/
def stampProbe (x : Msg) (m : Mach) : Msg × Mach :=
  let t := stampOf m 0
  match x with
  | .probe dst false _ dt =>
    (.probe dst false t dt, { m with dbg := { m.dbg with meas := m.dbg.meas.map fun y => if y.pkg == dst then { y with t1 := t } else y } })
  | .probe dst true t2 _ => (.probe dst true t2 ((t - t2).setWidth 32), m)
  | y => (y, m)

/-- Present one message of the class: it leaves the queue, takes its credits and is counted (R83, R536). -/
def sendOne (k : Fin 3) (c : Fin 4) (x : Msg) (m : Mach) : Mach :=
  let (y, m) := stampProbe x m
  emit (.msg k y (msgHeader m k y).bits (msgBeats k y)) <| modLink k (fun l =>
    { l with
      sendQ := l.sendQ.erase x
      hcr := l.hcr.set c.val (l.hcr[c] - 1) c.isLt
      dcr := l.dcr.set c.val (l.dcr[c] - msgUnits x) c.isLt
      sent := l.sent.set c.val (l.sent[c] + 1) c.isLt
      ptr := if c == 3 then l.ptr else (c.val + 1) % 3
      ctlRun := if c == 3 then l.ctlRun + 1 else 0 }) m

/-- Present waiting messages while their credits last. -/
def flushLoop (fuel : Nat) (k : Fin 3) (m : Mach) : Mach :=
  match fuel with
  | 0 => m
  | n + 1 =>
    match pickClass (linkAt m k) with
    | none => m
    | some c =>
      match readyMsg (linkAt m k) c with
      | none => m
      | some x => flushLoop n k (sendOne k c x m)

def flushLink (k : Fin 3) (m : Mach) : Mach := flushLoop (linkAt m k).sendQ.length k m

/-- The half that a link attaches to (R14). -/
def fin3Half (k : Fin 3) : Half := if k.val == 1 then 1 else 0

/-- Queue a message and present what the credits allow. It is a demand for the half of the link, and waits there for its clocks (R478). -/
def sendMsg (k : Fin 3) (x : Msg) (m : Mach) : Mach :=
  let m := rouse (fin3Half k) (modLink k (fun l => { l with sendQ := l.sendQ ++ [x] }) m)
  if clocked m (fin3Half k) then flushLink k m else m

/-- A partner has joined: its JOIN is received and ours is sent (R104). -/
def isJoined (x : Hello) : Bool := x.joinOut && x.joinIn

/-- The join state of slice or package j on a link. -/
def partOf (l : Link) (j : BitVec 5) : Hello := tabGet Hello.none l.part j.toNat

/-- Slice or package j is joined on a link. -/
def partJoined (m : Mach) (k : Fin 3) (j : BitVec 5) : Bool := isJoined (partOf (linkAt m k) j)

/-- Send to a partner that is joined; what goes to a departed one is lost with it. -/
def sendTo (k : Fin 3) (dst : BitVec 5) (x : Msg) (m : Mach) : Mach := if partJoined m k dst then sendMsg k x m else m

/-- A message is taken: its credits go back to the partner and it is counted (R83, R536). -/
def takeMsg (k : Fin 3) (c : Fin 4) (units : Nat) (m : Mach) : Mach :=
  emit (.msgCredit k c 1 units) <| modLink k (fun l =>
    { l with rcvd := l.rcvd.set c.val (l.rcvd[c] + 1) c.isLt }) m

end Sys2Proof.Machine
end

