-- ==== Sys2Proof/Machine/Port.lean ====
section
/-!
DEFINITION. The agent's side of a request port: completions and their order on RSP and RD (R41, R44, R57 to R61), snoops
on SNP (R64 to R67), and the one operation by which any request completes, wherever it came from (R97, Table 3.19).
-/

namespace Sys2Proof.Machine

/-! ## Completion channels -/

/-- The first entry that `hi` holds of, else the first entry, with the rest. -/
def takeFirst {α : Type} (hi : α → Bool) (xs : List α) : Option (α × List α) :=
  match xs.find? hi with
  | some _ => match xs.span (fun x => !hi x) with
    | (a, x :: b) => some (x, a ++ b)
    | (_, []) => none
  | none => match xs with
    | [] => none
    | x :: r => some (x, r)

/-- A completion of a lane-1 request (R44); a placement ranks as lane 0. -/
def rdLane1 (i : RdItem) : Bool := match i with | .cmpl c => c.req.lane | .place .. => false

/-- The serial number that ranks what becomes ready in one cycle: of the REQ beat, or of the SNP beat of a placement (R44). -/
def rdSerial (i : RdItem) : Nat := match i with | .cmpl c => c.req.id | .place id .. => id

/-- Insert by rising serial number. -/
def insertBy {α : Type} (key : α → Nat) (x : α) (xs : List α) : List α :=
  match xs with
  | [] => [x]
  | y :: r => if key x < key y then x :: y :: r else y :: insertBy key x r

/-- The cycle in which a completion is presented. -/
def stampRd (now : Nat) (i : RdItem) : RdItem := match i with | .cmpl c => .cmpl { c with pres := now } | x => x

/-- Present the next completion on each free channel: lane 1 first, then the one ready first, then by the REQ beats (R44). What is
presented stays (R41). -/
def present (now : Nat) (p : Port) : Port :=
  let p := { p with rsp := p.rsp ++ p.rspNew, rspNew := [], rd := p.rd ++ p.rdNew, rdNew := [] }
  let p := match p.rspCur with
    | some _ => p
    | none => match takeFirst (fun c : Cmpl => c.req.lane) p.rsp with
      | some (c, r) => { p with rspCur := some { c with pres := now }, rsp := r }
      | none => p
  match p.rdCur with
  | some _ => p
  | none => match takeFirst rdLane1 p.rd with
    | some (c, r) => { p with rdCur := some (stampRd now c, false), rd := r }
    | none => p

/-- A port has something that it can present. -/
def canPresent (p : Port) : Bool :=
  !p.rspNew.isEmpty || !p.rdNew.isEmpty || (p.rspCur.isNone && !p.rsp.isEmpty) || (p.rdCur.isNone && !p.rd.isEmpty)

/-- A completion becomes ready on its port (R57). -/
def pushCmpl (c : Cmpl) (p : Port) : Port :=
  if onRd c.req.op c.code then { p with rdNew := insertBy rdSerial (.cmpl c) p.rdNew }
  else { p with rspNew := insertBy (·.req.id) c p.rspNew }

/-- Two RD beats (R60, R65): a read of 256 bytes that succeeds, or a placement. -/
def twoBeats (i : RdItem) : Bool :=
  match i with
  | .cmpl c => isDone c.code && c.req.size == 8
  | .place .. => true

/-- The 128 data lanes of an RD beat (R60, R61); `second` for the upper half of a line. -/
def rdLanes (i : RdItem) (second : Bool) : BitVec 1024 :=
  match i with
  | .place _ _ _ _ d => d.extractLsb' (if second then 1024 else 0) 1024
  | .cmpl c =>
    if !isDone c.code then 0
    else if c.req.size == 8 then c.data.extractLsb' (if second then 1024 else 0) 1024
    else if c.req.op == .rdNc || c.req.op == .rdS || c.req.op == .rdU then
      (c.data &&& byteMask (beRange (c.req.addr.toNat % 256) (2 ^ c.req.size.toNat))).extractLsb' (if bitAt c.req.addr 7 then 1024 else 0) 1024
    else c.data.extractLsb' 0 1024

/-- The RD beat presented (R58, R60). R65 gives a placement delivery no CODE; it carries that of DONE (DESIGN CHOICE, log 120). -/
def rdBeat (p : PortIx) (i : RdItem) (second : Bool) : Output :=
  let last := second || !twoBeats i
  match i with
  | .cmpl c => .rd p false last c.req.gen c.req.inst c.code c.req.txn (rdLanes i second)
  | .place _ stxn inst gen _ => .rd p true last gen inst .done (stxn.setWidth 10) (rdLanes i second)

/-- The RSP beat presented (R58). -/
def rspBeat (p : PortIx) (c : Cmpl) : Output := .rsp p c.req.lane c.dup c.req.gen c.req.inst c.code c.req.txn

/-! ## Snoops on a port -/

/-- A request still waits at the order point, or for a permission or a directory entry: its home has not ordered it yet. Of one that another
slice homes nothing is known before its completion comes (log 23). -/
def unordered (m : Mach) (id : Nat) : Bool :=
  m.coh.fwdOut.any (fun x => x.req.id == id) || bothHalves.any fun h =>
    let hs := halfAt m h
    hs.opWait.any (fun r => r.id == id) ||
      hs.miss.any (fun e => e.xreq.isSome && e.waiters.any fun r => r.id == id) ||
      hs.conf.any fun c => c.why == .backInv && (match c.req with | some r => r.id == id | none => false)

/-- The port has an RD_S, RD_U or UPG of the line outstanding that its home has ordered (R67, log 23). -/
def cachingOpOn (m : Mach) (p : Port) (l : LineAddr) : Bool :=
  p.txns.any fun t =>
    (t.req.op == .rdS || t.req.op == .rdU || t.req.op == .upg) && lineOf t.req.addr == l &&
      (match t.phase with | .home => !unordered m t.req.id | .done => true | _ => false)

/-- A snoop may be presented: nothing defers it, and an STXN is free (R66, R67). -/
def snoopFree (m : Mach) (p : Port) (s : Snoop) : Bool :=
  !cachingOpOn m p s.line && decide (p.snoops.length < Config.snoopIds)

/-- Give a snoop its STXN and queue it on SNP (R66). -/
def queueSnoop (ctr : Nat) (s : Snoop) (p : Port) : Port :=
  let id := BitVec.ofNat 8 (pickId ctr 256 fun i => p.snoops.any fun x => x.stxn.toNat == i)
  let x : PortSnoop := ⟨id, s, false⟩
  { p with snp := p.snp ++ [x], snoops := p.snoops ++ [x] }

/-- A port with an agent that answers snoops: joined, enabled and not departed. -/
def answers (g : Regs) (m : Mach) (p : PortIx) : Bool :=
  isJoined (portAt m p).hello && g.rpEn[p] && !(portAt m p).departed

/-- The port whose agent holds a directory index. -/
def portOfIdx (m : Mach) (idx : BitVec 6) : Option PortIx :=
  allPorts.find? fun p => (portAt m p).idx == some idx

/-- SPORT of an SRSPF (R92): the port of the agent, or the one that its departed agent had. -/
def answerPort (m : Mach) (idx : BitVec 6) : BitVec 2 :=
  match (portOfIdx m idx).or (allPorts.find? fun p => (portAt m p).former == some idx) with
  | some p => BitVec.ofNat 2 p.val
  | none => 0

/-- An answer goes back to whoever decided the snoop: the conflict tracker of a half, or another slice by SRSPF (R98). -/
def answerSnoop (s : Snoop) (had : Bool) (m : Mach) : Mach :=
  match s.src with
  | .home h => { m with answers := m.answers ++ [⟨h, s.line, .agent s.idx, had⟩] }
  | .peer ch sl stxn => sendTo (peerLink ch) sl (.srspf sl (answerPort m s.idx) stxn had s.idx) m

/-- A snoop for an agent of this slice: presented, deferred by R67, or answered HAD = 0 for a departed agent (R78, R111). -/
def snoopLocal (g : Regs) (s : Snoop) (m : Mach) : Mach :=
  match portOfIdx m s.idx with
  | none => answerSnoop s false m
  | some p =>
    if !answers g m p then answerSnoop s false m
    else
    let m := rouse (portHalf p) m
    if !clocked m (portHalf p) then modPort p (fun x => { x with deferred := x.deferred ++ [s] }) m
    else if snoopFree m (portAt m p) s then spend (modPort p (queueSnoop m.freeCtr s) m)
    else modPort p (fun x => { x with deferred := x.deferred ++ [s] }) m

/-- A deferred snoop of this half to the winner of a hold window that its own completion has started: the window delays it (R67, R204). -/
def windowOf (m : Mach) (s : Snoop) : Option Half :=
  match s.src with
  | .home h =>
    if s.kind != .place && ((halfAt m h).wins.any fun w => w.line == s.line && w.holder == .agent s.idx) then some h else none
  | .peer .. => none

/-- Snoops that R67 or the STXN pool deferred are presented as soon as nothing holds them, or join the hold window that runs. -/
def releaseDeferred (fuel : Nat) (p : PortIx) (m : Mach) : Mach :=
  match fuel with
  | 0 => m
  | n + 1 =>
    match (if clocked m (portHalf p) then (portAt m p).deferred.find? (snoopFree m (portAt m p)) else none) with
    | none => m
    | some s =>
      let out := fun (x : Port) => { x with deferred := x.deferred.erase s }
      match windowOf m s with
      | some h =>
        let join := fun (w : Win) => if w.line == s.line && w.holder == .agent s.idx then { w with delayed := w.delayed ++ [s] } else w
        releaseDeferred n p (modHalf h (fun hs => { hs with wins := hs.wins.map join }) (modPort p out m))
      | none => releaseDeferred n p (spend (modPort p (fun x => queueSnoop m.freeCtr s (out x)) m))

/-- A snoop for the agent of an index, wherever it is: on this slice, or by SNPF to the slice that granted the index (R98).
An agent of a slice that is not joined is answered for as departed (Table 3.10). -/
def snoopAgent (g : Regs) (h : Half) (kind : SnpKind) (line : LineAddr) (idx : BitVec 6) (data : Line) (inst : BitVec 6)
    (gen : BitVec 4) (m : Mach) : Mach :=
  let s : Snoop := ⟨kind, line, idx, .home h, data, inst, gen⟩
  match granter m idx with
  | none => answerSnoop s false m
  | some sl =>
    if sl == ownSlice m then snoopLocal g s m
    else if !partJoined m (peerLink h) sl then answerSnoop s false m
    else
      let stxn := BitVec.ofNat 8 (pickId m.freeCtr 256 fun i =>
        m.coh.snpfOut.any fun x => x.ch == h && x.dst == sl && x.snp.idx == idx && x.stxn.toNat == i)
      let m := spend { m with coh := { m.coh with snpfOut := m.coh.snpfOut ++ [⟨h, sl, stxn, h, s⟩] } }
      sendMsg (peerLink h) (.snpf sl stxn s) m

/-! ## Completing a request -/

/-- A request completes (R57): on its port, by CMPL to the slice that forwarded it (R97), by XRSP to the package that sent it
(R210), or at the unit that sent it. `line` carries the data of a read, at its place in the line. What the home holds for it ends
at once, except for a port, where it ends with the transfer (R201, R203). A transaction that a port reset cleared presents nothing
(R482). -/
def complete (r : Req) (c : Code) (line : Line) (m : Mach) : Mach :=
  match r.origin with
  | .port p =>
    if (portAt m p).txns.all fun t => t.req.id != r.id then { m with finished := m.finished ++ [(r, c)] }
    else rouse (portHalf p) <| modPort p (fun x =>
      pushCmpl ⟨r, c, false, line, 0⟩
        { x with txns := x.txns.map fun t => if t.req.id == r.id then { t with phase := .done } else t }) m
  | .fwd ch sl sport _ int =>
    let m := { m with finished := m.finished ++ [(r, c)] }
    sendTo (peerLink ch) sl (.cmpl sl sport int r c line) m
  | .remote chip rtag => sendTo 2 chip (.xrsp chip rtag c none 0) { m with finished := m.finished ++ [(r, c)] }
  | .bellows => { m with finished := m.finished ++ [(r, c)] }
  | _ => { m with finished := m.finished ++ [(r, c)], unitDone := m.unitDone ++ [(r, c, line)] }

/-- Complete a list of requests with one code. -/
def completeAll (rs : List Req) (c : Code) (line : Line) (m : Mach) : Mach :=
  rs.foldl (fun m r => complete r c line m) m

/-- SRC of a sequencer and its Anvil operations in the violation log (R453). -/
def seqSrc (h k : Half) : BitVec 4 := BitVec.ofNat 4 (8 + 2 * h.val + k.val)

/-- The SRC of the violation log for a request (R453); none for the units that it gives no value. -/
def vioSrc (o : Origin) : Option (BitVec 4) :=
  match o with
  | .port p => some (BitVec.ofNat 4 p.val)
  | .fwd ch _ _ _ _ => some (BitVec.ofNat 4 (4 + ch.val))
  | .remote .. => some 6
  | .seq h k => some (seqSrc h k)
  | .feed .. | .drain _ | .logger | .save | .dump _ | .grp .. | .range _ | .bellows => none

/-- The violation entry of a refused request (R76, R453); `opc` as the beat held it. -/
def vioRequest (src : BitVec 4) (c : Code) (opc : BitVec 6) (r : Req) : VioEntry :=
  ⟨true, c.bits, src, opc, r.inst, r.label, r.addr, r.optag⟩

/-- ERR_DECODE and ERR_PERM are access violations (R76). -/
def isViolation (c : Code) : Bool := c == .errDecode || c == .errPerm

/-- The violation entry of a refusal. A unit without a SRC of its own leaves that field open (log 8). -/
def logRefusal (src : Option (BitVec 4)) (c : Code) (opc : BitVec 6) (r : Req) (m : Mach) : Mach :=
  if !isViolation c then m
  else match src with
    | some s => logVio (vioRequest s c opc r) m
    | none => logVio (vioRequest ((Config.freeWord m.freeCtr).setWidth 4) c opc r) (spend m)

/-- A request is refused at its home or counter unit (R566): logged where it is an access violation, and completed. -/
def refuse (r : Req) (c : Code) (m : Mach) : Mach :=
  complete r c 0 (logRefusal (vioSrc r.origin) c (opcBits r.op) r m)

/-- Refuse a list of requests with one code. -/
def refuseAll (rs : List Req) (c : Code) (m : Mach) : Mach := rs.foldl (fun m r => refuse r c m) m

/-- A request completes with ERR_DATA and an entry of the given cause (R76, R450). -/
def failData (h : Half) (cause : BitVec 4) (r : Req) (m : Mach) : Mach :=
  complete r .errData 0 (logLoss (lossLine cause h (lineOf r.addr)) m)

end Sys2Proof.Machine
end

