-- ==== Sys2Proof/Machine/Directory.lean ====
section
/-!
DEFINITION. The directory store (R195 to R197, R215), holders and the snoops to them (R202 to R204), the conflict tracker
(R201), and the remote transactions (R101).
-/

namespace Sys2Proof.Machine

/-! ## The directory store -/

/-- Directory set of a line (R195). -/
def dirSet (l : LineAddr) : Nat :=
  (l.extractLsb' 0 12 ^^^ l.extractLsb' 12 12 ^^^ l.extractLsb' 24 12 ^^^ (l.extractLsb' 36 8).setWidth 12).toNat

/-- Directory tag of a line (R195). -/
def dirTag (l : LineAddr) : BitVec 32 := l.extractLsb' 12 32

/-- The line of an entry: R195 inverted. -/
def dirLine (set : Nat) (tag : BitVec 32) : LineAddr :=
  let low : BitVec 12 := BitVec.ofNat 12 set ^^^ tag.extractLsb' 0 12 ^^^ tag.extractLsb' 12 12 ^^^ (tag.extractLsb' 24 8).setWidth 12
  (tag.setWidth 44 <<< 12) ||| low.setWidth 44

/-- An entry exists: it names a holder or a permission (R197). -/
def dirLive (e : DirEntry) : Bool := e.agents != 0 || e.chips != 0 || e.xp != 0

/-- The entry at a set and way. -/
def dirSlot (hs : HalfSt) (set way : Nat) : DirEntry := tabGet DirEntry.free hs.dir (set * Config.dirWays + way)

/-- The way that holds a line's entry. -/
def dirWay (hs : HalfSt) (l : LineAddr) : Option Nat :=
  (List.range Config.dirWays).find? fun w =>
    let e := dirSlot hs (dirSet l) w
    dirLive e && e.tag == dirTag l

/-- The entry of a line; a line without one is in state I. -/
def dirOf (hs : HalfSt) (l : LineAddr) : DirEntry :=
  match dirWay hs l with
  | some w => dirSlot hs (dirSet l) w
  | none => DirEntry.free

/-- Table 6.1. A free entry reads zero. -/
def dirWord (e : DirEntry) : BitVec 256 :=
  if !dirLive e then 0
  else
    e.agents.setWidth 256 ||| (e.chips.setWidth 256 <<< 64) ||| (e.tag.setWidth 256 <<< 96) ||| (e.state.setWidth 256 <<< 128)
      ||| (e.owner.setWidth 256 <<< 131) ||| (e.ochip.setWidth 256 <<< 137) ||| (e.age.setWidth 256 <<< 142)
      ||| flagAt 256 e.rem 144 ||| (e.xp.setWidth 256 <<< 145)

/-- The entry that a code word reads as; one that names nothing is free. -/
def dirOfWord (w : BitVec 256) : DirEntry :=
  let e : DirEntry := ⟨w.extractLsb' 145 2, bitAt w 144, w.extractLsb' 142 2, w.extractLsb' 137 5, w.extractLsb' 131 6, w.extractLsb' 128 3,
    w.extractLsb' 96 32, w.extractLsb' 64 32, w.extractLsb' 0 64⟩
  if dirLive e then e else DirEntry.free

/-- Every holder of an entry. -/
def holdersOf (e : DirEntry) : List Holder :=
  ((List.range 64).filter fun i => e.agents.getLsbD i).map (fun i => Holder.agent (BitVec.ofNat 6 i))
    ++ ((List.range 32).filter fun i => e.chips.getLsbD i).map fun i => Holder.chip (BitVec.ofNat 5 i)

def agentBit (i : BitVec 6) : BitVec 64 := 1#64 <<< i.toNat
def chipBit (c : BitVec 5) : BitVec 32 := 1#32 <<< c.toNat

/-- The bit of a holder is set in an entry. -/
def holds (e : DirEntry) (x : Holder) : Bool :=
  match x with
  | .agent i => e.agents.getLsbD i.toNat
  | .chip c => e.chips.getLsbD c.toNat

/-- STATE values (R196). -/
def stS : BitVec 3 := 1
def stU : BitVec 3 := 2
def stX : BitVec 3 := 3

/-- The state an entry's holders leave it in: I or local-only 0b000 without holders, else the state it has (R197). -/
def settleState (e : DirEntry) : DirEntry :=
  if e.agents == 0 && e.chips == 0 then { e with state := 0, owner := 0, ochip := 0 }
  else if e.state == 0 then { e with state := stS }
  else e

/-- A holder leaves an entry; the bit of OWNER clears OWNER with it, and what remains is shared (R197). -/
def dropHolder (x : Holder) (e : DirEntry) : DirEntry :=
  match x with
  | .agent i =>
    let e' := { e with agents := e.agents &&& ~~~agentBit i }
    settleState (if e.state == stU && e.owner == i then { e' with owner := 0, state := stS } else e')
  | .chip c =>
    let e' := { e with chips := e.chips &&& ~~~chipBit c }
    settleState (if e.state == stX && e.ochip == c then { e' with ochip := 0, state := stS } else e')

/-- A write of a code word clears its stored error and takes an armed injection of its array (R464). -/
def noteWrite (g : Regs) (a : Arr) (h : Half) (i : Nat) (m : Mach) : Mach :=
  let hit := m.ras.armed && (arrNumber a == some g.injArray.toNat) &&
    (g.injHalf == (h == 1))
  let fresh := fun (m : Mach) => modHalf h (fun hs => { hs with wback := hs.wback.filter fun x => x != (a, i) }) m
  if hit then
    let mask : CodeWord := (1#266 <<< g.injPosA.toNat) ^^^ (if g.injTwo then 1#266 <<< g.injPosB.toNat else 0)
    fresh (setErr a h i mask { m with ras := { m.ras with armed := false } })
  else if m.ras.errs.isEmpty then m
  else fresh (setErr a h i 0 m)

/-- Write an entry at a set and way; an entry that names nothing is freed (R197). -/
def putDir (g : Regs) (h : Half) (set way : Nat) (e : DirEntry) (m : Mach) : Mach :=
  let e := if dirLive e then e else DirEntry.free
  noteWrite g .dir h (set * Config.dirWays + way)
    (modHalf h (fun hs => { hs with dir := tabSet DirEntry.free hs.dir (set * Config.dirWays + way) e }) m)

/-- A free way of the line's directory set, the lowest (log 21). -/
def dirFreeWay (hs : HalfSt) (l : LineAddr) : Option Nat :=
  (List.range Config.dirWays).find? fun w => !dirLive (dirSlot hs (dirSet l) w)

/-- Change the entry of a line that no request uses: its AGE stays (R215). -/
def keepDir (g : Regs) (h : Half) (l : LineAddr) (f : DirEntry → DirEntry) (m : Mach) : Mach :=
  match dirWay (halfAt m h) l with
  | some w => putDir g h (dirSet l) w (f (dirSlot (halfAt m h) (dirSet l) w)) m
  | none => m

/-- Write the entry of a line for a request that uses it: in its way with AGE 0, or in a free way of its set, new with AGE 1 (R215). The order
point has made room before (R216). -/
def setDir (g : Regs) (h : Half) (l : LineAddr) (rem : Bool) (e : DirEntry) (m : Mach) : Mach :=
  match dirWay (halfAt m h) l with
  | some w => putDir g h (dirSet l) w { e with tag := dirTag l, rem := rem, age := 0 } m
  | none =>
    if !dirLive e then m
    else match dirFreeWay (halfAt m h) l with
      | some w => putDir g h (dirSet l) w { e with tag := dirTag l, rem := rem, age := 1 } m
      | none => m

/-- Dead indices and departed packages leave an entry at the order point and in the walk (R219 to R221). -/
def cleanEntry (dead : BitVec 64) (gone : BitVec 32) (e : DirEntry) : DirEntry :=
  let e1 := { e with agents := e.agents &&& ~~~dead, chips := e.chips &&& ~~~gone }
  let e2 := if e.state == stU && dead.getLsbD e.owner.toNat then { e1 with owner := 0, state := stS } else e1
  let e3 := if e.state == stX && gone.getLsbD e.ochip.toNat then { e2 with ochip := 0, state := stS } else e2
  settleState e3

/-! ## Conflict tracker and hold windows -/

def confOf (hs : HalfSt) (l : LineAddr) : Option Conf := hs.conf.find? fun c => c.line == l

/-- Replace the conflict entry of a line, or remove it. -/
def setConf (h : Half) (l : LineAddr) (c : Option Conf) (m : Mach) : Mach :=
  modHalf h (fun hs => { hs with conf :=
    match c with
    | some x => if hs.conf.any (fun y => y.line == l) then hs.conf.map (fun y => if y.line == l then x else y) else hs.conf ++ [x]
    | none => hs.conf.filter fun y => y.line != l }) m

def winOf (hs : HalfSt) (l : LineAddr) : Option Win := hs.wins.find? fun w => w.line == l

/-- Start, or start again, the hold window of a winner (R203, R204). What it already delays stays delayed. -/
def startWindow (h : Half) (l : LineAddr) (x : Holder) (m : Mach) : Mach :=
  modHalf h (fun hs =>
    match hs.wins.find? fun w => w.line == l && w.holder == x with
    | some _ => hs
    | none => { hs with wins := hs.wins ++ [⟨l, x, [], []⟩] }) m

/-- A conflict entry with nothing gathered yet. -/
def newConf (l : LineAddr) (why : ConfWhy) (r : Option Req) (pend : List Holder) : Conf :=
  ⟨l, why, r, pend, false, none, none⟩

/-! ## Remote transactions -/

/-- The message of a remote transaction (R93). -/
def remMsg (chip : BitVec 5) (rtag : BitVec 9) (why : RemWhy) : Msg :=
  match why with
  | .fill _ l k => .xreq chip l k rtag
  | .wb _ l _ ds d => .xwb chip l rtag ds d
  | .snp _ l inv => .xsnp chip l rtag inv

/-- Start a remote transaction, or let it wait while 512 are outstanding (R101). -/
def startRemote (chip : BitVec 5) (why : RemWhy) (m : Mach) : Mach :=
  if m.coh.remOut.length < Config.remoteOut then
    let tag := BitVec.ofNat 9 (pickId m.freeCtr 512 fun i => m.coh.remOut.any fun x => x.rtag.toNat == i)
    sendMsg 2 (remMsg chip tag why) (spend { m with coh := { m.coh with remOut := m.coh.remOut ++ [⟨tag, chip, why⟩] } })
  else { m with coh := { m.coh with remWait := m.coh.remWait ++ [(chip, why)] } }

/-- A tag is free: the oldest waiting remote transaction starts (R101). -/
def nextRemote (m : Mach) : Mach :=
  match m.coh.remWait with
  | [] => m
  | (chip, why) :: rest => startRemote chip why { m with coh := { m.coh with remWait := rest } }

/-- A remote transaction has its answer. -/
def endRemote (rtag : BitVec 9) (m : Mach) : Mach :=
  nextRemote { m with coh := { m.coh with remOut := m.coh.remOut.filter fun x => x.rtag != rtag } }

/-- A package is joined on the remote port. -/
def chipJoined (m : Mach) (c : BitVec 5) : Bool := partJoined m 2 c

/-! ## Snoops to holders -/

/-- A snoop of the half is sent for the request that its line's conflict entry names (Table 17.2). -/
def profSnoop (g : Regs) (h : Half) (l : LineAddr) (m : Mach) : Mach :=
  let w := match confOf (halfAt m h) l with
    | some c => match c.req with | some r => (r.label, r.optag) | none => (0, 0)
    | none => (0, 0)
  profile g h 0x07 (some w) 1 m

/-- The agent of an index can be reached by a snoop. -/
def reachable (g : Regs) (m : Mach) (h : Half) (idx : BitVec 6) : Bool :=
  match granter m idx with
  | none => false
  | some sl => if sl == ownSlice m then (match portOfIdx m idx with | some p => answers g m p | none => false) else partJoined m (peerLink h) sl

/-- Present a snoop to an agent that no hold window protects. -/
def snoopNow (g : Regs) (h : Half) (kind : SnpKind) (l : LineAddr) (idx : BitVec 6) (data : Line) (inst : BitVec 6) (gen : BitVec 4)
    (m : Mach) : Mach :=
  if m.coh.dead.getLsbD idx.toNat then answerSnoop ⟨kind, l, idx, .home h, data, inst, gen⟩ false m
  else snoopAgent g h kind l idx data inst gen (if reachable g m h idx then profSnoop g h l m else m)

/-- Send an XSNP; a package that is not joined is answered for as without a line (R217). -/
def xsnoopNow (g : Regs) (h : Half) (l : LineAddr) (c : BitVec 5) (inv : Bool) (m : Mach) : Mach :=
  if chipJoined m c then startRemote c (.snp h l inv) (profSnoop g h l m)
  else { m with answers := m.answers ++ [⟨h, l, .chip c, false⟩] }

/-- A snoop to a holder: delayed while it is the winner of a hold window (R204), else presented. The delay holds also where the winner's own
ADDL or atomic needs the INV (DESIGN CHOICE, log 124). -/
def snoopHolder (g : Regs) (h : Half) (l : LineAddr) (kind : SnpKind) (data : Line) (inst : BitVec 6) (gen : BitVec 4)
    (x : Holder) (m : Mach) : Mach :=
  let inWindow := (halfAt m h).wins.any fun w => w.line == l && w.holder == x
  match x with
  | .agent i =>
    if inWindow && kind != .place then
      modHalf h (fun hs => { hs with wins := hs.wins.map fun w =>
        if w.line == l && w.holder == x then { w with delayed := w.delayed ++ [⟨kind, l, i, .home h, data, inst, gen⟩] } else w }) m
    else snoopNow g h kind l i data inst gen m
  | .chip c =>
    if inWindow then
      modHalf h (fun hs => { hs with wins := hs.wins.map fun w =>
        if w.line == l && w.holder == x then { w with xdelay := w.xdelay ++ [(c, kind == .inv)] } else w }) m
    else xsnoopNow g h l c (kind == .inv) m

/-- Snoop every holder of a list. -/
def snoopAll (g : Regs) (h : Half) (l : LineAddr) (kind : SnpKind) (xs : List Holder) (m : Mach) : Mach :=
  xs.foldl (fun m x => snoopHolder g h l kind 0 0 0 x m) m

end Sys2Proof.Machine
end

