-- ==== Sys2Proof/Machine/Encode.lean ====
section
/-!
DEFINITION. Sector encodings and the stored image of a frame (R131 to R136). A frame of the state keeps its lines decoded,
each with its descriptors; the stored bytes of Table 4.2 and the slots of R136 are functions of the two.
-/

namespace Sys2Proof.Machine

/-- Element i of a sector, `w` bits wide. -/
def elemAt (w : Nat) (x : Sector) (i : Nat) : BitVec w := x.extractLsb' (w * i) w

/-- SZ of a descriptor, and the size in 16-byte slots (R131, R136). -/
def descSz (d : BitVec 4) : Nat := (d.extractLsb' 2 2).toNat
def descEnc (d : BitVec 4) : Nat := (d.extractLsb' 0 2).toNat
def descSlots (d : BitVec 4) : Nat := descSz d + 1

/-- A descriptor from SZ and ENC. -/
def mkDesc (sz enc : Nat) : BitVec 4 := BitVec.ofNat 4 (4 * sz + enc)

/-- The descriptor of a raw sector. -/
def rawDesc : BitVec 4 := 0xC

/-! ## DELTA -/

/-- Delta width, Table 4.3: at SZ 0, 1, 2 for 32-bit and 16-bit elements. -/
def deltaWidth (wide : Bool) (sz : Nat) : Nat :=
  match wide, sz with
  | true, 0 => 5 | true, 1 => 14 | true, _ => 22
  | false, 0 => 3 | false, 1 => 7 | false, _ => 11

/-- Element width and count of DELTA by ELEM (R132). -/
def deltaElem (wide : Bool) : Nat := if wide then 32 else 16
def deltaCount (wide : Bool) : Nat := if wide then 16 else 32

/-- A sector fits DELTA at a size (R133). -/
def fitsDelta (wide : Bool) (sz : Nat) (x : Sector) : Bool :=
  let m := deltaElem wide
  let lim : Int := 2 ^ (deltaWidth wide sz - 1)
  (List.range (deltaCount wide)).all fun i =>
    let d := (elemAt m x i - elemAt m x 0).toInt
    decide (-lim ≤ d) && decide (d < lim)

/-- The stored bytes of a DELTA sector (R132). -/
def storeDelta (wide : Bool) (sz : Nat) (x : Sector) : Sector :=
  let m := deltaElem wide
  let w := deltaWidth wide sz
  let head : Sector := (if wide then 1 else 0) ||| ((elemAt m x 0).setWidth 512 <<< 8)
  (List.range (deltaCount wide - 1)).foldl (fun a i =>
    a ||| ((((elemAt m x (i + 1) - elemAt m x 0).setWidth w).setWidth 512) <<< (8 + m + w * i))) head

/-- The sector that DELTA bytes stand for (R132, R133). -/
def loadDelta (sz : Nat) (b : Sector) : Sector :=
  let wide := bitAt b 0
  let m := deltaElem wide
  let w := deltaWidth wide sz
  let base : BitVec m := b.extractLsb' 8 m
  (List.range (deltaCount wide)).foldl (fun a i =>
    let d : BitVec m := if i == 0 then 0 else (b.extractLsb' (8 + m + w * (i - 1)) w).signExtend m
    a ||| ((base + d).setWidth 512 <<< (m * i))) 0

/-! ## BEXP -/

/-- Exponent and fraction width of the element layout T (R134). -/
def bexpE (t : Bool) : Nat := if t then 5 else 8
def bexpM (t : Bool) : Nat := if t then 10 else 7

def bexpExp (t : Bool) (e : BitVec 16) : Nat := e.toNat / 2 ^ bexpM t % 2 ^ bexpE t
def bexpFrac (t : Bool) (e : BitVec 16) : Nat := e.toNat % 2 ^ bexpM t

/-- The thirty-two elements of a sector. -/
def elems16 (x : Sector) : List (BitVec 16) := (List.range 32).map (elemAt 16 x)

/-- E0: the smallest exponent field (R134). -/
def bexpE0 (t : Bool) (x : Sector) : Nat := (elems16 x).foldl (fun a e => min a (bexpExp t e)) 255

/-- K: the smallest width that holds every offset. -/
def bexpK (t : Bool) (x : Sector) : Nat :=
  let e0 := bexpE0 t x
  let top := (elems16 x).foldl (fun a e => max a (bexpExp t e - e0)) 0
  ((List.range 9).find? fun k => decide (top < 2 ^ k)).getD 9

/-- F: the smallest count of top fraction bits that keeps every nonzero fraction bit. -/
def bexpF (t : Bool) (x : Sector) : Nat :=
  let any := (elems16 x).foldl (fun a e => a ||| bexpFrac t e) 0
  ((List.range (bexpM t + 1)).find? fun f => any % 2 ^ (bexpM t - f) == 0).getD (bexpM t)

/-- The largest 1 + K + F at a size, R134. -/
def bexpWidth (sz : Nat) : Nat := match sz with | 0 => 3 | 1 => 7 | _ => 11

/-- A sector fits BEXP with T at a size (R134); K is at most 7 for T = 0 and 5 for T = 1. -/
def fitsBexp (t : Bool) (sz : Nat) (x : Sector) : Bool :=
  decide (bexpK t x ≤ (if t then 5 else 7)) && decide (1 + bexpK t x + bexpF t x ≤ bexpWidth sz)

/-- The stored bytes of a BEXP sector (R134). -/
def storeBexp (t : Bool) (x : Sector) : Sector :=
  let k := bexpK t x
  let f := bexpF t x
  let e0 := bexpE0 t x
  let head := BitVec.ofNat 512 (e0 * 256 + f * 16 + k * 2 + (if t then 1 else 0))
  (List.range 32).foldl (fun a j =>
    let e := elemAt 16 x j
    let rec_ := (if e.getLsbD 15 then 2 ^ (k + f) else 0) + (bexpExp t e - e0) * 2 ^ f + bexpFrac t e / 2 ^ (bexpM t - f)
    a ||| (BitVec.ofNat 512 rec_ <<< (16 + (1 + k + f) * j))) head

/-- The sector that BEXP bytes stand for (R134). -/
def loadBexp (b : Sector) : Sector :=
  let h := (b.extractLsb' 0 16).toNat
  let t := h % 2 == 1
  let k := h / 2 % 8
  let f := h / 16 % 16
  let e0 := h / 256
  (List.range 32).foldl (fun a j =>
    let r := (b.extractLsb' (16 + (1 + k + f) * j) (1 + k + f)).toNat
    let e := (e0 + r / 2 ^ f % 2 ^ k) % 2 ^ bexpE t
    let v := (r / 2 ^ (k + f) % 2) * 2 ^ 15 + e * 2 ^ bexpM t + (r % 2 ^ f) * 2 ^ (bexpM t - f)
    a ||| (BitVec.ofNat 512 v <<< (16 * j))) 0

/-! ## The choice of R135 -/

/-- All sixteen words are equal. -/
def allWordsEqual (x : Sector) : Bool := (List.range 16).all fun i => elemAt 32 x i == elemAt 32 x 0

/-- The first of the four fits of one size, with the encodings that are enabled (R135). -/
def fitAt (g : HcRegs) (x : Sector) (sz : Nat) : Option (BitVec 4) :=
  if g.delta && fitsDelta true sz x then some (mkDesc sz 2)
  else if g.delta && fitsDelta false sz x then some (mkDesc sz 2)
  else if g.bexp && fitsBexp false sz x then some (mkDesc sz 3)
  else if g.bexp && fitsBexp true sz x then some (mkDesc sz 3)
  else none

/-- The descriptor the slice gives a sector (R135, R158). Off, or in Hearth and reservation ways (R137), every sector is raw. -/
def chooseDesc (g : HcRegs) (raw : Bool) (x : Sector) : BitVec 4 :=
  if raw || g.cmode == 0 then rawDesc
  else if g.zero && x == 0 then mkDesc 0 0
  else if g.rep && allWordsEqual x then mkDesc 0 1
  else match fitAt g x 0 with
    | some d => d
    | none => match fitAt g x 1 with
      | some d => d
      | none => (fitAt g x 2).getD rawDesc

/-- The bytes a sector is stored as under a descriptor (Table 4.2): the layout with the wider elements, and T = 0, first. -/
def storeSector (d : BitVec 4) (x : Sector) : Sector :=
  let sz := descSz d
  if sz == 3 then x
  else match descEnc d with
    | 0 => 0
    | 1 => x &&& 0xFFFFFFFF
    | 2 => storeDelta (fitsDelta true sz x) sz x
    | _ => storeBexp (!fitsBexp false sz x) x

/-- The sector that stored bytes stand for (Table 4.2). -/
def loadSector (d : BitVec 4) (b : Sector) : Sector :=
  let sz := descSz d
  if sz == 3 then b
  else match descEnc d with
    | 0 => 0
    | 1 => (List.range 16).foldl (fun a i => a ||| ((b &&& 0xFFFFFFFF) <<< (32 * i))) 0
    | 2 => loadDelta sz b
    | _ => loadBexp b

/-! ## Frames -/

/-- The descriptor of sector s of a line. -/
def lineDesc (l : LineSt) (s : Nat) : BitVec 4 := l.desc.extractLsb' (4 * s) 4

/-- The four descriptors of a line as one field. -/
def descField (f : Nat → BitVec 4) : BitVec 16 :=
  (List.range 4).foldl (fun a s => a ||| ((f s).setWidth 16 <<< (4 * s))) 0

/-- Stored size of a line in slots (R136). -/
def lineSlots (l : LineSt) : Nat := (List.range 4).foldl (fun n s => n + descSlots (lineDesc l s)) 0

/-- Slots in use in a packed frame. -/
def usedSlots (f : Frame) : Nat :=
  (List.range 4).foldl (fun n i => if h : i < 4 then (if f.lines[i].pres then n + lineSlots f.lines[i] else n) else n) 0

/-- The sectors of a frame in the order of storage: line, sector, first byte, bytes (R136). A single-line frame keeps each
sector in its 64-byte place. -/
def sectorPlaces (f : Frame) : List (Nat × Nat × Nat × Nat) :=
  let idx := (List.range 4).flatMap fun i => (List.range 4).map fun s => (i, s)
  ((idx.filter fun p => if h : p.1 < 4 then f.lines[p.1].pres else false).foldl
    (fun (acc : List (Nat × Nat × Nat × Nat) × Nat) p =>
      if h : p.1 < 4 then
        let n := 16 * descSlots (lineDesc f.lines[p.1] p.2)
        if f.packed then (acc.1 ++ [(p.1, p.2, acc.2, n)], acc.2 + n)
        else (acc.1 ++ [(p.1, p.2, 64 * p.2, n)], acc.2)
      else acc) ([], 0)).1

/-- The 256 bytes a frame is stored as (R136). -/
def frameImage (f : Frame) : Line :=
  (sectorPlaces f).foldl (fun a p =>
    if h : p.1 < 4 then
      let l := f.lines[p.1]
      a ||| ((storeSector (lineDesc l p.2.1) (l.data.extractLsb' (512 * p.2.1) 512)).setWidth 2048 <<< (8 * p.2.2.1))
    else a) 0

/-- The data of a frame's lines read back from an image, by the frame's descriptors (R136, R568). -/
def readImage (f : Frame) (img : Line) : Frame :=
  (sectorPlaces f).foldl (fun a p =>
    if h : p.1 < 4 then
      let l := a.lines[p.1]
      let d := lineDesc l p.2.1
      let b : Sector := (img.extractLsb' (8 * p.2.2.1) 512) &&& (BitVec.ofNat 512 (2 ^ (8 * p.2.2.2) - 1))
      let s := loadSector d b
      let data := (l.data &&& ~~~((BitVec.allOnes 512).setWidth 2048 <<< (512 * p.2.1))) ||| (s.setWidth 2048 <<< (512 * p.2.1))
      { a with lines := a.lines.set p.1 { l with data := data } }
    else a) f

/-- The lines of a frame that have a byte in code word k, bytes 32k to 32k + 31 (R442). -/
def linesInWord (f : Frame) (k : Nat) : List Nat :=
  ((sectorPlaces f).filter fun p => decide (p.2.2.1 < 32 * (k + 1)) && decide (32 * k < p.2.2.1 + p.2.2.2)).map (·.1)
    |>.eraseDups

/-- DESC, LOST, DIRTY and PRES of a frame as Table 4.1 lays them out (R129). -/
def tagEntry (f : Frame) : BitVec 128 :=
  let per := fun (w : Nat) (g : LineSt → BitVec w) (base step : Nat) =>
    (List.range 4).foldl (fun (a : BitVec 128) i =>
      if h : i < 4 then a ||| ((g f.lines[i]).setWidth 128 <<< (base + step * i)) else a) 0
  per 16 (fun l => if l.pres then l.desc else 0) 57 16
    ||| per 1 (fun l => if l.lost then 1 else 0) 53 1
    ||| flagAt 128 f.hold 52
    ||| (f.age.setWidth 128 <<< 50)
    ||| per 4 (fun l => if l.pres then l.dirty else 0) 34 4
    ||| per 1 (fun l => if l.pres then 1 else 0) 30 1
    ||| flagAt 128 f.packed 29
    ||| f.tag.setWidth 128

/-- A frame whose tag entry reads as given: its stored bytes stay and are read by the descriptors of that entry (R129, R568). -/
def frameOfTag (x : BitVec 128) (f : Frame) : Frame :=
  let line := fun (i : Fin 4) => { f.lines[i] with
    pres := bitAt x (30 + i.val), lost := bitAt x (53 + i.val), dirty := x.extractLsb' (34 + 4 * i.val) 4, desc := x.extractLsb' (57 + 16 * i.val) 16 }
  readImage { f with
    tag := x.extractLsb' 0 29, packed := bitAt x 29, age := x.extractLsb' 50 2, hold := bitAt x 52, lines := Vector.ofFn line } (frameImage f)

/-- Flips of a tag entry that a read did not see or corrected wrongly. -/
def flipTag (x : BitVec 128) (f : Frame) : Frame := if x == 0 then f else frameOfTag (tagEntry f ^^^ x) f

end Sys2Proof.Machine
end

