-- ==== Sys2Proof/Machine/Cache.lean ====
section
/-!
DEFINITION. Frames, the victim buffer, the merge buffer and the install stage of a half (chapters 04, 05 and 14): lookup,
reads of code words with their errors, eviction and writeback, drains, packing, moves and installs.
-/

namespace Sys2Proof.Machine

/-! ## Geometry (R127) -/

/-- Granule of a line. -/
def granule (l : LineAddr) : BitVec 42 := l.extractLsb' 2 42

/-- Set of a line (R127). -/
def setIx (l : LineAddr) : BitVec 13 :=
  let g := granule l
  g.extractLsb' 0 13 ^^^ g.extractLsb' 13 13 ^^^ g.extractLsb' 26 13 ^^^ (g.extractLsb' 39 3).setWidth 13

/-- Tag of a line (R127). -/
def tagIx (l : LineAddr) : BitVec 29 := (granule l).extractLsb' 13 29

/-- Place of a line in its block. -/
def lineIx (l : LineAddr) : Fin 4 := ⟨l.toNat % 4, Nat.mod_lt _ (by decide)⟩

/-- The line of a set, tag and place: R127 inverted. -/
def lineAt (set : BitVec 13) (tag : BitVec 29) (i : Nat) : LineAddr :=
  let low : BitVec 13 := set ^^^ tag.extractLsb' 0 13 ^^^ tag.extractLsb' 13 13 ^^^ (tag.extractLsb' 26 3).setWidth 13
  (tag.setWidth 44 <<< 15) ||| (low.setWidth 44 <<< 2) ||| BitVec.ofNat 44 i

/-- The places of a frame's lines. -/
def fourLines : List (Fin 4) := [0, 1, 2, 3]

/-- Use code of a way (R163): 0 cache, 1 Hearth, 2 reservation. -/
def wayUse (g : Regs) (h : Half) (w : Nat) : Nat := ((g.hc[h].wuse >>> (2 * w)) &&& 3).toNat

/-- Service class of a label at this slice (R411). -/
def classOf (g : Regs) (l : BitVec 12) : BitVec 4 := (labelCtx g l).cls

/-- The enabled Hearth region that holds an address (R170). -/
def regionOf (g : Regs) (a : Addr) : Option (Fin 16) :=
  (List.finRange 16).find? fun k =>
    let r := g.hr[k]
    let mib := a.toNat / 2 ^ 20
    r.en && decide (r.base.toNat ≤ mib) && decide (mib < r.base.toNat + r.size.toNat)

/-- A group of the half covers the line (R336). -/
def groupCovers (x : Group) (l : LineAddr) : Bool :=
  let b := x.base.toNat / 256
  decide (b ≤ l.toNat) && decide (l.toNat ≤ b + x.lm1.toNat)

/-- The line belongs to an open reduction group of the half. -/
def inGroup (hs : HalfSt) (l : LineAddr) : Bool :=
  hs.groups.any fun x => match x.2 with | some gr => groupCovers gr l | none => false

/-! ## Lookup (R128, R150, R184) -/

/-- Where a line is. -/
inductive Loc where
  | frame (way : Nat)
  | vb (slot : Nat)
  deriving DecidableEq, Repr

def frameAt (hs : HalfSt) (set : BitVec 13) (w : Nat) : Frame := tabGet Frame.free hs.frames (set.toNat * Config.ways + w)

/-- A frame holds a line. -/
def frameHas (f : Frame) (l : LineAddr) : Bool := f.tag == tagIx l && f.lines[lineIx l].pres

/-- The frame or victim entry that holds a line, whatever CEN says. -/
def locate (hs : HalfSt) (l : LineAddr) : Option Loc :=
  match (List.range Config.ways).find? fun w => frameHas (frameAt hs (setIx l) w) l with
  | some w => some (.frame w)
  | none => (hs.vb.find? fun e => e.set == setIx l && frameHas e.frame l).map fun e => .vb e.slot

/-- Lookup of a request (R150). While CEN is 0 the cache ways and their victims are not looked up (R184). -/
def lookup (g : Regs) (m : Mach) (h : Half) (l : LineAddr) : Option Loc :=
  match locate (halfAt m h) l with
  | some (.frame w) => if g.hc[h].cen || wayUse g h w != 0 then some (.frame w) else none
  | some (.vb s) => if g.hc[h].cen then some (.vb s) else none
  | none => none

/-- The frame at a place. -/
def frameOf (hs : HalfSt) (l : LineAddr) (p : Loc) : Frame :=
  match p with
  | .frame w => frameAt hs (setIx l) w
  | .vb s => match hs.vb.find? fun e => e.slot == s with | some e => e.frame | none => Frame.free

/-- The line's part of the frame at a place. -/
def lineOfLoc (hs : HalfSt) (l : LineAddr) (p : Loc) : LineSt := (frameOf hs l p).lines[lineIx l]

/-! ## Code words (R438, R458, R464) -/

/-- The remap entry that diverts a frame to its spare row (R458). -/
def remapOf (hs : HalfSt) (set way : Nat) : Option Nat :=
  (hs.remap.find? fun e => e.2.v && e.2.way.toNat == way && e.2.set.toNat == set).map (·.1)

/-- The number of code word k of a frame: of its own row, or of its spare row. -/
def frameWord (hs : HalfSt) (set w k : Nat) : Nat :=
  match remapOf hs set w with
  | some e => Config.sets * Config.ways * 8 + 8 * e + k
  | none => (set * Config.ways + w) * 8 + k

/-- The number of code word k of the data at a place: a frame, or the victim buffer. -/
def dataWord (hs : HalfSt) (l : LineAddr) (p : Loc) (k : Nat) : Arr × Nat :=
  match p with
  | .frame w => (.frames, frameWord hs (setIx l).toNat w k)
  | .vb s => (.victim, 8 * s + k)

/-- The number of the tag code word of a place: two ways of a set, or one victim entry (R129, R440). -/
def tagWord (l : LineAddr) (p : Loc) : Arr × Nat :=
  match p with
  | .frame w => (.tags, (setIx l).toNat * 12 + w / 2)
  | .vb s => (.victim, 512 + s)

/-- Every code word of a frame. -/
def allWords : List Nat := [0, 1, 2, 3, 4, 5, 6, 7]

/-- Store a frame at a place with its tag entry; `ks` are the code words of its data that are written. -/
def putFrame (g : Regs) (h : Half) (l : LineAddr) (p : Loc) (f : Frame) (ks : List Nat) (m : Mach) : Mach :=
  let m := modHalf h (fun hs =>
    match p with
    | .frame w => { hs with frames := tabSet Frame.free hs.frames ((setIx l).toNat * Config.ways + w) f }
    | .vb s => { hs with vb := hs.vb.map fun e => if e.slot == s then { e with frame := f } else e }) m
  let t := tagWord l p
  ks.foldl (fun m k => let d := dataWord (halfAt m h) l p k; noteWrite g d.1 h d.2 m) (noteWrite g t.1 h t.2 m)

/-- Change the line's part of the frame that holds it. -/
def modLineSt (g : Regs) (h : Half) (l : LineAddr) (p : Loc) (ks : List Nat) (f : LineSt → LineSt) (m : Mach) : Mach :=
  let fr := frameOf (halfAt m h) l p
  putFrame g h l p { fr with lines := fr.lines.set (lineIx l).val (f fr.lines[lineIx l]) (lineIx l).isLt } ks m

/-- What is left of a frame that has lost lines: a frame with one line is single, with none it is free (R130, R139). -/
def tidyFrame (f : Frame) : Frame :=
  let n := (fourLines.filter fun i => f.lines[i].pres).length
  if n == 0 then Frame.free else { f with packed := decide (n ≥ 2) && f.packed }

/-- The code words that hold the given sectors of a line (R142). -/
def wordsOf (f : Frame) (i : Nat) (secs : BitVec 4) : List Nat :=
  let ps := (sectorPlaces f).filter fun p => p.1 == i && secs.getLsbD p.2.1
  allWords.filter fun k => ps.any fun p => decide (p.2.2.1 < 32 * (k + 1)) && decide (32 * k < p.2.2.1 + p.2.2.2)

/-- A detection is counted in RAS_ECNTn (R441). -/
def countCe (g : Regs) (h : Half) (m : Mach) : Mach := profile g h 0x13 none 1 (modHalf h (fun hs => { hs with ceCnt := hs.ceCnt + 1 }) m)
def countUe (h : Half) (m : Mach) : Mach := modHalf h (fun hs => { hs with ueCnt := hs.ueCnt + 1 }) m

/-- Read one code word (R439, R441): true when it is uncorrectable. A corrected word waits for its write-back. Flips that the
code does not see or corrects wrongly enter the data (R568). -/
def readWord (g : Regs) (h : Half) (a : Arr) (i : Nat) (m : Mach) : Bool × BitVec 256 × Mach :=
  match eccRead (errMask m a h i) with
  | .clean left => (false, left, if left == 0 then m else setErr a h i 0 m)
  | .corrected left =>
    let m := countCe g h (setErr a h i (errMask m a h i ^^^ eccEncode left) m)
    (false, left, modHalf h (fun hs => { hs with wback := if hs.wback.contains (a, i) then hs.wback else hs.wback ++ [(a, i)] }) m)
  | .bad => (true, 0, countUe h m)

/-- Read a code word whose flips stay with the stored word (R439, R441): those that the read lets pass are part of every value read from it
(R568), and the write-back leaves them in the word. -/
def peekWord (g : Regs) (h : Half) (a : Arr) (i : Nat) (m : Mach) : Bool × Mach :=
  match eccRead (errMask m a h i) with
  | .clean _ => (false, m)
  | .corrected _ =>
    (false, modHalf h (fun hs => { hs with wback := if hs.wback.contains (a, i) then hs.wback else hs.wback ++ [(a, i)] }) (countCe g h m))
  | .bad => (true, countUe h m)

/-- Read code words in a row: whether one is uncorrectable, and the flips that the others let pass, each under its place in the row (R568). -/
def readFlips (g : Regs) (h : Half) (a : Arr) (ks : List Nat) (m : Mach) : Bool × List (Nat × BitVec 256) × Mach :=
  if m.ras.errs.isEmpty then (false, [], m)
  else ks.zipIdx.foldl (fun (acc : Bool × List (Nat × BitVec 256) × Mach) k =>
    let r := readWord g h a k.1 acc.2.2
    (acc.1 || r.1, if r.2.1 == 0 then acc.2.1 else acc.2.1 ++ [(k.2, r.2.1)], r.2.2)) (false, [], m)

/-- The flips of `w` bits at a bit position of the words read in a row. -/
def flipAt (w : Nat) (fs : List (Nat × BitVec 256)) (pos : Nat) : BitVec w :=
  fs.foldl (fun (a : BitVec w) (x : Nat × BitVec 256) =>
    a ^^^ (if 256 * x.1 ≤ pos then (x.2 >>> (pos - 256 * x.1)).setWidth w else x.2.setWidth w <<< (256 * x.1 - pos))) 0

/-- Read code words of the frame that holds a line. The words found uncorrectable are answered. -/
def readWords (g : Regs) (h : Half) (l : LineAddr) (p : Loc) (ks : List Nat) (m : Mach) : List Nat × Mach :=
  if m.ras.errs.isEmpty then ([], m)
  else
    ks.foldl (fun (acc : List Nat × Mach) k =>
      let d := dataWord (halfAt acc.2 h) l p k
      let r := readWord g h d.1 d.2 acc.2
      let fr := frameOf (halfAt r.2.2 h) l p
      let m' := if r.2.1 == 0 then r.2.2
        else putFrame g h l p (readImage fr (frameImage fr ^^^ (r.2.1.setWidth 2048 <<< (256 * k)))) [] r.2.2
      (if r.1 then acc.1 ++ [k] else acc.1, m')) ([], m)

/-! ## Memory commands (R85, R226, R426, R427) -/

def chanJoined (m : Mach) (c : Half) : Bool := isJoined (chanAt m c).hello

/-- Queue a READ. Its tag is taken when it is presented. -/
def queueRead (c : Half) (x : RdCmd) (m : Mach) : Mach := modChan c (fun ch => { ch with readQ := ch.readQ ++ [x] }) m

/-- Queue a WRITE. -/
def queueWrite (c : Half) (x : WrCmd) (m : Mach) : Mach := modChan c (fun ch => { ch with writeQ := ch.writeQ ++ [x] }) m

/-- A WRITE of the line waits or is outstanding. -/
def writePending (m : Mach) (c : Half) (l : LineAddr) : Bool :=
  (chanAt m c).writeQ.any (fun x => x.line == l) || (chanAt m c).writeO.any (fun x => x.line == l)

/-- A memory ATOMIC of the line waits or is outstanding (R226). -/
def atomicPending (m : Mach) (h : Half) (l : LineAddr) : Bool :=
  (chanAt m h).atomQ.any (fun x => lineOf x.req.addr == l) || (chanAt m h).atomO.any fun x => lineOf x.req.addr == l

/-- A miss entry for the line, that a refetch uses too (R145). -/
def missOf (hs : HalfSt) (l : LineAddr) : Option MissEntry := hs.miss.find? fun e => e.line == l

/-- Miss-tracker entries in use (R153); a line that came without a READ or XREQ takes none. -/
def missCount (hs : HalfSt) : Nat := (hs.miss.filter fun e => !e.brought).length

/-- The line is being fetched in place, or waits for that (R145). -/
def refetching (hs : HalfSt) (l : LineAddr) : Bool := (missOf hs l).isSome || hs.refetch.contains l

/-- The bit of a line among the four of its frame. -/
def lineBit (l : LineAddr) : BitVec 4 := 1#4 <<< (lineIx l).val

/-! ## Lost lines (R442 to R445) -/

/-- A remote line this package holds with XP unique. -/
def xpUnique (m : Mach) (h : Half) (l : LineAddr) : Bool := (dirOf (halfAt m h) l).xp == 2

/-- Dirty in the sense of R442. -/
def isDirty (m : Mach) (h : Half) (l : LineAddr) (x : LineSt) : Bool :=
  x.dirty != 0 || (!isPackage m (lineBase l) && xpUnique m h l)

/-- The line of a resident place is lost. -/
def lineLost (hs : HalfSt) (l : LineAddr) : Bool :=
  match locate hs l with
  | some p => (lineOfLoc hs l p).lost
  | none => false

/-- The line that a lookup finds is lost. One that CEN 0 hides is not met (R184). -/
def lostSeen (g : Regs) (m : Mach) (h : Half) (l : LineAddr) : Bool :=
  match lookup g m h l with
  | some p => (lineOfLoc (halfAt m h) l p).lost
  | none => false

/-- Discard the merge-buffer entries of a line; requests that waited for them go on. -/
def discardMerges (h : Half) (l : LineAddr) (m : Mach) : Mach :=
  let ws := ((halfAt m h).merge.filter fun e => e.line == l).flatMap (·.waiters)
  let m := modHalf h (fun hs => { hs with merge := hs.merge.filter fun e => e.line != l }) m
  { m with again := m.again ++ ws.map fun r => ⟨h, r, .data⟩ }

/-- The line waits for the answers of the holders it is taken from: they join the snoops of a request that waits for its own (R465), else the
conflict tracker takes the line if it has room (R201, log 113). -/
def trackLost (h : Half) (l : LineAddr) (xs : List Holder) (m : Mach) : Mach :=
  let full := decide ((halfAt m h).conf.length ≥ Config.conflictEntries)
  match confOf (halfAt m h) l with
  | some c => setConf h l (some { c with pend := c.pend ++ xs.filter fun x => !c.pend.contains x }) m
  | none => if xs.isEmpty || full then m else setConf h l (some (newConf l .lost none xs)) m

/-- Everything R444 does to a line made lost: LOST, its merge-buffer entries, its holders. A holder that the failing request itself has just
put into the directory holds nothing (`fresh`), and one whose snoop is out already gets no second (R465). -/
def loseLine (g : Regs) (h : Half) (fresh : Option Holder) (l : LineAddr) (m : Mach) : Mach :=
  let m := match locate (halfAt m h) l with
    | some p => modLineSt g h l p [] (fun x => { x with lost := true }) m
    | none => m
  let m := discardMerges h l m
  let e := dirOf (halfAt m h) l
  let pkg := isPackage m (lineBase l)
  let out := match confOf (halfAt m h) l with | some c => c.pend | none => []
  let xs := (holdersOf e).filter fun x => fresh != some x && !out.contains x && (match x with | .agent _ => true | .chip _ => pkg)
  let m := keepDir g h l (fun e => if pkg then DirEntry.free else settleState { e with agents := 0, owner := 0, state := 0 }) m
  snoopAll g h l .inv xs (trackLost h l xs m)

/-- The READ of a line that is fetched in place, and its miss-tracker entry (R153), which no request's label or OPTAG allocates. -/
def startRefetch (g : Regs) (h : Half) (l : LineAddr) (m : Mach) : Mach :=
  queueRead h ⟨0, l, 0xF, .fill, 0, false, none, 0, 0, 0⟩ <| profile g h 0x03 (some (0, 0)) 1
    (modHalf h (fun hs => { hs with miss := hs.miss ++ [⟨l, 0xF, 0, false, 0, [], false, false, none, none, false⟩] }) m)

/-- A clean line with bytes in the merge buffer is invalid where it stands and fetched (R145). The fetch waits for a tracker entry (R153). -/
def refetchLine (g : Regs) (h : Half) (l : LineAddr) (m : Mach) : Mach :=
  if refetching (halfAt m h) l then m
  else if !chanJoined m h then loseLine g h none l (logLoss (lossLine lossMEM h l) m)
  else if decide (missCount (halfAt m h) ≥ Config.missEntries) || writePending m h l then
    modHalf h (fun hs => { hs with refetch := hs.refetch ++ [l] }) m
  else startRefetch g h l m

/-- Change a victim-buffer entry. -/
def modVb (h : Half) (slot : Nat) (f : VbEntry → VbEntry) (m : Mach) : Mach :=
  modHalf h (fun hs => { hs with vb := hs.vb.map fun e => if e.slot == slot then f e else e }) m

/-! ## Errors in tags and directory entries (R440, R455) -/

/-- A cause of the safe state is found: the half enters it on the next core cycle. The first cause stands. -/
def causeSafe (h : Half) (cause : BitVec 4) (w : BitVec 6) (m : Mach) : Mach :=
  if (halfAt m h).safe || (halfAt m h).safeDue.isSome then m else modHalf h (fun hs => { hs with safeDue := some (cause, w) }) m

/-- An uncorrectable tag code word: the frames it named are dropped (R455). -/
def loseTags (g : Regs) (h : Half) (set : BitVec 13) (k : Nat) (m : Mach) : Mach :=
  let drop := fun (m : Mach) (w : Nat) =>
    let f := frameAt (halfAt m h) set w
    let m := fourLines.foldl (fun (m : Mach) (i : Fin 4) => if f.lines[i].pres then discardMerges h (lineAt set f.tag i.val) m else m) m
    putFrame g h (lineAt set f.tag 0) (.frame w) Frame.free [] m
  causeSafe h 2 0 (logLoss (lossPlace lossTAG h (2 * k) set.toNat) (drop (drop m (2 * k)) (2 * k + 1)))

/-- An uncorrectable tag entry of the victim buffer. -/
def loseVictim (h : Half) (slot : Nat) (m : Mach) : Mach :=
  let m := setErr .victim h (512 + slot) 0 (modHalf h (fun hs => { hs with vb := hs.vb.filter fun e => e.slot != slot }) m)
  causeSafe h 2 0 (logLoss (lossPlace lossTAG h 31 slot) m)

/-- An uncorrectable directory entry is freed. -/
def loseEntry (g : Regs) (h : Half) (set way : Nat) (m : Mach) : Mach :=
  causeSafe h 3 0 (logLoss (lossPlace lossDIR h way set) (putDir g h set way DirEntry.free m))

/-- Read one tag code word of a set: the lower way stands in its lower half (R129). Flips that the read does not see enter the entries
(R568). -/
def readTag (g : Regs) (h : Half) (set : BitVec 13) (k : Nat) (m : Mach) : Mach :=
  let r := readWord g h .tags (set.toNat * 12 + k) m
  let flip := fun (x : BitVec 128) (w : Nat) => modHalf h (fun hs => { hs with
    frames := tabMod Frame.free hs.frames (set.toNat * Config.ways + w) (flipTag x) })
  if r.1 then loseTags g h set k r.2.2
  else if r.2.1 == 0 then r.2.2
  else flip (r.2.1.extractLsb' 128 128) (2 * k + 1) (flip (r.2.1.extractLsb' 0 128) (2 * k) r.2.2)

/-- Read one directory code word. -/
def readEntry (g : Regs) (h : Half) (set way : Nat) (m : Mach) : Mach :=
  let r := readWord g h .dir (set * Config.dirWays + way) m
  if r.1 then loseEntry g h set way r.2.2
  else if r.2.1 == 0 then r.2.2
  else modHalf h (fun hs => { hs with
    dir := tabMod DirEntry.free hs.dir (set * Config.dirWays + way) fun e => dirOfWord (dirWord e ^^^ r.2.1) }) r.2.2

/-- Read the tag entry of a place of the victim buffer. -/
def readVictim (g : Regs) (h : Half) (slot : Nat) (m : Mach) : Mach :=
  let r := readWord g h .victim (512 + slot) m
  if r.1 then loseVictim h slot r.2.2
  else if r.2.1 == 0 then r.2.2
  else modVb h slot (fun e => { e with frame := flipTag (r.2.1.extractLsb' 0 128) e.frame }) r.2.2

/-- Read the tags of a set. -/
def readSet (g : Regs) (h : Half) (set : BitVec 13) (m : Mach) : Mach :=
  if m.ras.errs.isEmpty then m else (List.range 12).foldl (fun m k => readTag g h set k m) m

/-- Read the entries of a line's directory set. -/
def readDirSet (g : Regs) (h : Half) (l : LineAddr) (m : Mach) : Mach :=
  if m.ras.errs.isEmpty then m else (List.range Config.dirWays).foldl (fun m w => readEntry g h (dirSet l) w m) m

/-- The lookup of a line reads the tags of its set, those of the victim buffer and the entries of its directory set. -/
def readLookup (g : Regs) (h : Half) (l : LineAddr) (m : Mach) : Mach :=
  if m.ras.errs.isEmpty then m
  else
    let m := readSet g h (setIx l) m
    readDirSet g h l (((halfAt m h).vb.map (·.slot)).foldl (fun m k => readVictim g h k m) m)

/-! ## Lines that leave a frame (R139) -/

def isFree (f : Frame) : Bool := !(fourLines.any fun i => f.lines[i].pres)

/-- Rewrite the tag entries that a change of use or of a region alters: their code words are read, then written (R439, R464, log 74). -/
def retag (g : Regs) (h : Half) (upd : Nat → Frame → Frame) (m : Mach) : Mach :=
  (((halfAt m h).frames.filter fun x => upd x.1 x.2 != x.2).map (·.1)).foldl (fun m k =>
    let set := BitVec.ofNat 13 (k / Config.ways)
    let w := k % Config.ways
    let m := readTag g h set (w / 2) m
    let f := frameAt (halfAt m h) set w
    if isFree f then m else putFrame g h (lineAt set f.tag 0) (.frame w) (upd k f) [] m) m

/-- The line leaves its frame or victim entry; what remains is compacted (R139). A writeback of it that R151 held back goes with it
(Table 4.9), and a victim entry left without a line is free. -/
def removeLine (g : Regs) (h : Half) (l : LineAddr) (m : Mach) : Mach :=
  match locate (halfAt m h) l with
  | none => m
  | some p =>
    let fr := frameOf (halfAt m h) l p
    let f := tidyFrame { fr with lines := fr.lines.set (lineIx l).val LineSt.free (lineIx l).isLt }
    let m := putFrame g h l p f (if fr.packed then allWords else []) m
    match p with
    | .frame _ => m
    | .vb s =>
      let upd := fun (e : VbEntry) => if e.slot == s then { e with unsent := e.unsent &&& ~~~lineBit l } else e
      modHalf h (fun hs => { hs with vb := (hs.vb.map upd).filter fun e =>
        !(e.slot == s && isFree e.frame && e.sent == 0 && e.waiters.isEmpty) }) m

/-- The entries of a line that are not draining. -/
def liveMerges (hs : HalfSt) (l : LineAddr) : List MergeEntry := hs.merge.filter fun e => e.line == l && !e.draining

/-- The holder that a request has just made of its sender. -/
def freshHolder (r : Req) : Option Holder :=
  if !r.fresh then none
  else match r.origin with
    | .remote c _ => some (.chip c)
    | _ => r.agent.map .agent

/-- The lines of a failing code word of frame `fr` (R442 to R445): clean ones are invalidated where they stand, or fetched in place when the
merge buffer holds bytes of them (R145), dirty ones are lost. The line of the request that found the error makes its entry itself. -/
def failWord (g : Regs) (h : Half) (own : Option Req) (l : LineAddr) (p : Loc) (fr : Frame) (m : Mach) (k : Nat) : Mach :=
  let (way, set) := match p with | .frame w => (w, (setIx l).toNat) | .vb _ => (0, 0)
  (linesInWord fr k).foldl (fun m i =>
    let x := lineAt (setIx l) fr.tag i
    match locate (halfAt m h) x with
    | none => m
    | some q =>
      let st := lineOfLoc (halfAt m h) x q
      let mine := own.filter fun r => lineOf r.addr == x && r.origin != .bellows
      if st.lost then m
      else if isDirty m h x st then
        loseLine g h (mine.bind freshHolder) x
          (if mine.isSome then m else logLoss (lossWord lossDATA h x way set) m)
      else if (liveMerges (halfAt m h) x).isEmpty then removeLine g h x m
      else refetchLine g h x m) m

/-- Code words of a frame were found uncorrectable. What leaves a packed frame compacts it, which reads its other code words first. -/
def failWords (g : Regs) (h : Half) (own : Option Req) (l : LineAddr) (p : Loc) (ks : List Nat) (m : Mach) : Mach :=
  if ks.isEmpty then m
  else
    let fr := frameOf (halfAt m h) l p
    let rd := readWords g h l p (if fr.packed then allWords.filter fun k => !ks.contains k else []) m
    (ks ++ rd.1).foldl (failWord g h own l p fr) rd.2

/-- Read code words on which nothing but the lines they hold depends: errors act by R443 and R444. -/
def checkWords (g : Regs) (h : Half) (l : LineAddr) (p : Loc) (ks : List Nat) (m : Mach) : Mach :=
  if m.ras.errs.isEmpty then m
  else
    let rd := readWords g h l p ks m
    failWords g h none l p rd.1 rd.2

/-- Read the code words of a frame that hold other lines than this one, before they are rewritten. -/
def checkOthers (g : Regs) (h : Half) (l : LineAddr) (p : Loc) (m : Mach) : Mach :=
  let fr := frameOf (halfAt m h) l p
  if fr.packed then checkWords g h l p (allWords.filter fun k => (linesInWord fr k).any fun i => i != (lineIx l).val) m else m

/-- The line leaves its frame; what it leaves behind is read before it is compacted (R439). -/
def dropLine (g : Regs) (h : Half) (l : LineAddr) (m : Mach) : Mach :=
  match locate (halfAt m h) l with
  | none => m
  | some p => removeLine g h l (checkOthers g h l p m)

/-- Read sectors of a resident line: false when an uncorrectable word was met, after R443 and R444 have acted. -/
def readSectors (g : Regs) (h : Half) (own : Option Req) (l : LineAddr) (p : Loc) (secs : BitVec 4) (m : Mach) : Bool × Mach :=
  if m.ras.errs.isEmpty then (true, m)
  else
    let r := readWords g h l p (wordsOf (frameOf (halfAt m h) l p) (lineIx l).val secs) m
    (r.1.isEmpty, failWords g h own l p r.1 r.2)

/-! ## Writebacks (R148, R151, R213) -/

/-- Complete the requests that waited for a writeback that failed. -/
def failWaiters (h : Half) (cause : BitVec 4) (rs : List Req) (m : Mach) : Mach :=
  rs.foldl (fun m r => failData h cause r m) m

/-- A WRITE of sectors of a line. Every one is a writeback: LABEL is 0 (Table 3.2), and so are OPTAG, INST and SCLS (log 100). -/
def writeCmd (l : LineAddr) (secs : BitVec 4) (data : Line) (ws : List Req) (vb : Option Nat) : WrCmd :=
  ⟨0, vb, l, secs, data, ws, 0, 0, 0, 0⟩

/-- Write sectors of a line back (R148, R213): WRITE for package memory, XWB for a remote line with XP unique, which then
becomes shared. With a departed controller or package the line is lost (R111); its entry comes behind those of requests (R450). -/
def writeBack (g : Regs) (h : Half) (l : LineAddr) (secs : BitVec 4) (dirty : BitVec 4) (data : Line) (ws : List Req)
    (vb : Option Nat) (m : Mach) : Mach :=
  if isPackage m (lineBase l) then
    if chanJoined m h then queueWrite h (writeCmd l secs data ws vb) m
    else logLoss (lossLine lossDEPART h l) (failWaiters h lossDEPART ws (loseLine g h none l m))
  else
    let m := keepDir g h l (fun e => { e with xp := 1 }) m
    if chipJoined m (ownerChip (lineBase l)) then
      startRemote (ownerChip (lineBase l)) (.wb h l ws dirty data) m
    else logLoss (lossLine lossDEPART h l) (failWaiters h lossDEPART ws (loseLine g h none l m))

/-- Clear the DIRTY bits of a line. -/
def cleanBits (g : Regs) (h : Half) (l : LineAddr) (m : Mach) : Mach :=
  match locate (halfAt m h) l with
  | some p => modLineSt g h l p [] (fun x => { x with dirty := 0 }) m
  | none => m

/-- The line's writeback from its victim entry (R148, R151): sent now, or waiting while an earlier WRITE of it is outstanding. Its code
words are read (R449). An XWB leaves the line clean once it is sent, and its entry waits for no response (R149, R247). -/
def writeBackVb (g : Regs) (h : Half) (slot : Nat) (l : LineAddr) (m : Mach) : Mach :=
  let bit := lineBit l
  if (lineOfLoc (halfAt m h) l (.vb slot)).lost then modVb h slot (fun e => { e with unsent := e.unsent &&& ~~~bit }) m
  else if writePending m h l then modVb h slot (fun e => { e with unsent := e.unsent ||| bit }) m
  else
    let m := modVb h slot (fun e => { e with unsent := e.unsent &&& ~~~bit }) m
    let pkg := isPackage m (lineBase l)
    let (ok, m) := readSectors g h none l (.vb slot) (if pkg then (lineOfLoc (halfAt m h) l (.vb slot)).dirty else 0xF) m
    if !ok then m
    else
      let st := lineOfLoc (halfAt m h) l (.vb slot)
      let m := if pkg then modVb h slot (fun e => { e with sent := e.sent ||| bit }) m else m
      let m := writeBack g h l st.dirty st.dirty st.data [] (if pkg then some slot else none) m
      -- a writeback that could not be sent leaves nothing outstanding
      if (lineOfLoc (halfAt m h) l (.vb slot)).lost then modVb h slot (fun e => { e with sent := e.sent &&& ~~~bit }) m
      else if pkg then m else modLineSt g h l (.vb slot) [] (fun x => { x with dirty := 0 }) m

/-! ## Merge buffer (R142 to R145) -/

def mergeOf (hs : HalfSt) (l : LineAddr) (s : Nat) : Option MergeEntry := hs.merge.find? fun e => e.line == l && e.sec.val == s

/-- Replace a merge-buffer entry. -/
def putMerge (h : Half) (e : MergeEntry) (m : Mach) : Mach :=
  modHalf h (fun hs => { hs with merge := hs.merge.map fun x => if x.slot == e.slot then e else x }) m

/-- Write a merge-buffer entry with its code words. -/
def setMerge (g : Regs) (h : Half) (e : MergeEntry) (m : Mach) : Mach :=
  noteWrite g .merge h (3 * e.slot + 2) (noteWrite g .merge h (3 * e.slot + 1) (noteWrite g .merge h (3 * e.slot) (putMerge h e m)))

/-- The byte mask of a sector. -/
def sectorByteMask (be : BitVec 64) : Sector :=
  (List.range 64).foldl (fun a i => if be.getLsbD i then a ||| (0xFF#512 <<< (8 * i)) else a) 0

/-- Bytes of a sector under enables. -/
def mergeSector (be : BitVec 64) (new old : Sector) : Sector := (new &&& sectorByteMask be) ||| (old &&& ~~~sectorByteMask be)

/-- Read the three code words of an entry: true when one is uncorrectable. What the code does not see enters its data, and its byte
enables, which are taken to stand in the first 64 bits of the third word (R568, log 79). -/
def readMergeEntry (g : Regs) (h : Half) (e : MergeEntry) (m : Mach) : Bool × Mach :=
  let r := readFlips g h .merge ((List.range 3).map fun k => 3 * e.slot + k) m
  (r.1, if r.2.1.isEmpty then r.2.2
    else putMerge h { e with data := e.data ^^^ flipAt 512 r.2.1 0, be := e.be ^^^ flipAt 64 r.2.1 512 } r.2.2)

/-! ## Packing (R137, R138) -/

/-- A line of an enabled Hearth region is stored raw wherever it stands (R137, R172). -/
def rawLine (g : Regs) (l : LineAddr) : Bool := (regionOf g (lineBase l)).isSome

/-- Hearth and reservation ways store every sector raw (R137). -/
def rawPlace (g : Regs) (h : Half) (l : LineAddr) (p : Loc) : Bool := rawLine g l || (match p with | .frame w => wayUse g h w != 0 | .vb _ => false)

/-- A line may be packed (R137), where it stands or when it is installed. -/
def packable (g : Regs) (m : Mach) (h : Half) (l : LineAddr) : Bool :=
  let e := dirOf (halfAt m h) l
  g.hc[h].cmode == 2 && e.agents == 0 && e.chips == 0 && !inGroup (halfAt m h) l
    && !rawLine g l && !inReservation m (lineBase l) && !lineLost (halfAt m h) l

/-- The frame that takes a packable line of `z` slots (Table 4.5): the lowest packed frame of its block with room, else the lowest
single-line frame that fits; never the frame `own` that it stands in. -/
def packTarget (g : Regs) (m : Mach) (h : Half) (l : LineAddr) (z : Nat) (own : Option Nat) : Option Nat :=
  let at_ := fun v => frameAt (halfAt m h) (setIx l) v
  let others := (List.range Config.ways).filter fun v =>
    own != some v && !isFree (at_ v) && (at_ v).tag == tagIx l && wayUse g h v == 0 && decide (usedSlots (at_ v) + z ≤ 16)
  if !packable g m h l || !g.hc[h].cen then none
  else (others.find? fun v => (at_ v).packed).or (others.find? fun v =>
    !(at_ v).packed && fourLines.all fun i => !(at_ v).lines[i].pres || packable g m h (lineAt (setIx l) (at_ v).tag i))

/-- A line joins the frame of a way, which is then packed. -/
def packInto (g : Regs) (h : Half) (l : LineAddr) (st : LineSt) (age : BitVec 2) (v : Nat) (m : Mach) : Mach :=
  let f := frameAt (halfAt m h) (setIx l) v
  putFrame g h l (.frame v)
    { f with packed := true, age := if f.age.toNat ≤ age.toNat then f.age else age
             lines := f.lines.set (lineIx l).val st (lineIx l).isLt } allWords (profile g h 0x0B none 1 m)

/-- A line in a single-line frame is considered for packing (R138). Both frames are read before they are rewritten. -/
def tryPack (g : Regs) (h : Half) (l : LineAddr) (m : Mach) : Mach :=
  let target := fun (m : Mach) => match locate (halfAt m h) l with
    | some (.frame w) =>
      let fr := frameAt (halfAt m h) (setIx l) w
      if fr.packed || wayUse g h w != 0 then none else (packTarget g m h l (lineSlots fr.lines[lineIx l]) (some w)).map fun v => (w, v)
    | _ => none
  match target m with
  | none => m
  | some (w, v) =>
    let m := checkWords g h l (.frame v) allWords (checkWords g h l (.frame w) allWords m)
    match target m with
    | none => m
    | some (w, v) =>
      let fr := frameAt (halfAt m h) (setIx l) w
      packInto g h l fr.lines[lineIx l] fr.age v (removeLine g h l m)

/-- The line sits in a packed frame. -/
def isPackedLine (hs : HalfSt) (l : LineAddr) : Bool :=
  match locate hs l with
  | some p => (frameOf hs l p).packed
  | none => false

/-! ## Drains (R139, R143 to R145) -/

/-- A move begins: later requests to the line wait until it ends (R140). -/
def startMove (h : Half) (l : LineAddr) (label : Option (BitVec 12)) (trigger : Option Req) (m : Mach) : Mach :=
  modHalf h (fun hs =>
    if hs.moves.any fun x => x.line == l then hs else { hs with moves := hs.moves ++ [⟨l, label, false, trigger, false, []⟩] }) m

/-- The code words that a drain writes: those of its sector as it was and as it is, and to the end of the frame when the size changes in a
packed one (R144). -/
def drainWords (fr : Frame) (f : Frame) (l : LineAddr) (s : Nat) : List Nat :=
  let mine := wordsOf f (lineIx l).val (1#4 <<< s)
  let was := wordsOf fr (lineIx l).val (1#4 <<< s)
  if fr.packed && descSlots (lineDesc fr.lines[lineIx l] s) != descSlots (lineDesc f.lines[lineIx l] s) then
    allWords.filter fun k => decide (mine.head?.getD 0 ≤ k)
  else (mine ++ was).eraseDups

/-- The code words that a drain reads: those of its sector unless the entry covers it, and in a packed frame those behind it that its new size
moves (R144). -/
def drainReads (fr f : Frame) (e : MergeEntry) : List Nat :=
  let mine := wordsOf fr (lineIx e.line).val (1#4 <<< e.sec.val)
  let own := if e.be == BitVec.allOnes 64 then [] else mine
  if fr.packed then (own ++ (drainWords fr f e.line e.sec.val).filter fun k => !mine.contains k).eraseDups else own

/-- A frame with a sector's new data: re-encoded, dirty (R144). -/
def withSectorData (g : Regs) (h : Half) (fr : Frame) (raw : Bool) (l : LineAddr) (s : Nat) (x : Sector) : Frame :=
  let st := fr.lines[lineIx l]
  let d := chooseDesc g.hc[h] raw x
  { fr with lines := fr.lines.set (lineIx l).val { st with
      data := withSector st.data s x
      desc := descField fun j => if j == s then d else lineDesc st j
      dirty := st.dirty ||| (1#4 <<< s) } (lineIx l).isLt }


/-- The sector as the drain of an entry leaves it. -/
def drainedSector (hs : HalfSt) (p : Loc) (e : MergeEntry) : Sector :=
  mergeSector e.be e.data (sectorOf (lineOfLoc hs e.line p).data e.sec.val)

/-- The frame as the drain of an entry leaves it. -/
def drainedFrame (g : Regs) (m : Mach) (h : Half) (p : Loc) (e : MergeEntry) : Frame :=
  withSectorData g h (frameOf (halfAt m h) e.line p) (rawPlace g h e.line p) e.line e.sec.val (drainedSector (halfAt m h) p e)

/-- A change passes the install stage for the requests that wait for it: its pointer moves past the port of the first (R43, R141). -/
def instGrant (h : Half) (rs : List Req) (m : Mach) : Mach :=
  match rs with
  | [] => m
  | r :: _ => modHalf h (fun hs => { hs with instPtr := pastPort hs.instPtr r }) m

/-- The entry's bytes go into its line; its place frees with MERGE_DRAIN_END. Where a packed frame has no room the line moves out first
(R139), and the entry drains when the move has ended. -/
def storeDrain (g : Regs) (h : Half) (e : MergeEntry) (m : Mach) : Mach :=
  match locate (halfAt m h) e.line with
  | none => setMerge g h { e with draining := true } m
  | some p =>
    let fr := frameOf (halfAt m h) e.line p
    let f := drainedFrame g m h p e
    if fr.packed && decide (usedSlots f > 16) then startMove h e.line e.label none m
    else tryPack g h e.line (setMerge g h { e with draining := true } (instGrant h e.waiters (putFrame g h e.line p f (drainWords fr f e.line e.sec.val) m)))

/-- Start the drain of a merge-buffer entry (R144, R145): its own code words are read, then those of its sector unless it covers it, then
those behind it that its new size moves. -/
def startDrain (g : Regs) (h : Half) (e : MergeEntry) (m : Mach) : Mach :=
  let here := fun (m : Mach) => if refetching (halfAt m h) e.line then none
    else (halfAt m h).merge.find? fun x => x.slot == e.slot && x.line == e.line && !x.draining
  match here m with
  | none => m
  | some e =>
    let (bad, m) := readMergeEntry g h e m
    if bad then loseLine g h none e.line (logLoss (lossLine lossDATA h e.line) m)
    else match here m, locate (halfAt m h) e.line with
      | some e, some p =>
        let m := checkWords g h e.line p (drainReads (frameOf (halfAt m h) e.line p) (drainedFrame g m h p e) e) m
        match here m with
        | some e => storeDrain g h e m
        | none => m
      | some e, none => storeDrain g h e m
      | none, _ => m

/-- Drain every entry of a line's sectors that is not draining yet (R143). -/
def drainLine (g : Regs) (h : Half) (l : LineAddr) (m : Mach) : Mach :=
  (liveMerges (halfAt m h) l).foldl (fun m e => startDrain g h e m) m

/-- The line of a resident place with the bytes of its merge-buffer entries (R143): what a read of it gives. -/
def mergedData (hs : HalfSt) (l : LineAddr) (d : Line) : Line :=
  (liveMerges hs l).foldl (fun d e => withSector d e.sec.val (mergeSector e.be e.data (sectorOf d e.sec.val))) d

/-- The sectors that have bytes in the merge buffer. -/
def mergedSectors (hs : HalfSt) (l : LineAddr) : BitVec 4 :=
  (liveMerges hs l).foldl (fun a e => a ||| (1#4 <<< e.sec.val)) 0

/-! ## Victims (R147 to R149, R166) -/

/-- A frame that a move is leaving (R140). -/
def beingLeft (hs : HalfSt) (set : BitVec 13) (w : Nat) : Bool :=
  hs.moves.any fun v => !v.started && setIx v.line == set && locate hs v.line == some (.frame w)

/-- A way may be chosen for an install in a set (R147, R166, R445): in the mask, used as cache, not held, without a lost line,
not being left by a move, not being copied by a remap. -/
def eligible (g : Regs) (m : Mach) (h : Half) (set : BitVec 13) (mask : BitVec 24) (w : Nat) : Bool :=
  let f := frameAt (halfAt m h) set w
  let copying := match (halfAt m h).rcopy with | some c => c.way.toNat == w && c.set == set | none => false
  mask.getLsbD w && wayUse g h w == 0 && !f.hold && !(fourLines.any fun i => f.lines[i].pres && f.lines[i].lost)
    && !beingLeft (halfAt m h) set w && !copying

/-- A victim entry that a new one may replace: no writeback waits or is outstanding, and no line of it is lost (R149, R445). -/
def vbReusable (e : VbEntry) : Bool :=
  e.unsent == 0 && e.sent == 0 && e.waiters.isEmpty && !(fourLines.any fun i => e.frame.lines[i].pres && e.frame.lines[i].lost)

/-- The victim buffer can take a frame (R149). -/
def vbRoom (hs : HalfSt) : Bool := decide (hs.vb.length < Config.victims) || hs.vb.any vbReusable

/-- The choice of R147: the lowest free way, else the ageing loop. Answers the way and the ages added to every eligible way. -/
def chooseWay (g : Regs) (m : Mach) (h : Half) (set : BitVec 13) (mask : BitVec 24) : Option (Nat × Nat) :=
  let ws := (List.range Config.ways).filter (eligible g m h set mask)
  let age := fun w => (frameAt (halfAt m h) set w).age.toNat
  match ws.find? fun w => isFree (frameAt (halfAt m h) set w) with
  | some w => some (w, 0)
  | none =>
    let top := ws.foldl (fun a w => max a (age w)) 0
    (ws.find? fun w => age w == top).map fun w => (w, 3 - top)

/-- Add ages to the eligible ways of a set (R147). -/
def addAges (g : Regs) (h : Half) (set : BitVec 13) (mask : BitVec 24) (n : Nat) (m : Mach) : Mach :=
  if n == 0 then m
  else ((List.range Config.ways).filter (eligible g m h set mask)).foldl (fun m w =>
    let f := frameAt (halfAt m h) set w
    putFrame g h (lineAt set f.tag 0) (.frame w) { f with age := f.age + BitVec.ofNat 2 n } [] m) m

/-- Take a place in the victim buffer for a frame of a set: a free one, else the oldest reusable entry's (R149). -/
def vbTake (hs : HalfSt) : Option (Nat × List VbEntry) :=
  if hs.vb.length < Config.victims then
    ((List.range Config.victims).find? fun s => !(hs.vb.any fun e => e.slot == s)).map fun s => (s, hs.vb)
  else (hs.vb.find? vbReusable).map fun e => (e.slot, hs.vb.filter fun x => x.slot != e.slot)

/-- The lines of a frame. -/
def linesOf (hs : HalfSt) (set : BitVec 13) (w : Nat) : List LineAddr :=
  let f := frameAt hs set w
  (fourLines.filter fun i => f.lines[i].pres).map fun i => lineAt set f.tag i.val

/-- Before a frame leaves its way: the merge-buffer entries of its lines drain (R148) and its code words are read (R439). -/
def emptyFrame (g : Regs) (h : Half) (set : BitVec 13) (w : Nat) (m : Mach) : Mach :=
  let m := (linesOf (halfAt m h) set w).foldl (fun m l => drainLine g h l m) m
  checkWords g h (lineAt set (frameAt (halfAt m h) set w).tag 0) (.frame w) allWords m

/-- A line of the frame still has bytes in the merge buffer, or is being fetched in place: the frame cannot leave yet. -/
def frameBusy (hs : HalfSt) (set : BitVec 13) (w : Nat) : Bool :=
  (linesOf hs set w).any fun l => !(liveMerges hs l).isEmpty || refetching hs l

/-- A frame stands at a place of the victim buffer: its dirty lines are written back (R148). -/
def sendVictim (g : Regs) (h : Half) (set : BitVec 13) (slot : Nat) (fr : Frame) (m : Mach) : Mach :=
  fourLines.foldl (fun (m : Mach) (i : Fin 4) =>
    let l := lineAt set fr.tag i.val
    let st := fr.lines[i]
    let m := if st.pres then readDirSet g h l m else m
    let need := st.pres && !st.lost && (if isPackage m (lineBase l) then st.dirty != 0 else xpUnique m h l)
    if need then writeBackVb g h slot l m else m) m

/-- A frame moves whole into a free place of the victim buffer, with its tag entry (R148). -/
def evictInto (g : Regs) (h : Half) (set : BitVec 13) (slot : Nat) (fr : Frame) (m : Mach) : Mach :=
  let m := modHalf h (fun hs => { hs with vb := hs.vb ++ [⟨slot, set, fr, 0, 0, none, []⟩] }) m
  sendVictim g h set slot fr (putFrame g h (lineAt set fr.tag 0) (.vb slot) fr allWords m)

/-- The victim frame leaves its way, which is then free, for the victim buffer. -/
def evictFrame (g : Regs) (h : Half) (set : BitVec 13) (w : Nat) (m : Mach) : Mach :=
  match vbTake (halfAt m h) with
  | none => m
  | some (slot, rest) =>
    let fr := { frameAt (halfAt m h) set w with hold := false, pinned := false }
    evictInto g h set slot fr
      (putFrame g h (lineAt set fr.tag 0) (.frame w) Frame.free [] (modHalf h (fun hs => { hs with vb := rest }) m))

/-- Where an install finds its place: it waits, no way is eligible, a packed frame takes the line, or a way is free for it. -/
inductive Place where
  | wait
  | nowhere
  | pack (w : Nat)
  | way (w : Nat)
  deriving DecidableEq, Repr

/-- A free way for an install: the way of R147, its frame evicted. The install waits while the victim buffer has no room (R149) or the
victim's drains have not ended (R148). -/
def freeWay (fuel : Nat) (g : Regs) (h : Half) (set : BitVec 13) (mask : BitVec 24) (m : Mach) : Place × Mach :=
  match fuel with
  | 0 => (.wait, m)
  | n + 1 =>
    let m := readSet g h set m
    match chooseWay g m h set mask with
    | none => (.nowhere, m)
    | some (w, _) =>
      if isFree (frameAt (halfAt m h) set w) then (.way w, m)
      else if !vbRoom (halfAt m h) then (.wait, m)
      else
        let m := emptyFrame g h set w m
        match chooseWay g m h set mask with
        | none => (.nowhere, m)
        | some (v, k) =>
          if v != w || isFree (frameAt (halfAt m h) set w) then freeWay n g h set mask m
          else if frameBusy (halfAt m h) set w || !vbRoom (halfAt m h) then (.wait, m)
          else (.way w, evictFrame g h set w (addAges g h set mask k m))

/-- The class of the label whose request causes an install; none for the range engine and a departing holder (Table 5.4). -/
def labelClass (g : Regs) (label : Option (BitVec 12)) : BitVec 4 := match label with | some l => classOf g l | none => 0

/-- The mask of an install (Table 5.4): by class, XMASK for remote memory, and ways 4 to 23 alone for a line of an open group (R169). -/
def installMask (g : Regs) (m : Mach) (h : Half) (l : LineAddr) (label : Option (BitVec 12)) : BitVec 24 :=
  let k := labelClass g label
  let a := g.hc[h].amask[k.toNat]'(k.isLt)
  if isPackage m (lineBase l) then a else a &&& g.hc[h].xmask

/-- The mask of a move (Table 5.4, R169). -/
def moveMask (g : Regs) (m : Mach) (h : Half) (l : LineAddr) (label : Option (BitVec 12)) : BitVec 24 :=
  installMask g m h l label &&& (if inGroup (halfAt m h) l then 0xFFFFF0#24 else 0xFFFFFF#24)

/-! ## Installs -/

/-- A fresh line of a frame (R135). -/
def freshLine (g : Regs) (h : Half) (data : Line) (dirty : BitVec 4) (raw : Bool) : LineSt :=
  ⟨true, false, dirty, descField (fun s => chooseDesc g.hc[h] raw (sectorOf data s)), data⟩

/-- A single-line frame (R130). -/
def singleFrame (l : LineAddr) (st : LineSt) (age : BitVec 2) : Frame :=
  { Frame.free with tag := tagIx l, age := age, lines := Frame.free.lines.set (lineIx l).val st (lineIx l).isLt }

/-- The place of an install of a line that is nowhere resident: packing by R138 first, else a way by R147. -/
def placeFor (g : Regs) (h : Half) (l : LineAddr) (data : Line) (mask : BitVec 24) (m : Mach) : Place × Mach :=
  match packTarget g m h l (lineSlots (freshLine g h data 0 false)) none with
  | some v =>
    let m := checkWords g h l (.frame v) allWords m
    if packTarget g m h l (lineSlots (freshLine g h data 0 false)) none == some v then (.pack v, m) else (.wait, m)
  | none => freeWay 4 g h (setIx l) mask m

/-- The label of the open group that covers a line. -/
def groupLabel (hs : HalfSt) (l : LineAddr) : Option (BitVec 12) :=
  hs.groups.findSome? fun x => match x.2 with | some gr => if groupCovers gr l then some gr.label else none | none => none

/-- Put a line into the place found for it. A line of an open group gets HOLD, and leaves a floor way first (R169). -/
def putLine (g : Regs) (h : Half) (l : LineAddr) (data : Line) (dirty : BitVec 4) (age : BitVec 2) (p : Place) (m : Mach) : Mach :=
  let st := freshLine g h data dirty (rawLine g l)
  match p with
  | .pack v => packInto g h l st age v m
  | .way w =>
    let grp := inGroup (halfAt m h) l
    let m := putFrame g h l (.frame w) { singleFrame l st age with hold := grp && decide (w ≥ Config.floorWays) } allWords m
    if grp && decide (w < Config.floorWays) then startMove h l (groupLabel (halfAt m h) l) none m else m
  | _ => m

/-- A resident line fits where it stands with fresh data. -/
def overwriteFits (g : Regs) (m : Mach) (h : Half) (l : LineAddr) (p : Loc) (data : Line) : Bool :=
  let fr := frameOf (halfAt m h) l p
  !fr.packed || decide (usedSlots fr - lineSlots fr.lines[lineIx l] + lineSlots (freshLine g h data 0 (rawPlace g h l p)) ≤ 16)

/-- Overwrite a resident line with fresh data (a ZERO, a refetch, the line of an XRSP). -/
def overwriteLine (g : Regs) (h : Half) (l : LineAddr) (p : Loc) (data : Line) (dirty : BitVec 4) (m : Mach) : Mach :=
  let m := checkOthers g h l p m
  match locate (halfAt m h) l with
  | some p => modLineSt g h l p allWords (fun _ => freshLine g h data dirty (rawPlace g h l p)) m
  | none => m

end Sys2Proof.Machine
end

