-- ==== Sys2Proof/Machine/Counters.lean ====
section
/-!
DEFINITION. The counter unit (chapter 07): counters, WAITs, landed and settled reports, arrival bindings; and the instance
entries that it and the parse check (R493 to R496).
-/

namespace Sys2Proof.Machine

/-! ## Instances -/

/-- An instance entry after block reset (R493). -/
def Instance.off : Instance := ⟨false, 0, false⟩

def instOf (g : Regs) (i : BitVec 6) : Instance := tabGet Instance.off g.insts i.toNat

/-- GEN is the current generation of the instance: enabled, not frozen (R494, R495). -/
def genCurrent (g : Regs) (i : BitVec 6) (gen : BitVec 4) : Bool :=
  let e := instOf g i
  e.en && !e.frz && e.gen == gen

/-! ## Counters (R237 to R241) -/

/-- SLICE and CTR of a counter name (R238). -/
def ctrSlice (a : Addr) : BitVec 5 := a.extractLsb' 16 5
def ctrNum (a : Addr) : BitVec 13 := a.extractLsb' 3 13

def Counter.zero : Counter := ⟨0, 0⟩

def counterAt (m : Mach) (n : BitVec 13) : Counter := tabGet Counter.zero m.ctrs n.toNat

def setCounter (n : BitVec 13) (c : Counter) (m : Mach) : Mach := { m with ctrs := tabSet Counter.zero m.ctrs n.toNat c }

/-- The condition of a WAIT (R248). -/
def waitMet (m : Mach) (r : Req) : Bool :=
  let c := counterAt m (ctrNum r.addr)
  let v := if bitAt r.aux 31 then c.settled else c.landed
  decide ((r.aux.extractLsb' 0 31).toNat ≤ v.toNat)

/-- An update of a counter meets parked WAITs on it (R248): what follows does not undo it. -/
def meetWaits (n : BitVec 13) (m : Mach) : Mach :=
  { m with parked := m.parked.map fun r => if ctrNum r.addr == n && waitMet m r then { r with passed := true } else r }

/-- A counter takes a new value, which its parked WAITs see. -/
def updateCounter (n : BitVec 13) (c : Counter) (m : Mach) : Mach := meetWaits n (setCounter n c m)

/-- Add bytes to LANDED, to SETTLED, or to both, modulo 2^64 (R237, R246). -/
def addCounter (n : BitVec 13) (bytes : Nat) (landed settled : Bool) (m : Mach) : Mach :=
  let c := counterAt m n
  updateCounter n
    ⟨if landed then c.landed + BitVec.ofNat 64 bytes else c.landed, if settled then c.settled + BitVec.ofNat 64 bytes else c.settled⟩ m

/-- The counter's block is assigned to the instance (R240). -/
def ownsCounter (g : Regs) (n : BitVec 13) (inst : BitVec 6) : Bool :=
  let o := g.ctrOwn[n.toNat / 128]'(by have := n.isLt; omega)
  o.v && o.inst == inst

/-- LANDED as the data of a CTR_READ, in lanes 0 to 7 (R60, R241). -/
def counterLine (c : Counter) : Line := c.landed.setWidth 2048

/-- The counter unit acts on a counter opcode (R240, R241, R251, R566). Half 0 safe refuses it (R456). A WAIT whose condition is met
completes even while 4,096 are parked: it parks never (DESIGN CHOICE, log 108). -/
def counterOp (g : Regs) (r : Req) (m : Mach) : Mach :=
  let n := ctrNum r.addr
  if (halfAt m 0).safe then complete r .errSafe 0 m
  else if !ownsCounter g n r.inst then refuse r .errPerm m
  else match r.op with
    | .ctrAdd => complete r .done 0 (addCounter n r.aux.toNat true true m)
    | .ctrRead => complete r .done (counterLine (counterAt m n)) m
    | .ctrReset => complete r .done 0 (updateCounter n Counter.zero m)
    | .wait =>
      if !genCurrent g r.inst r.gen then refuse r .errPerm m
      else if waitMet m r then complete r .done 0 m
      else if m.parked.length < Config.parkedMax then profile g 0 0x11 (who r) 1 { m with parked := m.parked ++ [r] }
      else refuse r .errOverflow m
    | _ => m

/-- The place of a request's source in source order (R199): ports 0 to 3, the peer channel, the remote port. -/
def sourceIx (o : Origin) : Option Nat :=
  match o with
  | .port p => some p.val
  | .fwd .. => some 4
  | .remote .. => some 5
  | _ => none

/-- A rotating pointer after a grant (R43). -/
def nextPtr (ptr : Nat) (r : Req) : Nat := match sourceIx r.origin with | some i => (i + 1) % 6 | none => ptr

/-- Up to four satisfied parked WAITs complete, oldest first (R252). -/
def releaseWaits (m : Mach) : Mach :=
  let rs := (m.parked.filter (·.passed)).take 4
  completeAll rs .done 0 { m with
    parked := m.parked.filter fun r => !(rs.any fun x => x.id == r.id), ctrPtr := rs.foldl nextPtr m.ctrPtr }

/-- Parked WAITs that leave with a code (R251). -/
def expelWaits (p : Req → Bool) (c : Code) (m : Mach) : Mach :=
  let rs := m.parked.filter p
  refuseAll rs c { m with parked := m.parked.filter fun r => !p r }

/-! ## Landed bytes (R242 to R247) -/

/-- A binding entry before any load. -/
def Binding.off : Binding := ⟨0, 0, 0, 0, false⟩

/-- The enabled binding that covers an address (R242). -/
def bindingOf (g : Regs) (a : Addr) : Option (BitVec 5 × BitVec 13) :=
  let gr := a.toNat / 1024
  (g.arb.find? fun e => e.2.en && decide (e.2.base.toNat ≤ gr) && decide (gr < e.2.base.toNat + e.2.len.toNat)).map
    fun e => (e.2.slice, e.2.ctr)

/-- Report counted bytes to the counter's home slice (R246). A report to a slice that is not joined is lost with its partner. -/
def reportBytes (target : Option (BitVec 5 × BitVec 13)) (bytes : Nat) (landed settled : Bool) (m : Mach) : Mach :=
  match target with
  | none => m
  | some (sl, ctr) =>
    if bytes == 0 then m
    else if sl == ownSlice m then { m with reports := m.reports ++ [⟨ctr, bytes, landed, settled⟩] }
    else if partJoined m 0 sl then sendMsg 0 (.report sl ctr bytes landed settled) m
    else m

/-- Bytes with BE set. -/
def beCount (be : LineBE) : Nat := ((List.range 256).filter fun i => be.getLsbD i).length

/-- Bytes that a request counts when it lands (Table 7.3). -/
def countedBytes (r : Req) : Nat :=
  match r.op with
  | .wr => beCount r.be
  | .place => 2 ^ r.size.toNat
  | .addl => 2 ^ r.size.toNat
  | .zero => 256
  | _ => 0

/-- Bytes counted for a line that arrives with DSMASK (Table 7.3, R247). -/
def dsBytes (ds : BitVec 4) : Nat := 64 * ((List.range 4).filter fun i => ds.getLsbD i).length

/-- A line arrives at its owner's home by XWB or XRSP: landed and settled at once (Table 7.3). -/
def countArrival (g : Regs) (l : LineAddr) (ds : BitVec 4) (m : Mach) : Mach :=
  reportBytes (bindingOf g (lineBase l)) (dsBytes ds) true true m

/-- The front report reaches the counter unit and is applied to its counter (R246, R253). -/
def applyReport (m : Mach) : Mach :=
  match m.reports with
  | [] => m
  | x :: rest => addCounter x.ctr x.bytes x.landed x.settled { m with reports := rest }

end Sys2Proof.Machine
end

