-- ==== Sys2Proof/Machine/Crucible.lean ====
section
/-!
DEFINITION. The fields of an operation's words 0 and 2 (R288), and the units of the Crucible pool that Anvil groups and spilled group
lines hold (R309, R181).
-/

namespace Sys2Proof.Machine

def w0Shape (w : BitVec 32) : Nat := (w.extractLsb' 22 3).toNat
def w0Acc (w : BitVec 32) : Nat := (w.extractLsb' 20 2).toNat
def w0Slots (w : BitVec 32) : BitVec 4 := w.extractLsb' 16 4
def w0Afmt (w : BitVec 32) : Nat := (w.extractLsb' 12 4).toNat
def w0Bfmt (w : BitVec 32) : Nat := (w.extractLsb' 8 4).toNat
def w0Func (w : BitVec 32) : Nat := (w.extractLsb' 5 3).toNat
def w2Spill (w : BitVec 32) : Nat := (w.extractLsb' 0 8).toNat
def w2Rfmt (w : BitVec 32) : Nat := (w.extractLsb' 26 4).toNat
def w2Sat (w : BitVec 32) : Bool := bitAt w 30
def w2Epi (w : BitVec 32) : Bool := bitAt w 31

/-- Slots of a mask, ascending. -/
def slotList (s : BitVec 4) : List Nat := (List.range 4).filter fun q => s.getLsbD q

/-- Units that a group takes (Table 9.9). -/
def unitsOf (w0 w2 : BitVec 32) : Nat :=
  let vals := 1024 * (if w0Func w0 == 7 then shapeSlots (w0Shape w0) else 1)
  (4096 * (slotList (w0Slots w0)).length + (if w2Spill w2 == 0 then 0 else 6 * vals) + 2047) / 2048

/-- Units of the open groups. -/
def unitsHeld (a : Anvil) : Nat := a.groups.toList.foldl (fun n gr => if gr.isOpen then n + unitsOf gr.w0 gr.w2 else n) 0

/-- Units that the spills of R181 hold. -/
def spilledUnits (hs : HalfSt) : Nat :=
  hs.groups.foldl (fun n x => match x.2 with | some gr => gr.spilled.foldl (fun n y => n + y.2) n | none => n) 0

/-- Free units of the pool (R309). -/
def cruFree (m : Mach) (h : Half) : Nat := Config.crucibleUnits - unitsHeld (anvAt m h) - spilledUnits (halfAt m h)

/-- Crucible code words of Half 0 that stage image line n (R396), and the first one that spilled group lines take (R181); the numbering is
the model's (log 18). -/
def imageWord (n k : Nat) : Nat := 65536 + 8 * n + k
def spillBase : Nat := 131072

end Sys2Proof.Machine
end

