-- ==== Sys2Proof/Machine/Groups.lean ====
section
/-!
DEFINITION. Ordered reduction groups (chapter 10): opening, the tree walk of a contribution, the result write, closing.
-/

namespace Sys2Proof.Machine

/-! ## Elements and combination (R337, Table 10.4) -/

/-- Elements of a sector under FMT 0 to 3. -/
def grpElemBits (fmt : Nat) : Nat := elementBits fmt
def grpElems (fmt : Nat) : Nat := 512 / elementBits fmt

/-- A sum partial is XA48 for the float formats. -/
def sumFloat (op fmt : Nat) : Bool := op == 0 && fmt != 0

/-- A received element as a partial (Table 10.4, R342). -/
def toPartial (op fmt : Nat) (idx : BitVec 8) (x : Nat) : Partial :=
  if sumFloat op fmt then ⟨toXa48 (elementNum fmt x), 0⟩
  else ⟨BitVec.ofNat 48 x, if op ≥ 3 then idx else 0⟩

/-- Combination of two partials, the one of the lower indices first (Table 10.4, R278). -/
def combine (op fmt : Nat) (a b : Partial) : Partial :=
  let x := elementNum fmt a.val.toNat
  let y := elementNum fmt b.val.toNat
  match op with
  | 0 => if fmt == 0 then ⟨(a.val.setWidth 32 + b.val.setWidth 32).setWidth 48, 0⟩ else ⟨addXa48 a.val b.val, 0⟩
  | 1 => if isNan x then a else if isNan y then b else if belowNum x y then b else a
  | 2 => if isNan x then a else if isNan y then b else if belowNum y x then b else a
  | 3 => if belowArg true x y then b else a
  | _ => if belowArg false y x then b else a

/-- The result of an element from its root (Table 10.4). -/
def partialResult (op fmt : Nat) (p : Partial) : Nat :=
  match op with
  | 0 => match layoutOf fmt with
    | some f => encodeFloat f (decodeFloat xa48 p.val.toNat)
    | none => p.val.toNat % 2 ^ 32
  | 1 => match layoutOf fmt with
    | some f => if isNan (decodeFloat f p.val.toNat) then canonicalNan f else p.val.toNat
    | none => p.val.toNat
  | 2 => match layoutOf fmt with
    | some f => if isNan (decodeFloat f p.val.toNat) then canonicalNan f else p.val.toNat
    | none => p.val.toNat
  | _ => p.idx.toNat

/-! ## The tree walk (R340, R342) -/

/-- A walk upward from a node: at level `level` with `c` nodes, at place `pos`. Answers the stored nodes and the root, if the walk
reaches it. A node whose sibling does not exist passes unchanged. -/
def walkUp (op fmt : Nat) (fuel : Nat) (level c pos : Nat) (vals : List Partial) (nodes : List Node) : List Node × Option (List Partial) :=
  match fuel with
  | 0 => (nodes, none)
  | n + 1 =>
    if c ≤ 1 then (nodes, some vals)
    else
      let sib := if pos % 2 == 0 then pos + 1 else pos - 1
      if sib ≥ c then walkUp op fmt n (level + 1) ((c + 1) / 2) (pos / 2) vals nodes
      else match nodes.find? fun x => x.level == level && x.pos == sib with
        | none => (nodes ++ [⟨level, pos, vals⟩], none)
        | some s =>
          let both := if pos % 2 == 0 then List.zipWith (combine op fmt) vals s.vals else List.zipWith (combine op fmt) s.vals vals
          walkUp op fmt n (level + 1) ((c + 1) / 2) (pos / 2) both (nodes.erase s)

/-- A sector without arrivals. -/
def GrpSector.none : GrpSector := ⟨0, [], false⟩

/-- The contribution of index `idx` to a sector: its new state, and the root of the complete tree (R341, R342). -/
def contribute (op fmt n : Nat) (idx : BitVec 8) (x : Sector) (s : GrpSector) : GrpSector × Option (List Partial) :=
  let w := grpElemBits fmt
  let vals := (List.range (grpElems fmt)).map fun i => toPartial op fmt idx (x.extractLsb' (w * i) w).toNat
  let r := walkUp op fmt 10 0 n idx.toNat vals s.nodes
  ({ s with arrived := s.arrived ||| (1#256 <<< idx.toNat), nodes := r.1 }, r.2)

/-- The 64 bytes of a sector's result (R340). -/
def resultSector (op fmt : Nat) (root : List Partial) : Sector :=
  let w := grpElemBits fmt
  root.zipIdx.foldl (fun a p => a ||| (BitVec.ofNat 512 (partialResult op fmt p.1) <<< (w * p.2))) 0

/-! ## Storage (R347, R399) -/

/-- Bytes of a stored node per sector (Table 10.5). -/
def nodeBytes (op fmt : Nat) : Nat :=
  if op == 0 then (if fmt == 0 then 64 else if fmt == 1 then 96 else 192)
  else if op ≤ 2 then 64
  else if fmt ≤ 1 then 80 else 96

/-- FMT and OP of a GRP_OPEN that Table 10.4 names (R337). -/
def grpFormOk (aux : BitVec 32) : Bool :=
  decide ((aux.extractLsb' 29 3).toNat ≤ 4) && decide ((aux.extractLsb' 25 4).toNat ≤ 3) && (aux.extractLsb' 17 8) != 0

/-- The lines of a range that the half homes (R336). -/
def rangeLines (m : Mach) (h : Half) (base : LineAddr) (lm1 : Nat) : List LineAddr :=
  ((List.range (lm1 + 1)).map fun i => base + BitVec.ofNat 44 i).filter fun l =>
    homeSlice m h (lineBase l) == ownSlice m && homeHalf m (lineBase l) == h

/-- The most that a group can need (R347). -/
def groupNeed (lines n op fmt : Nat) : Nat := lines * 4 * ((n + 1) / 2 * nodeBytes op fmt + 32)

/-- Group storage of a half: its reservation frames and GRPBYTES (R399). -/
def groupStorage (g : Regs) (h : Half) : Nat :=
  ((List.range Config.ways).filter fun w => wayUse g h w == 2).length * Config.sets * 256 + g.grpBytes.toNat

/-- Bytes reserved by the open groups of a half. -/
def groupReserved (hs : HalfSt) : Nat :=
  hs.groups.foldl (fun n x => match x.2 with | some gr => n + gr.reserve | none => n) 0

def groupAt (hs : HalfSt) (gid : BitVec 6) : Option Group := tabGet none hs.groups gid.toNat

/-- The open group of a GID (R336). -/
def openGroup (hs : HalfSt) (gid : BitVec 6) : Option Group := (groupAt hs gid).filter fun gr => !gr.closing

def setGroup (h : Half) (gid : BitVec 6) (x : Option Group) (m : Mach) : Mach :=
  modHalf h (fun hs => { hs with groups := tabSet none hs.groups gid.toNat x }) m

/-- GID of a group opcode. -/
def gidOf (r : Req) : BitVec 6 := r.aux.extractLsb' 0 6

/-! ## Where the partials live (R175, R181, R347) -/

/-- Bytes of a group line's state: the arrival record and the stored nodes of each sector that has arrivals (Table 10.5). -/
def lineStateBytes (gr : Group) (l : LineAddr) : Nat :=
  (List.range 4).foldl (fun n s =>
    let x := tabGet GrpSector.none gr.sectors (4 * (l.toNat - gr.base.toNat / 256) + s)
    if x.arrived == 0 then n else n + 32 + x.nodes.length * nodeBytes gr.op.toNat gr.fmt.toNat) 0

/-- The reservation ways of a half. -/
def resWays (g : Regs) (h : Half) : List Nat := (List.range Config.ways).filter fun w => wayUse g h w == 2

/-- Two pieces stand in one reservation frame. -/
def sameFrame (x y : ResFrame) : Bool := x.way == y.way && x.set == y.set

/-- The code words of a reservation frame in use. -/
def frameUsed (hs : HalfSt) (w s : Nat) : List Nat :=
  (hs.resv.filter fun x => x.way == w && x.set == s).flatMap fun x => List.range' x.first x.n

/-- The reservation frames that hold state. -/
def framesHeld (hs : HalfSt) : Nat := ((hs.resv.map fun x => (x.way, x.set)).eraseDups).length

/-- A reservation frame with a free code word, as way and set: the lowest set, in it the lowest way (log 18). -/
def roomResFrame (g : Regs) (h : Half) (hs : HalfSt) : Option (Nat × Nat) :=
  let ws := resWays g h
  let at_ := fun i => (ws.getD (i % ws.length) 0, i / ws.length)
  ((List.range (min (ws.length * Config.sets) (hs.resv.length + 1))).find? fun i =>
    decide ((frameUsed hs (at_ i).1 (at_ i).2).length < 8)).map at_

/-- The first free code words of a frame that stand in a row, at most `n`. -/
def freeRun (used : List Nat) (n : Nat) : Nat × Nat :=
  let first := (allWords.find? fun k => !used.contains k).getD 0
  (first, ((List.range (min n (8 - first))).takeWhile fun i => !used.contains (first + i)).length)

/-- Code words of a window line in use. -/
def windowUsed (hs : HalfSt) (l : LineAddr) : Nat := (hs.resOut.filter fun x => x.win == l).foldl (fun n x => n + x.n) 0

/-- The first line of the reservation window that the half homes, in ascending address order, with at most `most` code words in use (R175). -/
def windowLine (fuel : Nat) (m : Mach) (h : Half) (most : Nat) (l : LineAddr) : Option LineAddr :=
  match fuel with
  | 0 => none
  | n + 1 =>
    if homeSlice m h (lineBase l) == ownSlice m && homeHalf m (lineBase l) == h && decide (windowUsed (halfAt m h) l ≤ most) then some l
    else windowLine n m h most (l + 1)

/-- A line of the window that is free, or has room for some code words. -/
def windowRoom (m : Mach) (h : Half) (most : Nat) : Option LineAddr :=
  windowLine (((word m h 22).extractLsb' 0 16).toNat * 4096) m h most (BitVec.ofNat 44 ((word m h 21).toNat * 4096))

/-- Pieces go to a line of the window by a WRITE (R175, R355). Where their bytes stand in it is free (log 18). -/
def writeOut (h : Half) (xs : List (BitVec 6 × LineAddr × Nat)) (w : LineAddr) (m : Mach) : Mach :=
  let m := modHalf h (fun hs => { hs with
    resOut := hs.resOut ++ xs.map (fun x => ⟨x.1, x.2.1, w, x.2.2, false⟩), wout := hs.wout + 1 }) m
  if chanJoined m h then queueWrite h ⟨0, none, w, 0xF, Config.groupPage m.freeCtr, [], 0, 0, 0, 0⟩ (spend m) else m

/-- `n` code words of a line's state go to the window: to a free line, else where there is room. -/
def putWindow (fuel : Nat) (h : Half) (gid : BitVec 6) (l : LineAddr) (n : Nat) (m : Mach) : Mach :=
  match fuel with
  | 0 => m
  | f + 1 =>
    if n == 0 then m
    else match (windowRoom m h 0).or (windowRoom m h 7) with
      | none => m
      | some w =>
        let k := min n (8 - windowUsed (halfAt m h) w)
        putWindow f h gid l (n - k) (writeOut h [(gid, l, k)] w m)

/-- The piece whose frame was written longest ago (R175): the first whose frame holds no later one. -/
def oldestFrame : List ResFrame → Option ResFrame
  | [] => none
  | x :: t => if t.any (sameFrame x) then oldestFrame t else some x

/-- A reservation frame is written out to the next free line of the window (R175). Where none is free, `n` of its code words go where there
is room: R399 leaves room for them. -/
def frameOut (h : Half) (x : ResFrame) (n : Nat) (m : Mach) : Mach :=
  let es := (halfAt m h).resv.filter (sameFrame x)
  match windowRoom m h 0 with
  | some w =>
    writeOut h (es.map fun e => (e.gid, e.line, e.n)) w (modHalf h (fun hs => { hs with resv := hs.resv.filter fun y => !sameFrame x y }) m)
  | none =>
    (es.foldl (fun (acc : Nat × Mach) e =>
      let k := min acc.1 e.n
      let keep := fun (y : ResFrame) => if y == e then (if k == e.n then [] else [{ e with first := e.first + k, n := e.n - k }]) else [y]
      if k == 0 then acc
      else (acc.1 - k, putWindow 8 h e.gid e.line k (modHalf h (fun hs => { hs with resv := hs.resv.flatMap keep }) acc.2))) (n, m)).2

/-- `n` code words of a line's state are stored: in the reservation frames with room, and where none has any, the frame written longest ago is
written out first (R175). A half without reservation frames keeps them in the window. -/
def storeWords (fuel : Nat) (g : Regs) (h : Half) (gid : BitVec 6) (l : LineAddr) (n : Nat) (m : Mach) : Mach :=
  match fuel with
  | 0 => m
  | f + 1 =>
    if n == 0 then m
    else match roomResFrame g h (halfAt m h), oldestFrame (halfAt m h).resv with
      | some (w, s), _ =>
        let (first, k) := freeRun (frameUsed (halfAt m h) w s) n
        let m := modHalf h (fun hs => { hs with resv := hs.resv ++ [⟨gid, l, w, s, first, k⟩] }) m
        storeWords f g h gid l (n - k) ((List.range' first k).foldl (fun m k => noteWrite g .frames h (frameWord (halfAt m h) s w k) m) m)
      | none, some x => storeWords f g h gid l n (frameOut h x n m)
      | none, none => putWindow n h gid l n m

/-- A frame or window line belongs to a line's state. -/
def isPiece (gid : BitVec 6) (l : LineAddr) (x : ResFrame) : Bool := x.gid == gid && x.line == l
def isPage (gid : BitVec 6) (l : LineAddr) (x : ResOut) : Bool := x.gid == gid && x.line == l

/-- The state of a group line is written: as many code words as its bytes fill, which the reserve of its group covers (R347, R399). -/
def storeState (g : Regs) (h : Half) (gid : BitVec 6) (gr : Group) (l : LineAddr) (m : Mach) : Mach :=
  let m := modHalf h (fun hs => { hs with
    resv := hs.resv.filter fun x => !isPiece gid l x, resOut := hs.resOut.filter fun x => !isPage gid l x }) m
  let n := (lineStateBytes gr l + 31) / 32
  storeWords (2 * n) g h gid l n m

/-- The flips that reach a stored node, whose elements stand in order from a bit position on (R568, log 18). -/
def flipNode (op fmt : Nat) (fs : List (Nat × BitVec 256)) (pos : Nat) (x : Node) : Node :=
  let eb := 8 * nodeBytes op fmt / grpElems fmt
  let vb := if op ≥ 3 then eb - 8 else eb
  { x with vals := x.vals.zipIdx.map fun p =>
      ⟨p.1.val ^^^ (flipAt vb fs (pos + eb * p.2)).setWidth 48, if op ≥ 3 then p.1.idx ^^^ flipAt 8 fs (pos + eb * p.2 + vb) else p.1.idx⟩ }

/-- The flips that reach the state of a group line: sector by sector its record, then its nodes (R568, log 18). -/
def flipState (gr : Group) (l : LineAddr) (fs : List (Nat × BitVec 256)) : Group :=
  if fs.isEmpty then gr
  else
    let op := gr.op.toNat
    let nb := 8 * nodeBytes op gr.fmt.toNat
    let step := fun (acc : Tab GrpSector × Nat) (s : Nat) =>
      let key := 4 * (l.toNat - gr.base.toNat / 256) + s
      let x := tabGet GrpSector.none acc.1 key
      if x.arrived == 0 then acc
      else (tabSet GrpSector.none acc.1 key { x with
          arrived := x.arrived ^^^ flipAt 256 fs acc.2
          nodes := x.nodes.zipIdx.map fun y => flipNode op gr.fmt.toNat fs (acc.2 + 256 + nb * y.2) y.1 },
        acc.2 + 256 + nb * x.nodes.length)
    { gr with sectors := ((List.range 4).foldl step (gr.sectors, 0)).1 }

/-- Code words of the Crucible that hold the spilled state of a line (R181); the numbering is the model's (log 18). -/
def spillWords (gid : BitVec 6) (gr : Group) (l : LineAddr) (units : Nat) : List Nat :=
  (List.range (64 * units)).map fun k => spillBase + (gid.toNat * 256 + (l.toNat - gr.base.toNat / 256)) * 4096 + k

/-- The state of a line is read, in its frames or where R181 spilled it (R439, R348): whether a code word is uncorrectable, and the group as
the read gives it. -/
def readState (g : Regs) (h : Half) (gid : BitVec 6) (gr : Group) (l : LineAddr) (m : Mach) : Bool × Group × Mach :=
  let frames := ((halfAt m h).resv.filter (isPiece gid l)).flatMap fun x => (List.range' x.first x.n).map (frameWord (halfAt m h) x.set x.way)
  let spilled := (gr.spilled.filter fun x => x.1 == l).flatMap fun x => spillWords gid gr l x.2
  let a := readFlips g h .frames frames m
  let b := readFlips g h .crucible spilled a.2.2
  (a.1 || b.1, flipState (flipState gr l a.2.1) l b.2.1, b.2.2)

/-- READs of the window lines where pieces of a line stand (R175). -/
def readBack (g : Regs) (h : Half) (r : Req) (m : Mach) : Mach :=
  let gid := gidOf r
  let l := lineOf r.addr
  let xs := (halfAt m h).resOut.filter fun x => isPage gid l x && !x.back
  let m := modHalf h (fun hs => { hs with resOut := hs.resOut.map fun x => if isPage gid l x then { x with back := true } else x }) m
  ((xs.map (·.win)).eraseDups).foldl (fun m w => queueRead h ⟨0, w, 0xF, .page, classOf g r.label, false,
    r.dlc.map fun _ => r.accept + 8 * r.dl.toNat, r.label, r.optag, r.inst⟩ m) m

/-- A group's state is freed. -/
def freeState (h : Half) (gid : BitVec 6) (m : Mach) : Mach :=
  modHalf h (fun hs => { hs with resv := hs.resv.filter fun x => x.gid != gid, resOut := hs.resOut.filter fun x => x.gid != gid }) m

/-- The state of a line is lost (R348): every later contribution to the line ends with ERR_DATA. -/
def loseState (g : Regs) (h : Half) (gid : BitVec 6) (gr : Group) (l : LineAddr) (m : Mach) : Mach :=
  loseLine g h none l (setGroup h gid (some { gr with lost := gr.lost ++ [l] }) m)

/-- Group state is found lost where no contribution reads it (R348, R462). -/
def failState (g : Regs) (h : Half) (gid : BitVec 6) (l : LineAddr) (m : Mach) : Mach :=
  match groupAt (halfAt m h) gid with
  | some gr => if gr.lost.contains l then m else loseState g h gid gr l (logLoss (lossLine lossGROUP h l) m)
  | none => m

/-- The state of a line is spilled (R181), its frames being read: to the Crucible while it has the units, else to the window. -/
def spillState (g : Regs) (h : Half) (gid : BitVec 6) (gr : Group) (l : LineAddr) (m : Mach) : Mach :=
  let (bad, gr, m) := readState g h gid gr l m
  let n := ((halfAt m h).resv.filter (isPiece gid l)).foldl (fun n x => n + x.n) 0
  let units := (n + 63) / 64
  let fits := decide (units ≤ cruFree m h)
  let m := modHalf h (fun hs => { hs with resv := hs.resv.filter fun x => !isPiece gid l x }) m
  let m := if fits then (spillWords gid gr l units).foldl (fun m k => noteWrite g .crucible h k m) m else putWindow n h gid l n m
  let m := setGroup h gid (some { gr with spilled := gr.spilled ++ [(l, if fits then units else 0)] }) m
  if bad then failState g h gid l m else m

/-- R181: INV or CLNINV acts on a group line: its state moves away. -/
def spillAll (g : Regs) (h : Half) (l : LineAddr) (m : Mach) : Mach :=
  (halfAt m h).groups.foldl (fun m x => match x.2 with
    | some gr => if groupCovers gr l && !(gr.spilled.any fun y => y.1 == l) then spillState g h (BitVec.ofNat 6 x.1) gr l m else m
    | none => m) m

/-! ## HOLD (R338, R345, R346) -/

/-- Set or clear HOLD on the frame of a line. A floor way never holds (R162). -/
def setHold (g : Regs) (h : Half) (v : Bool) (l : LineAddr) (m : Mach) : Mach :=
  match locate (halfAt m h) l with
  | some (.frame w) =>
    let f := frameAt (halfAt m h) (setIx l) w
    if f.hold == v || (v && decide (w < Config.floorWays)) then m else putFrame g h l (.frame w) { f with hold := v } [] m
  | _ => m

/-- The line still needs HOLD: an open group covers it and a sector of it has no result. -/
def needsHold (hs : HalfSt) (l : LineAddr) : Bool :=
  hs.groups.any fun x => match x.2 with
    | some gr => groupCovers gr l && !(gr.spilled.any fun y => y.1 == l) &&
        !((List.range 4).all fun s => (tabGet GrpSector.none gr.sectors (4 * (l.toNat - gr.base.toNat / 256) + s)).done)
    | none => false

/-- HOLD of a line as its groups leave it. -/
def refreshHold (g : Regs) (h : Half) (l : LineAddr) (m : Mach) : Mach :=
  if needsHold (halfAt m h) l then m else setHold g h false l m

/-- A group closes: its records are freed and HOLD is cleared on its lines (R345, R346). -/
def closeGroup (g : Regs) (h : Half) (gid : BitVec 6) (m : Mach) : Mach :=
  match groupAt (halfAt m h) gid with
  | none => m
  | some gr =>
    let m := freeState h gid (setGroup h gid none m)
    let m := match gr.opening with | some r => complete r .done 0 m | none => m
    (rangeLines m h (lineOf gr.base) gr.lm1.toNat).foldl (fun m l => refreshHold g h l m) m

/-- The half moves a line of a group: a packed frame or a floor way is left first, then HOLD is set (R338). While CEN is 0 the lines of
the cache ways are absent (R184). -/
def holdLine (g : Regs) (h : Half) (label : Option (BitVec 12)) (l : LineAddr) (m : Mach) : Mach :=
  let m := drainLine g h l m
  match lookup g m h l with
  | some (.frame w) =>
    if (frameAt (halfAt m h) (setIx l) w).packed || decide (w < Config.floorWays) then startMove h l label none m else setHold g h true l m
  | _ => m

/-- The moves of a GRP_OPEN have ended: it completes (R338). -/
def openingDone (h : Half) (m : Mach) : Mach :=
  (halfAt m h).groups.foldl (fun m x =>
    match x.2 with
    | some gr => match gr.opening with
      | some r =>
        if (halfAt m h).moves.any fun y => groupCovers gr y.line then m
        else complete r .done 0 (setGroup h (BitVec.ofNat 6 x.1) (some { gr with opening := none }) m)
      | none => m
    | none => m) m

/-! ## The three opcodes at the order point -/

/-- The lines of the range of a GRP_OPEN that the half homes. -/
def openLines (m : Mach) (h : Half) (r : Req) : List LineAddr := rangeLines m h (lineOf r.addr) (r.aux.extractLsb' 9 8).toNat

/-- The group storage that a GRP_OPEN needs (R347). -/
def openNeed (m : Mach) (h : Half) (r : Req) : Nat :=
  groupNeed (openLines m h r).length ((r.aux.extractLsb' 17 8).toNat + 1) (r.aux.extractLsb' 29 3).toNat (r.aux.extractLsb' 25 4).toNat

/-- The group that a GRP_OPEN opens. -/
def newGroup (r : Req) (need : Nat) : Group :=
  ⟨r.aux.extractLsb' 29 3, r.aux.extractLsb' 25 4, r.aux.extractLsb' 17 8, r.aux.extractLsb' 9 8, r.addr, r.inst, r.label, r.optag, [],
    need, [], [], [], some r, false⟩

/-- The code of a GRP_OPEN or GRP_ABORT that its order point refuses (R336, R346, R399, R566). -/
def grpRefusal (g : Regs) (m : Mach) (h : Half) (r : Req) : Option Code :=
  let hs := halfAt m h
  if r.op == .grpAbort then (if (openGroup hs (gidOf r)).isNone then some .errRefused else none)
  else if (groupAt hs (gidOf r)).isSome then some .errRefused
  else if hs.groups.length ≥ 64 || decide (groupStorage g h < groupReserved hs + openNeed m h r) then some .errOverflow
  else none

/-- GRP_OPEN, accepted (R338). -/
def grpOpenOp (g : Regs) (h : Half) (r : Req) (m : Mach) : Mach :=
  let m := setGroup h (gidOf r) (some (newGroup r (openNeed m h r))) m
  openingDone h ((openLines m h r).foldl (fun m l => holdLine g h (some r.label) l m) m)

/-- The sectors a contribution covers. -/
def contribSectors (r : Req) : List Nat := if r.size == 8 then [0, 1, 2, 3] else [(r.addr.extractLsb' 6 2).toNat]

/-- The open group that a contribution names, when it lies in the group's range (R341). -/
def contribGroup (hs : HalfSt) (r : Req) : Option Group :=
  match groupAt hs (gidOf r) with
  | some gr => if groupCovers gr (lineOf r.addr) then some gr else none
  | none => none

/-- Every sector of every group line has its result (R345). -/
def groupComplete (m : Mach) (h : Half) (gr : Group) : Bool :=
  (rangeLines m h (lineOf gr.base) gr.lm1.toNat).all fun l =>
    (List.range 4).all fun s => (tabGet GrpSector.none gr.sectors (4 * (l.toNat - gr.base.toNat / 256) + s)).done

/-- A result write has ended (R343 to R345): its sectors have their result, the line may lose HOLD, the group may close. -/
def resultWritten (g : Regs) (h : Half) (rid : Nat) (c : Code) (m : Mach) : Mach :=
  match (halfAt m h).gwrites.find? fun x => x.rid == rid with
  | none => m
  | some w =>
    let gid := BitVec.ofNat 6 w.gid
    let m := modHalf h (fun hs => { hs with gwrites := hs.gwrites.filter fun x => x.rid != rid }) m
    let m := complete w.req (if isDone c then .done else c) 0 m
    let m := match groupAt (halfAt m h) gid with
      | none => m
      | some gr =>
        if !gr.writing.contains rid then m
        else
          let gr' := { gr with
            writing := gr.writing.erase rid
            sectors := w.secs.foldl (fun t k => tabMod GrpSector.none t k fun s => { s with done := true }) gr.sectors }
          let m := setGroup h gid (some gr') m
          let m := refreshHold g h (lineOf w.req.addr) m
          if groupComplete m h gr' && !gr'.closing then closeGroup g h gid m else m
    m

/-- The tree walk of a contribution whose group state is at hand (R342 to R344). The result of the sectors it completes is written by
one WR of those sectors, ordered at once. -/
def contribWalk (g : Regs) (h : Half) (r : Req) (gr : Group) (m : Mach) : Mach :=
  let op := gr.op.toNat
  let fmt := gr.fmt.toNat
  let n := gr.nm1.toNat + 1
  let idx : BitVec 8 := r.aux.extractLsb' 8 8
  let j := (lineOf r.addr).toNat - gr.base.toNat / 256
  let step := fun (acc : Tab GrpSector × List Nat × Line × LineBE) (s : Nat) =>
    let c := contribute op fmt n idx (sectorOf r.data s) (tabGet GrpSector.none acc.1 (4 * j + s))
    let t := tabSet GrpSector.none acc.1 (4 * j + s) c.1
    match c.2 with
    | some root =>
      (t, acc.2.1 ++ [4 * j + s], withSector acc.2.2.1 s (resultSector op fmt root), acc.2.2.2 ||| beRange (64 * s) 64)
    | none => (t, acc.2)
  let (secs, doneSecs, data, be) := (contribSectors r).foldl step (gr.sectors, [], 0, 0)
  let m := storeState g h (gidOf r) { gr with sectors := secs } (lineOf r.addr) m
  if doneSecs.isEmpty then complete r .done 0 (setGroup h (gidOf r) (some { gr with sectors := secs }) m)
  else
    let (rid, m) := newId m
    let w : Req := { r with
      id := rid, origin := .grp h rid, op := .wr, addr := lineBase (lineOf r.addr), size := 8, hint := 0, aux := 0
      inst := gr.inst, label := gr.label, optag := gr.optag, data := data, be := be, bound := none, agent := none, shared := false, passed := false }
    let m := setGroup h (gidOf r) (some { gr with sectors := secs, writing := gr.writing ++ [rid] }) m
    let m := modHalf h (fun hs => { hs with gwrites := hs.gwrites ++ [⟨rid, (gidOf r).toNat, r, doneSecs⟩] }) m
    { m with again := ⟨h, w, .order⟩ :: m.again }

/-- A contribution finds that its group line is lost with the node it needs (R348). -/
def loseGroupLine (g : Regs) (h : Half) (r : Req) (gr : Group) (cause : BitVec 4) (m : Mach) : Mach :=
  failData h cause r (loseState g h (gidOf r) gr (lineOf r.addr) m)

/-- A contribution waits for its group line, which R181 left without a frame. -/
def contribNeedsFill (hs : HalfSt) (r : Req) : Bool :=
  match contribGroup hs r with
  | some gr => gr.spilled.any (fun x => x.1 == lineOf r.addr) && !gr.lost.contains (lineOf r.addr) && (locate hs (lineOf r.addr)).isNone
  | none => false

/-- The state of a line that R181 spilled is at hand again: its line has been refetched (R181). -/
def unspill (h : Half) (l : LineAddr) (m : Mach) : Mach :=
  modHalf h (fun hs => { hs with groups := hs.groups.map fun x =>
    (x.1, x.2.map fun gr => { gr with spilled := gr.spilled.filter fun y => y.1 != l }) }) m

/-- The group state of a contribution is refused at its order point (R341, R345): the GID is not open there, IDX is not below N, or the
record of a sector holds IDX already. -/
def contribRefused (hs : HalfSt) (r : Req) : Bool :=
  match contribGroup hs r with
  | none => true
  | some gr =>
    let idx : BitVec 8 := r.aux.extractLsb' 8 8
    let j := (lineOf r.addr).toNat - gr.base.toNat / 256
    gr.closing || decide (idx.toNat > gr.nm1.toNat) ||
      (contribSectors r).any fun s => (tabGet GrpSector.none gr.sectors (4 * j + s)).arrived.getLsbD idx.toNat

/-- An accepted contribution enters the arrival records at its order point (R341). -/
def acceptContrib (h : Half) (r : Req) (m : Mach) : Mach :=
  match contribGroup (halfAt m h) r with
  | none => m
  | some gr =>
    let j := (lineOf r.addr).toNat - gr.base.toNat / 256
    setGroup h (gidOf r) (some { gr with sectors := (contribSectors r).foldl (fun t s =>
      tabMod GrpSector.none t (4 * j + s) fun x => { x with arrived := x.arrived ||| (1#256 <<< (r.aux.extractLsb' 8 8).toNat) }) gr.sectors }) m

/-- An accepted contribution acts, once its spilled line is back (R181): pieces in the window are read back first (R175), the state is read
(R348), the tree is walked. -/
def contribOp (g : Regs) (h : Half) (r : Req) (m : Mach) : Mach :=
  let l := lineOf r.addr
  match contribGroup (halfAt m h) r with
  | none => refuse r .errRefused m
  | some gr =>
    if lineLost (halfAt m h) l || gr.lost.contains l then failData h lossLOST r m
    else if (halfAt m h).resOut.any (isPage (gidOf r) l) then
      readBack g h r (modHalf h (fun hs => { hs with pageWait := hs.pageWait ++ [r] }) m)
    else
      let (bad, gr, m) := readState g h (gidOf r) gr l m
      if bad then loseGroupLine g h r gr lossGROUP m
      else if gr.spilled.any fun x => x.1 == l then
        let gr' := { gr with spilled := gr.spilled.filter fun x => x.1 != l }
        contribWalk g h r gr' (holdLine g h (some gr.label) l (setGroup h (gidOf r) (some gr') m))
      else contribWalk g h r gr m

/-- The line of the window arrived, or failed (R348): once nothing of the group line's state is missing its contributions go on. -/
def pageArrive (g : Regs) (h : Half) (win : LineAddr) (ok : Bool) (m : Mach) : Mach :=
  match (halfAt m h).resOut.find? fun x => x.win == win && x.back with
  | none => m
  | some x =>
    let gone := fun (y : ResOut) => isPage x.gid x.line y && (!ok || (y.win == win && y.back))
    let m := modHalf h (fun hs => { hs with resOut := hs.resOut.filter fun y => !gone y }) m
    let mine := fun (r : Req) => gidOf r == x.gid && lineOf r.addr == x.line
    if (halfAt m h).resOut.any (isPage x.gid x.line) then m
    else
      let rs := (halfAt m h).pageWait.filter mine
      let m := modHalf h (fun hs => { hs with pageWait := hs.pageWait.filter fun r => !mine r }) m
      let on := fun (rs : List Req) (m : Mach) => { m with again := m.again ++ rs.map fun r => ⟨h, r, .data⟩ }
      match ok, rs, groupAt (halfAt m h) x.gid with
      | false, r :: t, some gr => on t (loseGroupLine g h r gr lossMEM m)
      | _, _, _ => on rs m

/-- Accepted contributions of a group that wait for a line, a move, a drain or the window. -/
def contribWaits (hs : HalfSt) (gid : BitVec 6) : Bool :=
  (hs.missWait ++ hs.miss.flatMap (·.waiters) ++ hs.moves.flatMap (·.waiters) ++ hs.merge.flatMap (·.waiters)
    ++ hs.vb.flatMap (·.waiters) ++ hs.pageWait).any fun x => x.op == .grpContrib && gidOf x == gid

/-- A group closes without further results (R346, R500): it is open no more, and what it holds is freed once the contributions ordered
before have completed. -/
def abortGroup (h : Half) (gid : BitVec 6) (m : Mach) : Mach :=
  match groupAt (halfAt m h) gid with
  | some gr => setGroup h gid (some { gr with closing := true }) m
  | none => m

/-- GRP_ABORT, accepted (R346): it completes once the contributions ordered before it have. -/
def grpAbortOp (h : Half) (r : Req) (m : Mach) : Mach :=
  modHalf h (fun hs => { hs with gaborts := hs.gaborts ++ [(gidOf r, r)] }) (abortGroup h (gidOf r) m)

/-- A closing group whose last contribution has completed. -/
def closedNow (hs : HalfSt) : Option (BitVec 6) :=
  hs.groups.findSome? fun x => match x.2 with
    | some gr =>
      let gid := BitVec.ofNat 6 x.1
      if gr.closing && !contribWaits hs gid && !(hs.gwrites.any fun y => y.gid == x.1) then some gid else none
    | none => none

/-- It is freed, and the aborts that wait for it complete. -/
def endAbort (g : Regs) (h : Half) (gid : BitVec 6) (m : Mach) : Mach :=
  let rs := ((halfAt m h).gaborts.filter fun x => x.1 == gid).map (·.2)
  completeAll rs .done 0 (closeGroup g h gid (modHalf h (fun hs => { hs with gaborts := hs.gaborts.filter fun x => x.1 != gid }) m))

/-- R181: a group line is acted on by INV or CLNINV, resident or not: its state moves away and HOLD is cleared. -/
def spillLine (g : Regs) (h : Half) (l : LineAddr) (m : Mach) : Mach :=
  if !inGroup (halfAt m h) l then m else setHold g h false l (spillAll g h l m)

end Sys2Proof.Machine
end

