-- ==== Sys2Proof/Machine/Home.lean ====
section
/-!
DEFINITION. The home of a line: what a request does to the directory (Tables 6.3 to 6.7) and what it does to the data
(chapters 04 and 05). A request that must wait is kept where it waits and goes on when that ends.
-/

namespace Sys2Proof.Machine

/-! ## What a request needs -/

/-- The label whose class governs what a request installs and reads (Table 5.4, R411); none for the Bellows and the range engine. -/
def missLabel (r : Req) : Option (BitVec 12) :=
  match r.origin with
  | .bellows | .range _ => none
  | _ => some r.label

/-- Service class of a miss (R411). -/
def missClass (g : Regs) (r : Req) : BitVec 4 := labelClass g (missLabel r)

/-- The deadline of a request: acceptance plus 8 × DL core cycles, where its class was of deadline kind at acceptance (R46, R411, R426). -/
def deadlineOf (r : Req) : Option Nat := r.dlc.map fun _ => r.accept + 8 * r.dl.toNat

/-- The bytes of the line that a request touches. -/
def spanOf (r : Req) : Nat × Nat :=
  match r.op with
  | .rdNc | .rdS | .rdU | .wr | .place | .addl | .atomR | .atomN | .grpContrib => (r.addr.toNat % 256, 2 ^ r.size.toNat)
  | _ => (0, 256)

/-- The sectors it touches. -/
def sectorsOf (r : Req) : BitVec 4 := sectorMask (spanOf r).1 (spanOf r).2

/-- Sectors whose 64 bytes a write covers entirely (R154). -/
def coveredSectors (r : Req) : BitVec 4 :=
  match r.op with
  | .zero => 0xF
  | .wr | .place =>
    (List.range 4).foldl (fun a s => if r.be.extractLsb' (64 * s) 64 == BitVec.allOnes 64 then a ||| (1#4 <<< s) else a) 0
  | _ => 0

/-- The request needs no data of the line: ZERO and a write of all 256 bytes (R154). -/
def coversLine (r : Req) : Bool := coveredSectors r == 0xF

/-- The request writes the line: its home needs XP unique of a remote line (Table 6.6). -/
def isUpdate (o : Op) : Bool :=
  match o with
  | .wr | .place | .addl | .atomR | .atomN | .zero => true
  | _ => false

/-- The package a remote request came from. -/
def reqChip (r : Req) : Option (BitVec 5) := match r.origin with | .remote c _ => some c | _ => none

/-! ## Directory decisions -/

/-- The holders other than the requester. -/
def others (e : DirEntry) (r : Req) : List Holder :=
  (holdersOf e).filter fun x => match x with
    | .agent i => r.agent != some i
    | .chip c => reqChip r != some c

/-- The snoops of Tables 6.3 to 6.5 and 6.7, with their kind. -/
def snoopsOf (e : DirEntry) (r : Req) : SnpKind × List Holder :=
  match r.op with
  | .rdS => (.down, if e.state == stU || e.state == stX then others e r else [])
  | .rdU | .upg | .wr => (.inv, others e r)
  | .addl | .atomR | .atomN | .place | .inv | .clnInv | .zero | .xsnpInv => (.inv, holdersOf e)
  | .rdNc | .pref | .cln | .pin => (.down, if e.state == stX then holdersOf e else [])
  | .xShared => (.down, if e.state == stU || e.state == stX then holdersOf e else [])
  | .xUnique | .xUpgrade => (.inv, if e.state == stX then holdersOf e else others e r)
  | _ => (.inv, [])

/-- No holder (state I; a permission stays). -/
def noHolder (e : DirEntry) : DirEntry := { e with agents := 0, chips := 0, state := 0, owner := 0, ochip := 0 }

/-- Next state of Tables 6.3 to 6.5; `had` is the answer of the agent that held the line unique. -/
def nextDir (e : DirEntry) (r : Req) (had : Bool) : DirEntry :=
  let a : BitVec 64 := match r.agent with | some i => agentBit i | none => 0
  let ownU := e.state == stU && r.agent == some e.owner
  let settled := fun (x : DirEntry) => settleState x
  match r.op with
  | .rdS =>
    if ownU then e
    else if e.state == stU then
      settled { e with agents := (if had then agentBit e.owner else 0) ||| a, owner := 0, state := stS }
    else if e.state == stX then settled { e with agents := a, chips := chipBit e.ochip, ochip := 0, state := stS }
    else settled { e with agents := e.agents ||| a, state := stS }
  | .rdU | .upg =>
    match r.agent with
    | some i => { e with agents := agentBit i, chips := 0, ochip := 0, owner := i, state := stU }
    | none => noHolder e
  | .wr =>
    if ownU then e
    else if e.state == stS && e.agents &&& a != 0 then { e with agents := a, chips := 0 }
    else noHolder e
  | .addl | .atomR | .atomN | .place | .inv | .clnInv | .zero | .xsnpInv => noHolder e
  | .rdNc | .pref | .cln | .pin =>
    if e.state == stX then { e with chips := chipBit e.ochip, ochip := 0, state := stS } else e
  | .evict => match r.agent with | some i => dropHolder (.agent i) e | none => e
  | .xShared =>
    let q : BitVec 32 := match reqChip r with | some c => chipBit c | none => 0
    if e.state == stU then { e with agents := if had then e.agents else 0, owner := 0, chips := q, state := stS }
    else if e.state == stX then { e with chips := chipBit e.ochip ||| q, ochip := 0, state := stS }
    else { e with chips := e.chips ||| q, state := stS }
  | .xUnique | .xUpgrade =>
    match reqChip r with
    | some c => { e with agents := 0, owner := 0, chips := chipBit c, ochip := c, state := stX }
    | none => e
  | _ => e

/-- What the directory decides for the completion: DONE_SHARED of RD_S, or an upgrade that needs no line. -/
def sharedOf (e : DirEntry) (r : Req) (had : Bool) : Bool :=
  match r.op with
  | .rdS => !(others (nextDir e r had) r).isEmpty
  | .xUpgrade => e.state == stS && (match reqChip r with | some c => holds e (.chip c) | none => false)
  | _ => false

/-- The request keeps its line locked from its order point to its completion even where it snoops nobody: a PLACE (R209), a grant of
state X, a group's result write (R343). -/
def locksLine (r : Req) : Bool :=
  r.op == .place || r.op == .xUnique || r.op == .xUpgrade || (match r.origin with | .grp .. => true | _ => false)

/-! ## Small effects -/

/-- A hit makes a frame the youngest (R146). What a fill has just brought is no hit (R155). The spec does not say which requests hit: those
that read or write the line's data do, ZERO and a prefetch request too; UPG, CLN, EVICT and an XSNP leave AGE as it is (DESIGN CHOICE,
log 122). -/
def touch (g : Regs) (h : Half) (r : Req) (m : Mach) : Mach :=
  let l := lineOf r.addr
  match locate (halfAt m h) l with
  | some (.frame w) =>
    let f := frameAt (halfAt m h) (setIx l) w
    if r.filled || f.age == 0 then m else putFrame g h l (.frame w) { f with age := 0 } [] m
  | _ => m

/-- Lookup for a request: one that is past its lookup finds its line whatever CEN says now (R185). -/
def lookupFor (g : Regs) (m : Mach) (h : Half) (r : Req) : Option Loc :=
  if r.looked then locate (halfAt m h) (lineOf r.addr) else lookup g m h (lineOf r.addr)

/-- The victim entry of a line is to be recalled (R150). -/
def wantRecall (h : Half) (r : Req) (slot : Nat) (wait : Bool) (m : Mach) : Mach :=
  modHalf h (fun hs => { hs with vb := hs.vb.map fun e =>
    if e.slot == slot then
      { e with recalled := some (e.recalled.getD (missLabel r)), waiters := if wait then e.waiters ++ [r] else e.waiters }
    else e }) m

/-- The SETTLED report of a write, once (R243, R244). -/
def settleReport (r : Req) (m : Mach) : Req × Mach :=
  ({ r with bound := none }, reportBytes r.bound (countedBytes r) false true m)

/-- XRSP with the line to the package that asked (R210, R212). -/
def answerX (r : Req) (line : Option Line) (ds : BitVec 4) (m : Mach) : Mach :=
  match r.origin with
  | .remote chip rtag => sendTo 2 chip (.xrsp chip rtag .done line ds) { m with finished := m.finished ++ [(r, .done)] }
  | _ => m

/-- A read completes with its data (Table 6.3). -/
def answerRead (r : Req) (data : Line) (m : Mach) : Mach :=
  match r.op with
  | .xShared => answerX r (some data) 0 m
  | .rdS => complete r (if r.shared then .doneShared else .done) data m
  | _ => complete r .done data m

/-- The request meets a lost line (Table 14.3). -/
def meetsLost (h : Half) (r : Req) (m : Mach) : Mach :=
  match r.origin with
  | .bellows => complete r .done 0 m
  | .remote .. => complete r .errData 0 m
  | _ => failData h lossLOST r m

/-- The entry of cause DATA for a line lost by a code word of the frame that holds it, which it names (R469). -/
def wordLoss (m : Mach) (h : Half) (l : LineAddr) : LossEntry :=
  match locate (halfAt m h) l with
  | some (.frame w) => lossWord lossDATA h l w (setIx l).toNat
  | _ => lossLine lossDATA h l

/-- The request found the uncorrectable error that made its line lost, and makes its entry (R444). -/
def endInError (e : LossEntry) (r : Req) (m : Mach) : Mach :=
  complete r (if r.origin == .bellows then .done else .errData) 0 (logLoss e m)

/-- It found the error in a code word of the line's frame. -/
def metError (h : Half) (r : Req) (m : Mach) : Mach := endInError (wordLoss m h (lineOf r.addr)) r m

/-- The line gained a holder while in a packed frame: it moves out (R139). -/
def moveIfPacked (h : Half) (r : Req) (m : Mach) : Mach :=
  if isPackedLine (halfAt m h) (lineOf r.addr) then startMove h (lineOf r.addr) (missLabel r) none m else m

/-- Wait for the end of the line's move (R140). -/
def waitMove (h : Half) (r : Req) (m : Mach) : Mach :=
  modHalf h (fun hs => { hs with moves := hs.moves.map fun x => if x.line == lineOf r.addr then { x with waiters := x.waiters ++ [r] } else x }) m

/-- Requests that waited in the victim entry of a line go on when the line leaves it. -/
def releaseVb (h : Half) (l : LineAddr) (m : Mach) : Mach :=
  let rs := (halfAt m h).vb.flatMap fun e => e.waiters.filter fun r => lineOf r.addr == l
  let m := modHalf h (fun hs => { hs with vb := hs.vb.map fun e =>
    { e with waiters := e.waiters.filter fun r => lineOf r.addr != l } }) m
  { m with again := m.again ++ rs.map fun r => ⟨h, r, .data⟩ }

/-- The line leaves the half without a writeback: its merge entries, its group state (R181), its frame. -/
def dropResident (g : Regs) (h : Half) (l : LineAddr) (m : Mach) : Mach :=
  releaseVb h l (dropLine g h l (spillLine g h l (discardMerges h l m)))

/-! ## Misses (R153 to R155) -/

/-- Wait at the lookup stage. -/
def waitMiss (h : Half) (r : Req) (m : Mach) : Mach := modHalf h (fun hs => { hs with missWait := hs.missWait ++ [r] }) m

/-- Join a miss-tracker entry. -/
def joinMiss (h : Half) (l : LineAddr) (r : Req) (m : Mach) : Mach :=
  modHalf h (fun hs => { hs with miss := hs.miss.map fun e => if e.line == l then { e with waiters := e.waiters ++ [r] } else e }) m

/-- The sectors a miss reads from memory (R154); while CEN is 0 only the request's own (R184). -/
def missSectors (g : Regs) (h : Half) (r : Req) : BitVec 4 :=
  let need : BitVec 4 := if g.hc[h].cen then 0xF else sectorsOf r
  need &&& ~~~coveredSectors r

/-- The miss-tracker entry of a request. -/
def newMiss (g : Regs) (h : Half) (r : Req) (smask : BitVec 4) (kind : Option XKind) : MissEntry :=
  let pre := r.origin == .bellows
  ⟨lineOf r.addr, smask, 0, smask == 0 && kind.isNone, if r.op == .zero then 0xF else 0, if pre then [] else [r], pre,
    !g.hc[h].cen && r.op != .pin, kind, missLabel r, false⟩

/-- A prefetch that misses is dropped: few tracker entries are free (R157), or nobody can answer it. -/
def dropsPrefetch (hs : HalfSt) (r : Req) (reachable : Bool) : Bool :=
  r.origin == .bellows && (decide (missCount hs > Config.missEntries - Config.prefetchFloor) || !reachable)

/-- A miss waits at the lookup stage: an earlier one to its line does, or the tracker is full (R153). -/
def missWaits (hs : HalfSt) (l : LineAddr) : Bool :=
  hs.missWait.any (fun x => lineOf x.addr == l) || hs.refetch.contains l || decide (missCount hs ≥ Config.missEntries)

/-- Who a miss counts for in the profiling counters. -/
def missWho (r : Req) : Option (BitVec 12 × BitVec 16) := if r.origin == .bellows then some (0, 0) else who r

/-- A request misses on a line of package memory: it joins the fill of a refetch that its own read began (R443), waits for a tracker entry, or
allocates one and sends its READ. One whose line has a WRITE pending (R89) waits at the lookup stage too, and has no entry meanwhile, so MISS
of HCn_CSTAT does not count it (DESIGN CHOICE, log 116). -/
def missStart (g : Regs) (h : Half) (r : Req) (m : Mach) : Mach :=
  let l := lineOf r.addr
  let hs := halfAt m h
  let pre := r.origin == .bellows
  if (missOf hs l).isSome then (if pre then complete r .done 0 m else joinMiss h l r m)
  else if dropsPrefetch hs r (chanJoined m h) then complete r .done 0 m
  else if missWaits hs l || writePending m h l || atomicPending m h l then waitMiss h r m
  else
    let sm := missSectors g h r
    let m' := profile g h 0x03 (missWho r) 1 (modHalf h (fun hs => { hs with miss := hs.miss ++ [newMiss g h r sm none] }) m)
    if sm == 0 then m'
    else if !chanJoined m h then failData h lossMEM r m
    else queueRead h ⟨0, l, sm, .fill, missClass g r, pre, deadlineOf r, if pre then 0 else r.label, if pre then 0 else r.optag,
      if pre then 0 else r.inst⟩ m'

/-- The permission a request needs at the local home is not held: XREQ (Table 6.6, R447). -/
def askOwner (g : Regs) (h : Half) (r : Req) (m : Mach) : Mach :=
  let l := lineOf r.addr
  let hs := halfAt m h
  let chip := ownerChip (lineBase l)
  if (missOf hs l).isSome then (if r.origin == .bellows then complete r .done 0 m else joinMiss h l r m)
  else if dropsPrefetch hs r (chipJoined m chip) then complete r .done 0 m
  else if missWaits hs l then waitMiss h r m
  else if !chipJoined m chip then failData h lossDEPART r m
  else
    let kind : XKind := if !isUpdate r.op then .shared else if (dirOf hs l).xp == 1 then .upgrade else .unique
    startRemote chip (.fill h l kind) (profile g h 0x03 (missWho r) 1
      (modHalf h (fun hs => { hs with miss := hs.miss ++ [newMiss g h r 0xF (some kind)] }) m))

/-- The request must fetch its line: from memory, or from the owner of a remote line. -/
def fetchLine (g : Regs) (h : Half) (r : Req) (m : Mach) : Mach :=
  if isPackage m (lineBase (lineOf r.addr)) then missStart g h r m else askOwner g h r m

/-- A line arrived without a READ: it is installed by FILL_INSTALL, and the requests wait for that (R214, Table 6.3). -/
def arriveLine (h : Half) (l : LineAddr) (data : Line) (dirty : BitVec 4) (ws : List Req) (m : Mach) : Mach :=
  modHalf h (fun hs => { hs with miss := hs.miss ++
    [⟨l, 0, data, true, dirty, ws, false, false, none, ws.head?.bind missLabel, true⟩] }) m

/-! ## Drains that a request triggers (R143) -/

/-- Wait for the end of the drain of a merge-buffer entry. -/
def waitMerge (h : Half) (slot : Nat) (r : Req) (m : Mach) : Mach :=
  modHalf h (fun hs => { hs with merge := hs.merge.map fun x =>
    if x.slot == slot then { x with waiters := x.waiters ++ [r] } else x }) m

/-- Drain the line's entries of the given sectors. True when the request must wait, where it now waits: for the fill of a refetch, for the
move that a drain needs first, or for the last drain. A move that a visit of the range engine needs is the engine's (R177). -/
def drainFirst (g : Regs) (h : Half) (r : Req) (secs : BitVec 4) (m : Mach) : Bool × Mach :=
  let l := lineOf r.addr
  let mine := fun (hs : HalfSt) => hs.merge.filter fun e => e.line == l && secs.getLsbD e.sec.val
  if (mine (halfAt m h)).isEmpty then (false, m)
  else
    let m := (mine (halfAt m h)).foldl (fun m e => startDrain g h e m) m
    let range := match r.origin with | .range _ => true | _ => false
    let m := modHalf h (fun hs => { hs with moves := hs.moves.map fun x => if x.line == l then { x with range := x.range || range } else x }) m
    if (missOf (halfAt m h) l).isSome then (true, joinMiss h l r m)
    else if (halfAt m h).refetch.contains l then (true, waitMiss h r m)
    else if (halfAt m h).moves.any fun x => x.line == l then (true, waitMove h r m)
    else match (mine (halfAt m h)).getLast? with
      | none => (false, m)
      | some e => (true, waitMerge h e.slot r m)

/-- Wait for the response of the last WRITE of a line that waits or is outstanding (Table 4.9). -/
def waitWrite (h : Half) (l : LineAddr) (r : Req) (m : Mach) : Mach :=
  modChan h (fun ch =>
    let add := fun (x : WrCmd) => if x.line == l then { x with waiters := x.waiters ++ [r] } else x
    if ch.writeQ.any fun x => x.line == l then { ch with writeQ := ch.writeQ.map add } else { ch with writeO := ch.writeO.map add }) m

/-! ## Reads -/

/-- RD_NC, RD_S, RD_U, PREF and XREQ shared on their line (R150, R155, R443, R444). -/
def readHit (g : Regs) (h : Half) (r : Req) (m : Mach) : Mach :=
  let l := lineOf r.addr
  match lookupFor g m h r with
  | none => fetchLine g h r m
  | some p =>
    if (lineOfLoc (halfAt m h) l p).lost then meetsLost h r m
    else if r.op == .pref then
      let m := if r.origin == .bellows then m else match p with | .frame _ => touch g h r m | .vb s => wantRecall h r s false m
      complete r .done 0 m
    else
      let secs := if r.op == .xShared then 0xF else sectorsOf r
      let (busy, m) := drainFirst g h r secs m
      if busy then m
      else match lookupFor g m h r with
        | none => fetchLine g h r m
        | some q =>
          let (ok, m) := readSectors g h (some r) l q secs m
          if !ok then (if lineLost (halfAt m h) l then metError h r m else fetchLine g h r m)
          else
            let data := (lineOfLoc (halfAt m h) l q).data
            let m := match q with | .frame _ => touch g h r m | .vb s => wantRecall h r s false m
            let m := answerRead r data m
            if r.op == .rdS || r.op == .rdU then moveIfPacked h r m else m

/-! ## Writes and updates -/

/-- The bytes that an update writes to a sector, given the sector's current bytes: enables and data. -/
def sectorWrite (be : LineBE) (data : Line) (s : Nat) : BitVec 64 × Sector := (be.extractLsb' (64 * s) 64, sectorOf data s)

/-- Every 32-byte code word of the sectors is enabled whole or not at all (R142). -/
def wholeWords (be : LineBE) : Bool :=
  (List.range 8).all fun k =>
    let x := be.extractLsb' (32 * k) 32
    x == 0 || x == BitVec.allOnes 32

/-- A write of whole code words of raw sectors goes straight to the banks (R142). -/
def writeDirect (g : Regs) (h : Half) (l : LineAddr) (p : Loc) (be : LineBE) (data : Line) (m : Mach) : Mach :=
  let secs : BitVec 4 := (List.range 4).foldl (fun a s => if be.extractLsb' (64 * s) 64 != 0 then a ||| (1#4 <<< s) else a) 0
  let ks := allWords.filter fun k => be.extractLsb' (32 * k) 32 != 0
  modLineSt g h l p ks (fun x => { x with data := mergeBytes be data x.data, dirty := x.dirty ||| secs }) m

/-- Put the enabled bytes of a sector into the merge buffer, which has room. -/
def mergePut (g : Regs) (h : Half) (r : Req) (be : LineBE) (data : Line) (m : Mach) (s : Nat) : Mach :=
  let (b, d) := sectorWrite be data s
  match mergeOf (halfAt m h) (lineOf r.addr) s with
  | some e => setMerge g h { e with data := mergeSector b d e.data, be := e.be ||| b, label := missLabel r } m
  | none =>
    let slot := ((List.range Config.mergeEntries).find? fun i => !((halfAt m h).merge.any fun e => e.slot == i)).getD 0
    let e : MergeEntry := ⟨slot, lineOf r.addr, ⟨s % 4, Nat.mod_lt _ (by decide)⟩, d &&& sectorByteMask b, b, missLabel r, false, []⟩
    setMerge g h e (modHalf h (fun hs => { hs with merge := hs.merge ++ [e] }) m)

/-- Put the enabled bytes of a line into the merge buffer (R143). The request waits, where it now waits, while a sector's entry drains, or
while all 16 are in use, which drains the oldest; else its bytes are in. Where the oldest was lost to an error, the request goes on before
those that waited with it (R232). -/
def mergeIn (g : Regs) (h : Half) (r : Req) (be : LineBE) (data : Line) (m : Mach) : Bool × Mach :=
  let l := lineOf r.addr
  let hs := halfAt m h
  let secs := (List.range 4).filter fun s => be.extractLsb' (64 * s) 64 != 0
  match secs.findSome? fun s => (mergeOf hs l s).filter (·.draining) with
  | some e => (true, waitMerge h e.slot r m)
  | none =>
    let new := secs.filter fun s => (mergeOf hs l s).isNone
    match (if hs.merge.length + new.length > Config.mergeEntries then hs.merge.head? else none) with
    | some e =>
      let m := startDrain g h e m
      if (halfAt m h).merge.any fun x => x.slot == e.slot && x.line == e.line then (true, waitMerge h e.slot r m)
      else (true, { m with again := ⟨h, r, .data⟩ :: m.again })
    | none =>
      (false, secs.foldl (fun m s =>
        match mergeOf (halfAt m h) l s with
        | some e => if e.be == BitVec.allOnes 64 then startDrain g h e m else m
        | none => m) (secs.foldl (mergePut g h r be data) m))

/-- The PLACE snoop of a delivery leaves; the line stays locked until its answer (R209). Nothing can fail the write any more: it is settled
(R244). -/
def placeSnoop (g : Regs) (h : Half) (r : Req) (d : Line) (m : Mach) : Mach :=
  let (r, m) := settleReport r m
  let t : BitVec 6 := r.aux.extractLsb' 0 6
  let m := setConf h (lineOf r.addr) (some (newConf (lineOf r.addr) .placing (some r) [.agent t])) m
  snoopHolder g h (lineOf r.addr) .place d r.inst r.gen (.agent t) m

/-- The line of a PLACE reaches its target (R209): its sectors drain, its words are read, the PLACE snoop leaves. -/
def placeDeliver (g : Regs) (h : Half) (r : Req) (m : Mach) : Mach :=
  let l := lineOf r.addr
  let (busy, m) := drainFirst g h r 0xF m
  if busy then m
  else match lookupFor g m h r with
    | none => fetchLine g h r m
    | some p =>
      if (lineOfLoc (halfAt m h) l p).lost then meetsLost h r m
      else
        let (ok, m) := readSectors g h (some r) l p 0xF m
        if !ok then (if lineLost (halfAt m h) l then metError h r m else fetchLine g h r m)
        else placeSnoop g h r (lineOfLoc (halfAt m h) l p).data m

/-- The write's bytes are in place: they are settled (R244, R249, log 96) and it completes, or a PLACE goes on to its delivery. -/
def wrote (g : Regs) (h : Half) (r : Req) (m : Mach) : Mach :=
  if r.op == .place then placeDeliver g h { r with be := 0 } m
  else
    let (r, m) := settleReport r m
    complete r .done 0 m

/-- A write must leave its packed frame first: the half no longer packs (R33, R139). -/
def leavesPacked (g : Regs) (m : Mach) (h : Half) (l : LineAddr) : Bool := isPackedLine (halfAt m h) l && g.hc[h].cmode != 2

/-- A write goes straight to the banks (R142): whole code words of raw sectors of a single-line frame, no merge entry of them. A frame
being copied by a remap takes writes through the merge buffer (R459). A write that touches an encoded sector or a part word anywhere goes
there as a whole (DESIGN CHOICE, log 121). -/
def writesDirect (m : Mach) (h : Half) (r : Req) (w : Nat) : Bool :=
  let l := lineOf r.addr
  let fr := frameAt (halfAt m h) (setIx l) w
  let touched := fun s => r.be.extractLsb' (64 * s) 64 != 0
  let copying := match (halfAt m h).rcopy with | some c => c.way.toNat == w && c.set == setIx l | none => false
  !fr.packed && wholeWords r.be && !copying &&
    (List.range 4).all fun s => !touched s || (descSz (lineDesc fr.lines[lineIx l] s) == 3 && (mergeOf (halfAt m h) l s).isNone)

/-- WR and the write of a PLACE on a resident line (R139, R142, R150). -/
def writeHit (g : Regs) (h : Half) (r : Req) (p : Loc) (m : Mach) : Mach :=
  let l := lineOf r.addr
  match p with
  | .vb s => wantRecall h r s true m
  | .frame w =>
    let m := touch g h r m
    if leavesPacked g m h l then startMove h l (missLabel r) (some r) m
    else if writesDirect m h r w then wrote g h r (writeDirect g h l p r.be r.data m)
    else
      let (busy, m) := mergeIn g h r r.be r.data m
      if busy then m else wrote g h r m

/-- Float add of AOP 0x10 and the other operations of Table 2.8 on `w`-bit operands; none keeps the old value. -/
def atomResult (aop w : Nat) (old op new : BitVec 64) : Option (BitVec 64) :=
  let o := old.truncate w
  let x := op.truncate w
  let some' := fun (v : BitVec w) => some (v.setWidth 64)
  match aop with
  | 0 => some' (o + x)
  | 1 => some' (o &&& x)
  | 2 => some' (o ||| x)
  | 3 => some' (o ^^^ x)
  | 4 => some' x
  | 5 => if o == x then some' (new.truncate w) else none
  | 6 => some' (if x.slt o then x else o)
  | 7 => some' (if o.slt x then x else o)
  | 8 => some' (if x.ult o then x else o)
  | 9 => some' (if o.ult x then x else o)
  | _ => some (BitVec.ofNat 64 (addElement 1 o.toNat x.toNat))

/-- An atomic on a line: the line with the result, its byte enables, and the old value (R222, R56, R60). -/
def atomOn (r : Req) (d : Line) : Line × LineBE × BitVec 64 :=
  let n := 2 ^ r.size.toNat
  let off := r.addr.toNat % 256
  let old : BitVec 64 := ((d >>> (8 * off)).setWidth 64) &&& BitVec.ofNat 64 (2 ^ (8 * n) - 1)
  match atomResult (r.aux.extractLsb' 0 5).toNat (8 * n) old (r.data.extractLsb' 0 64) (r.data.extractLsb' 64 64) with
  | none => (d, 0, old)
  | some v =>
    let be := beRange off n
    (mergeBytes be (v.setWidth 2048 <<< (8 * off)) d, be, old)

/-- ADDL on a line: the element-wise sum over the covered bytes (Table 2.7). -/
def addlOn (r : Req) (d : Line) : Line × LineBE × BitVec 64 :=
  let fmt := (r.aux.extractLsb' 0 4).toNat
  let w := elementBits fmt
  let off := r.addr.toNat % 256
  let n := 2 ^ r.size.toNat
  let v := (List.range (8 * n / w)).foldl (fun (a : Line) i =>
    let p := 8 * off + w * i
    let s := addElement fmt (d.extractLsb' p w).toNat (r.data.extractLsb' p w).toNat
    a ||| (BitVec.ofNat 2048 s <<< p)) 0
  (mergeBytes (beRange off n) v d, beRange off n, 0)

/-- The line after an ADDL or an atomic. -/
def updateOn (r : Req) (d : Line) : Line × LineBE × BitVec 64 := if r.op == .addl then addlOn r d else atomOn r d

/-- What a write makes of its line: the line, the sectors it writes, and the value that its completion returns. -/
def updateLine (r : Req) (d : Line) : Line × BitVec 4 × Line :=
  let secs := fun (be : LineBE) => (List.range 4).foldl (fun (a : BitVec 4) s => if be.extractLsb' (64 * s) 64 != 0 then a ||| (1#4 <<< s) else a) 0
  match r.op with
  | .wr | .place => (mergeBytes r.be r.data d, secs r.be, 0)
  | .zero => (0, 0xF, 0)
  | .addl | .atomR | .atomN =>
    let (v, be, old) := updateOn r d
    (v, if be == 0 then 0 else sectorsOf r, old.setWidth 2048)
  | _ => (d, 0, 0)

/-- A write whose bytes are on their way to memory: what it does when the response comes. A PLACE then delivers the line. -/
def awaitWrite (r : Req) (d old : Line) : Req := if r.op == .place then { r with be := 0, given := some d } else { r with given := some old }

/-- ADDL and atomics on their resident line, through the merge buffer (R142, R222). -/
def updateHit (g : Regs) (h : Half) (r : Req) (p : Loc) (m : Mach) : Mach :=
  let l := lineOf r.addr
  match p with
  | .vb s => wantRecall h r s true m
  | .frame _ =>
    let m := touch g h r m
    if leavesPacked g m h l then startMove h l (missLabel r) (some r) m
    else match (halfAt m h).merge.find? fun e => e.line == l && e.draining && (sectorsOf r).getLsbD e.sec.val with
      | some e => waitMerge h e.slot r m
      | none =>
        let (ok, m) := readSectors g h (some r) l p (sectorsOf r) m
        if !ok then (if lineLost (halfAt m h) l then metError h r m else fetchLine g h r m)
        else
          let d := mergedData (halfAt m h) l (lineOfLoc (halfAt m h) l p).data
          let (v, be, old) := updateOn r d
          let (busy, m) := mergeIn g h r be v m
          if busy then m
          else
            let (r, m) := settleReport r m
            complete r .done (old.setWidth 2048) m

/-! ## Line maintenance (Table 2.6, R152, R181, R211, R446, R447) -/

/-- Write the dirty sectors of a line back from where it stands; the request goes on with the response. -/
def flushLine (g : Regs) (h : Half) (r : Req) (p : Loc) (m : Mach) : Mach :=
  let l := lineOf r.addr
  let st := lineOfLoc (halfAt m h) l p
  let (ok, m) := readSectors g h (some r) l p (if isPackage m (lineBase l) then st.dirty else 0xF) m
  if !ok then metError h r m
  else
    let d := (lineOfLoc (halfAt m h) l p).data
    let r := if r.op == .cln then { r with given := some 0 } else r
    writeBack g h l st.dirty st.dirty d [r] none (cleanBits g h l m)

/-- CLN: the line is written back if dirty and kept (Table 6.4, R247). -/
def clnLine (g : Regs) (h : Half) (r : Req) (m : Mach) : Mach :=
  let l := lineOf r.addr
  let (busy, m) := drainFirst g h r 0xF m
  if busy then m
  else if writePending m h l then waitWrite h l r m
  else match lookupFor g m h r with
    | none => complete r .done 0 m
    | some p =>
      let st := lineOfLoc (halfAt m h) l p
      let clean := st.dirty == 0 || !(isPackage m (lineBase l) || xpUnique m h l)
      if st.lost || clean then complete r .done 0 m else flushLine g h r p m

/-- The line leaves the half, with its group state spilled (R181), and the request is done. INV and CLNINV drop a line of a cache way that
CEN = 0 hides too, unread and unwritten (R185, R186). -/
def dropDone (g : Regs) (h : Half) (r : Req) (m : Mach) : Mach := complete r .done 0 (dropResident g h (lineOf r.addr) m)

/-- INV and CLNINV of a remote line (Table 6.6, R447): with XP unique the line goes back by XWB. -/
def invRemote (g : Regs) (h : Half) (r : Req) (m : Mach) : Mach :=
  let l := lineOf r.addr
  match lookupFor g m h r with
  | none => dropDone g h r m
  | some p =>
    if lineLost (halfAt m h) l || !xpUnique m h l then dropDone g h r m
    else
      let (ok, m) := readSectors g h (some r) l p 0xF m
      if !ok then metError h r m
      else
        let st := lineOfLoc (halfAt m h) l p
        let m := writeBack g h l st.dirty st.dirty st.data [{ r with given := some 0 }] none m
        if lineLost (halfAt m h) l then m else dropResident g h l m

/-- INV: the line is dropped without writeback (R208). -/
def invLine (g : Regs) (h : Half) (r : Req) (m : Mach) : Mach :=
  let (busy, m) := drainFirst g h r 0xF m
  if busy then m
  else if isPackage m r.addr then dropDone g h r m
  else invRemote g h r m

/-- CLNINV: written back if dirty, then dropped once every WRITE of the line has its response (Table 4.9). -/
def clnInvLine (g : Regs) (h : Half) (r : Req) (m : Mach) : Mach :=
  let l := lineOf r.addr
  let (busy, m) := drainFirst g h r 0xF m
  if busy then m
  else if !isPackage m r.addr then invRemote g h r m
  else if writePending m h l then waitWrite h l r m
  else match lookupFor g m h r with
    | none => dropDone g h r m
    | some p =>
      let st := lineOfLoc (halfAt m h) l p
      if st.lost || st.dirty == 0 then dropDone g h r m else flushLine g h r p m

/-- ZERO: the line is set to zero where it stands, after a recall from the victim buffer (R152) or a move out of a packed frame without
room or of a half that no longer packs (R139), or installed without a read (R154, R208). A lost line, which no move takes out of its packed
frame, is dropped for that install (Table 14.3). -/
def zeroLine (g : Regs) (h : Half) (r : Req) (m : Mach) : Mach :=
  let l := lineOf r.addr
  let (busy, m) := drainFirst g h r 0xF m
  if busy then m
  else match lookupFor g m h r with
    | some (.frame w) =>
      if overwriteFits g m h l (.frame w) 0 && (!leavesPacked g m h l || lineLost (halfAt m h) l) then
        let (r, m) := settleReport r (touch g h r (overwriteLine g h l (.frame w) 0 0xF m))
        complete r .done 0 m
      else if lineLost (halfAt m h) l then missStart g h r (removeLine g h l m)
      else startMove h l (missLabel r) (some r) m
    | some (.vb s) => wantRecall h r s true m
    | none => missStart g h r m

/-! ## Packages (R210, R212) -/

/-- XREQ unique and upgrade once the directory holds state X: the dirty copy is written back, the frame dropped, the line sent. -/
def takeAway (g : Regs) (h : Half) (r : Req) (m : Mach) : Mach :=
  let l := lineOf r.addr
  let noLine := r.op == .xUpgrade && r.shared
  let (busy, m) := drainFirst g h r 0xF m
  if busy then m
  else if writePending m h l then waitWrite h l r m
  else match lookupFor g m h r with
    | none => if noLine then answerX r none 0 m else missStart g h r m
    | some p =>
      let st := lineOfLoc (halfAt m h) l p
      if st.lost then meetsLost h r m
      else if st.dirty != 0 then flushLine g h r p m
      else
        let (ok, m) := readSectors g h (some r) l p 0xF m
        if !ok then (if lineLost (halfAt m h) l then metError h r m else if noLine then answerX r none 0 m else missStart g h r m)
        else
          let d := (lineOfLoc (halfAt m h) l p).data
          answerX r (if noLine then none else some d) 0 (dropResident g h l m)

/-- XP of a remote line changes. -/
def setXp (g : Regs) (h : Half) (l : LineAddr) (xp : BitVec 2) (m : Mach) : Mach :=
  setDir g h l true { dirOf (halfAt m h) l with xp := xp } m

/-- Table 6.7 and R447, once the local holders have answered. -/
def answerXsnp (g : Regs) (h : Half) (r : Req) (m : Mach) : Mach :=
  let l := lineOf r.addr
  let inv := r.op == .xsnpInv
  if !xpUnique m h l then
    if inv then answerX r none 0 (setXp g h l 0 (dropResident g h l m)) else answerX r none 0 m
  else
    let (busy, m) := drainFirst g h r 0xF m
    if busy then m
    else match locate (halfAt m h) l with
      | none => complete r .errData 0 (setXp g h l 0 m)
      | some p =>
        let gone := fun m => complete r .errData 0 (setXp g h l 0 (dropResident g h l m))
        if (lineOfLoc (halfAt m h) l p).lost then gone m
        else
          let (ok, m) := readSectors g h (some r) l p 0xF m
          if !ok then gone (logLoss (wordLoss m h l) m)
          else
            let st := lineOfLoc (halfAt m h) l p
            if inv then answerX r (some st.data) st.dirty (setXp g h l 0 (dropResident g h l m))
            else answerX r (some st.data) st.dirty (setXp g h l 1 (cleanBits g h l m))

/-! ## Pinning (R172, R178, R180) -/

/-- A free frame of a Hearth way that the line's region names, the lowest. -/
def pinWay (g : Regs) (m : Mach) (h : Half) (l : LineAddr) : Option Nat :=
  match regionOf g (lineBase l) with
  | none => none
  | some k => (List.range Config.ways).find? fun w =>
      g.hr[k].ways.getLsbD w && wayUse g h w == 1 && isFree (frameAt (halfAt m h) (setIx l) w)

/-- The line is put into a Hearth way and pinned; without a free frame the operation stops, ERR_OVERFLOW to the range engine. -/
def pinInto (g : Regs) (h : Half) (r : Req) (data : Line) (dirty : BitVec 4) (m : Mach) : Mach :=
  let l := lineOf r.addr
  match pinWay g m h l with
  | none => complete r .errOverflow 0 m
  | some w =>
    let m := releaseVb h l (dropLine g h l m)
    complete r .done 0 (putFrame g h l (.frame w) { singleFrame l (freshLine g h data dirty true) 0 with pinned := true } allWords m)

/-- A pinned line: one in a Hearth way put there by PIN. -/
def isPinned (g : Regs) (m : Mach) (h : Half) (l : LineAddr) : Bool :=
  match locate (halfAt m h) l with
  | some (.frame w) => (frameAt (halfAt m h) (setIx l) w).pinned && wayUse g h w == 1
  | _ => false

/-- PIN of one line. -/
def pinLine (g : Regs) (h : Half) (r : Req) (m : Mach) : Mach :=
  let l := lineOf r.addr
  let (busy, m) := drainFirst g h r 0xF m
  if busy then m
  else if isPinned g m h l then complete r .done 0 m
  else match lookupFor g m h r with
    | none => if (pinWay g m h l).isNone then complete r .errOverflow 0 m else missStart g h r m
    | some p =>
      let (ok, m) := readSectors g h (some r) l p 0xF m
      if !ok then (if lineLost (halfAt m h) l then metError h r m else missStart g h r m)
      else
        let st := lineOfLoc (halfAt m h) l p
        pinInto g h r st.data st.dirty m

/-- UNPIN of one line: written back if dirty, then dropped. A lost line stays (R445). -/
def unpinLine (g : Regs) (h : Half) (r : Req) (m : Mach) : Mach :=
  let l := lineOf r.addr
  let (busy, m) := drainFirst g h r 0xF m
  if busy then m
  else if writePending m h l then waitWrite h l r m
  else match locate (halfAt m h) l with
    | none => complete r .done 0 m
    | some p =>
      let st := lineOfLoc (halfAt m h) l p
      if st.lost then complete r .done 0 m
      else if st.dirty == 0 then complete r .done 0 (dropResident g h l m)
      else flushLine g h r p m

/-! ## A line that arrived without an install (R147, R155, R184, R445) -/

/-- A request acts on a line that no frame takes: reads are answered, writes go back at once and are settled with the response. -/
def actGiven (g : Regs) (h : Half) (r : Req) (d : Line) (m : Mach) : Mach :=
  let l := lineOf r.addr
  match r.op with
  | .wr | .zero | .addl | .atomR | .atomN =>
    let (v, secs, old) := updateLine r d
    if secs == 0 then complete (settleReport r m).1 .done old (settleReport r m).2
    else writeBack g h l secs secs v [awaitWrite r v old] none m
  | .place =>
    if r.be == 0 then placeSnoop g h r d m
    else
      let (v, secs, old) := updateLine r d
      writeBack g h l secs secs v [awaitWrite r v old] none m
  | .upg | .pref | .cln => complete r .done 0 m
  | .xUnique | .xUpgrade => answerX r (some d) 0 m
  | .grpContrib => contribOp g h r m
  | .pin => pinInto g h r d 0 m
  | _ => answerRead r d m

/-! ## The data phase -/

/-- An earlier request to the line waits for a drain, a recall or a tracker entry: this one waits behind it (R232). An XSNP waits for no
tracker entry, which other packages may hold up. -/
def waitsInLine (h : Half) (r : Req) (m : Mach) : Option Mach :=
  let hs := halfAt m h
  let has := fun (ws : List Req) => ws.any fun x => lineOf x.addr == lineOf r.addr
  match hs.merge.find? fun e => has e.waiters with
  | some e => some (waitMerge h e.slot r m)
  | none => match hs.vb.find? fun e => has e.waiters with
    | some e => some (modVb h e.slot (fun e => { e with waiters := e.waiters ++ [r] }) m)
    | none => match hs.moves.find? fun x => x.line == lineOf r.addr with
      | some _ => some (waitMove h r m)
      | none =>
        if (has hs.missWait || hs.refetch.contains (lineOf r.addr)) && r.op != .xsnpDown && r.op != .xsnpInv then some (waitMiss h r m) else none

/-- A request joins the fill of its line, or waits for another where this one does not bring all that it needs (R153, R184). -/
def joinFill (g : Regs) (h : Half) (e : MissEntry) (r : Req) (m : Mach) : Mach :=
  if r.origin == .bellows then complete r .done 0 m
  else if e.noFill && e.smask != 0xF && (missSectors g h r &&& ~~~e.smask != 0 || e.smask == 0) then waitMiss h r m
  else joinMiss h (lineOf r.addr) r m

/-- A write meets its line: on a hit it is written, whole it needs no fetch (R154), else the line is fetched. -/
def writeOn (g : Regs) (h : Half) (r : Req) (m : Mach) : Mach :=
  match lookupFor g m h r with
  | some p => writeHit g h r p m
  | none => if coversLine r then missStart g h r m else fetchLine g h r m

/-- What a request does with its line, nothing of it being in flight. -/
def lineOp (g : Regs) (h : Half) (r : Req) (m : Mach) : Mach :=
  match r.op with
  | .rdNc | .rdS | .rdU | .pref | .xShared => readHit g h r m
  | .wr => writeOn g h r m
  | .place => if r.be == 0 then placeDeliver g h r m else writeOn g h r m
  | .addl | .atomR | .atomN => match lookupFor g m h r with
    | some p => updateHit g h r p m
    | none => fetchLine g h r m
  | .cln => clnLine g h r m
  | .inv => invLine g h r m
  | .clnInv => clnInvLine g h r m
  | .zero => zeroLine g h r m
  | .grpContrib => if contribNeedsFill (halfAt m h) r && !r.filled then missStart g h r m else contribOp g h r m
  | .xUnique | .xUpgrade => takeAway g h r m
  | .xsnpDown | .xsnpInv => answerXsnp g h r m
  | .pin => pinLine g h r m
  | .unpin => unpinLine g h r m
  | _ => complete r .done 0 m

/-- The requests that a lost line ends (Table 14.3) at their data. -/
def lostData (o : Op) : Bool :=
  (isUpdate o && o != .zero) || o == .rdNc || o == .rdS || o == .rdU || o == .pref || o == .xShared

/-- A request whose directory part is done acts on its line, in its turn. -/
def dataPhase (g : Regs) (h : Half) (r : Req) (m : Mach) : Mach :=
  match r.given with
  | some d => actGiven g h r d m
  | none =>
    let l := lineOf r.addr
    let xs := r.op == .xsnpDown || r.op == .xsnpInv
    let r := { r with looked := r.looked || (lookup g m h l).isSome }
    if r.op == .evict then complete r .done 0 (tryPack g h l m)
    else if r.op == .upg then moveIfPacked h r (complete r .done 0 m)
    else match (missOf (halfAt m h) l).filter fun e => !xs || e.arrived with
      | some e => joinFill g h e r m
      | none => match waitsInLine h r m with
        | some m' => if r.origin == .bellows then complete r .done 0 m else m'
        | none =>
          let lost := match lookupFor g m h r with | some p => (lineOfLoc (halfAt m h) l p).lost | none => false
          if lost && lostData r.op then meetsLost h r m else lineOp g h r m

end Sys2Proof.Machine
end

