-- ==== Sys2Proof/Machine/Order.lean ====
section
/-!
DEFINITION. The order point of a half (R198 to R204, R214 to R217, R222 to R226, R566): what makes a request wait there, what it
does in its turn, how the answers to its snoops resume it.
-/

namespace Sys2Proof.Machine

/-! ## The dirty-page logger (R507 to R510) -/

/-- The range page that a write logs, when the logger follows its instance (R508). Range operations and save records log nothing, those
forwarded from another slice (Table 3.19) among them. -/
def loggedPage (g : Regs) (r : Req) : Option Nat :=
  let off := r.addr.toNat - g.dlRbase.toNat * 2 ^ 30
  let unit := match r.origin with
    | .save => true
    | .range _ => true
    | .bellows => true
    | .fwd _ _ sport txn int => int && sport == 2 && decide (256 ≤ txn.toNat) && decide (txn.toNat < 320)
    | _ => false
  if g.dlEn && isUpdate r.op && r.inst == g.dlInst && !unit && decide (g.dlRbase.toNat * 2 ^ 30 ≤ r.addr.toNat)
      && decide (off / 4096 < g.dlPages.toNat) then some (off / 4096) else none

/-- First byte of the active bitmap. -/
def bitmapBase (g : Regs) : Nat :=
  if g.dlAct then g.dlBBH.toNat * 2 ^ 32 + g.dlBBL.toNat * 2 ^ 12 else g.dlBAH.toNat * 2 ^ 32 + g.dlBAL.toNat * 2 ^ 12

/-- The word of a page in the active bitmap (R507). -/
def bitmapWord (g : Regs) (page : Nat) : Addr := BitVec.ofNat 52 (bitmapBase g + 8 * (page / 64))

/-- Forwarded ORs in flight (Table 3.19). -/
def loggerOut (m : Mach) : Nat := (m.coh.fwdOut.filter fun x => x.int && x.sport == 2 && decide (x.txn.toNat < 256)).length

/-- The logger holds the page, and the write waits at its order point (R97). -/
def loggerHolds (g : Regs) (m : Mach) (h : Half) (r : Req) : Bool :=
  match loggedPage g r with
  | none => false
  | some p => !m.vi.filter.contains p && homeSlice m h (bitmapWord g p) != ownSlice m && decide (loggerOut m ≥ 256)

/-- A write logs its page: a filter miss enters the filter and sends one OR (R509). -/
def logPage (g : Regs) (r : Req) (m : Mach) : Mach :=
  match loggedPage g r with
  | none => m
  | some p =>
    if m.vi.filter.contains p then m
    else
      let (id, m) := newId m
      let f := m.vi.filter ++ [p]
      let or : Req := { r with
        id := id, origin := .logger, op := .atomN, lane := false, txn := 0, addr := bitmapWord g p, size := 3, hint := 0, label := 0
        optag := 0, inst := 0, gen := 0, dl := 0, aux := 2, data := BitVec.ofNat 2048 (2 ^ (p % 64)), be := beRange 0 8
        bound := none, agent := none, shared := false, passed := false, given := none, dlc := none, filled := false, fresh := false
        looked := false }
      { m with
        vi := { m.vi with filter := if f.length > 256 then f.drop 1 else f, orsOut := m.vi.orsOut ++ [id], ors := m.vi.ors + 1 }
        todo := m.todo ++ [or] }

/-! ## The contention predictor (R223 to R226) -/

/-- Counter of an address (R223). -/
def predIndex (a : Addr) : Nat :=
  let p := a.extractLsb' 12 40
  (p.extractLsb' 0 10 ^^^ p.extractLsb' 10 10 ^^^ p.extractLsb' 20 10 ^^^ p.extractLsb' 30 10).toNat

/-- Bit of an AOP in the AOPS field of the memory controller's hello (Table 3.9). -/
def aopBit (aop : Nat) : Nat := if aop == 16 then 10 else aop

/-- The line is absent everywhere in the half (R224). -/
def lineAbsent (m : Mach) (h : Half) (l : LineAddr) : Bool :=
  (locate (halfAt m h) l).isNone && !((halfAt m h).merge.any fun e => e.line == l) && (missOf (halfAt m h) l).isNone

/-- The atomic goes to memory (R224). -/
def goesToMemory (g : Regs) (m : Mach) (h : Half) (r : Req) : Bool :=
  let l := lineOf r.addr
  let ctr := (tabGet 0 (halfAt m h).pred (predIndex r.addr)).toNat
  let ch := chanAt m h
  isPackage m r.addr && ((g.predMode == 0 && decide (ctr ≤ 1)) || g.predMode == 2)
    && chanJoined m h && ch.atm && ch.aops.getLsbD (aopBit (r.aux.extractLsb' 0 5).toNat)
    && decide (ch.atomQ.length + ch.atomO.length < Config.atomicsOut)
    && lineAbsent m h l && !dirLive (dirOf (halfAt m h) l)
    && (regionOf g r.addr).isNone && !inReservation m r.addr

/-- The atomic trains its counter (R225). -/
def trainPred (h : Half) (r : Req) (m : Mach) : Mach :=
  let l := lineOf r.addr
  let hot := (locate (halfAt m h) l).isSome || (halfAt m h).merge.any (fun e => e.line == l)
    || !(holdersOf (dirOf (halfAt m h) l)).isEmpty || atomicPending m h l
  modHalf h (fun hs => { hs with pred := tabMod 0 hs.pred (predIndex r.addr) fun c =>
    if hot then (if c == 3 then c else c + 1) else (if c == 0 then c else c - 1) }) m

/-! ## Directory entries (R215, R216, R220) -/

/-- A line whose last holder has left may be packed (R138). -/
def packAfter (g : Regs) (h : Half) (l : LineAddr) (before : DirEntry) (m : Mach) : Mach :=
  let e := dirOf (halfAt m h) l
  if (before.agents != 0 || before.chips != 0) && e.agents == 0 && e.chips == 0 then tryPack g h l m else m

/-- Write the entry of a line whose holders change. -/
def putHolders (g : Regs) (h : Half) (l : LineAddr) (e : DirEntry) (m : Mach) : Mach :=
  packAfter g h l (dirOf (halfAt m h) l) (setDir g h l (!isPackage m (lineBase l)) e m)

/-- The home clears dead indices and departed packages from the line's entry before it orders the request (R220, R221). -/
def cleanLine (g : Regs) (h : Half) (l : LineAddr) (m : Mach) : Mach :=
  match dirWay (halfAt m h) l with
  | none => m
  | some w =>
    let e := dirSlot (halfAt m h) (dirSet l) w
    let e' := cleanEntry m.coh.dead m.coh.gone e
    if e' == e then m
    else
      let m := if e.state == stX && m.coh.gone.getLsbD e.ochip.toNat then logLoss (lossLine lossXLOST h l) m else m
      packAfter g h l e (putDir g h (dirSet l) w e' m)

/-- Lines, other than this one, that will take an entry of the set when what they wait for comes. -/
def dirReserved (hs : HalfSt) (l : LineAddr) : Nat :=
  let ls := (hs.conf.map (·.line) ++ (hs.miss.filter (·.xreq.isSome)).map (·.line)).eraseDups
  (ls.filter fun x => x != l && dirSet x == dirSet l && (dirWay hs x).isNone).length

/-- The request may need an entry that its line does not have. -/
def wantsEntry (m : Mach) (h : Half) (r : Req) : Bool :=
  let needs := match r.op with
    | .rdS | .rdU | .upg | .place | .xShared | .xUnique | .xUpgrade => true
    | .rdNc => !isPackage m r.addr && r.hint != 2
    | .pref | .cln | .wr | .addl | .atomR | .atomN | .zero => !isPackage m r.addr
    | _ => false
  needs && (dirWay (halfAt m h) (lineOf r.addr)).isNone

/-- A way of the set is free for the line. -/
def dirRoom (hs : HalfSt) (l : LineAddr) : Bool :=
  decide (dirReserved hs l < ((List.range Config.dirWays).filter fun w => !dirLive (dirSlot hs (dirSet l) w)).length)

/-- Eligible victims of a set (R215): no conflict entry, no hold window, no memory ATOMIC. -/
def dirVictims (m : Mach) (h : Half) (l : LineAddr) : List Nat :=
  let hs := halfAt m h
  (List.range Config.dirWays).filter fun w =>
    let e := dirSlot hs (dirSet l) w
    let x := dirLine (dirSet l) e.tag
    dirLive e && (confOf hs x).isNone && (winOf hs x).isNone && !atomicPending m h x

/-- The victim of R215 and the ages added to every eligible way. -/
def dirVictim (m : Mach) (h : Half) (l : LineAddr) : Option (Nat × Nat) :=
  let ws := dirVictims m h l
  let age := fun w => (dirSlot (halfAt m h) (dirSet l) w).age.toNat
  let top := ws.foldl (fun a w => max a (age w)) 0
  (ws.find? fun w => age w == top).map fun w => (w, 3 - top)

/-- Read the merge-buffer entries of a line: true when one is uncorrectable. Its entries are discarded and the line becomes lost
(Table 14.2); `log` makes the entry of cause DATA where no request is to make it. -/
def readMerges (g : Regs) (h : Half) (l : LineAddr) (log : Bool) (m : Mach) : Bool × Mach :=
  if m.ras.errs.isEmpty then (false, m)
  else
    let (bad, m) := ((halfAt m h).merge.filter fun e => e.line == l).foldl
      (fun (acc : Bool × Mach) e => let r := readMergeEntry g h e acc.2; (acc.1 || r.1, r.2)) (false, m)
    if bad then (true, loseLine g h none l (if log then logLoss (lossLine lossDATA h l) m else m)) else (false, m)

/-- A line of remote memory leaves the half (R213, R216): with XP unique it goes back to its owner, with the bytes of the merge buffer. Its
code words are read first (R449). -/
def returnLine (g : Regs) (h : Half) (l : LineAddr) (m : Mach) : Mach :=
  let m := (readMerges g h l true m).2
  match locate (halfAt m h) l with
  | none => m
  | some p =>
    if lineLost (halfAt m h) l then m
    else if !xpUnique m h l then dropResident g h l m
    else
      let (ok, m) := readSectors g h none l p 0xF m
      if !ok then m
      else
        let st := lineOfLoc (halfAt m h) l p
        let ds := st.dirty ||| mergedSectors (halfAt m h) l
        let m := writeBack g h l ds ds (mergedData (halfAt m h) l st.data) [] none m
        if lineLost (halfAt m h) l then m else dropResident g h l m

/-- The entry of a back-invalidated line is freed once every answer is in (R216). -/
def freeVictim (g : Regs) (h : Half) (l : LineAddr) (m : Mach) : Mach :=
  putHolders g h l DirEntry.free (if isPackage m (lineBase l) then m else returnLine g h l m)

/-- A request needs room in a full set: the victim's holders are snooped (R216). -/
def backInvalidate (g : Regs) (h : Half) (r : Req) (m : Mach) : Mach :=
  let l := lineOf r.addr
  match dirVictim m h l with
  | none => m
  | some (w, n) =>
    let m := (dirVictims m h l).foldl (fun m v =>
      let e := dirSlot (halfAt m h) (dirSet l) v
      if n == 0 then m else putDir g h (dirSet l) v { e with age := e.age + BitVec.ofNat 2 n } m) m
    let e := dirSlot (halfAt m h) (dirSet l) w
    let x := dirLine (dirSet l) e.tag
    let m := profile g h 0x08 none 1 (modHalf h (fun hs => { hs with binv := hs.binv + 1 }) m)
    let xs := holdersOf e
    if xs.isEmpty then
      let m := freeVictim g h x m
      { m with again := ⟨h, r, .order⟩ :: m.again }
    else snoopAll g h x .inv xs (setConf h x (some (newConf x .backInv (some r) xs)) m)

/-! ## Waiting at the order point (R201, R204, R217) -/

/-- A request of the winner whose hold window runs: it is served without waiting (R204). -/
def winnerPasses (m : Mach) (h : Half) (r : Req) : Bool :=
  let e := dirOf (halfAt m h) (lineOf r.addr)
  e.state == stU && r.agent == some e.owner && (snoopsOf e r).2.isEmpty &&
    (halfAt m h).wins.any fun w => w.line == lineOf r.addr && w.holder == .agent e.owner

/-- Another request holds the line. -/
def lineBusy (m : Mach) (h : Half) (r : Req) : Bool :=
  let l := lineOf r.addr
  let hs := halfAt m h
  let mine := fun (c : Conf) => match c.req with | some x => x.id == r.id | none => false
  let held := match confOf hs l with
    | some c => !mine c && !(c.why == .acting && winnerPasses m h r)
    | none => false
  let behind := hs.conf.any fun c => c.why == .backInv && !mine c && (match c.req with | some x => lineOf x.addr == l | none => false)
  held || behind || atomicPending m h l || hs.pageWait.any fun x => lineOf x.addr == l

/-- The request is ordered by its line. -/
def isLineOp (o : Op) : Bool :=
  match o with
  | .grpOpen | .grpAbort | .ctrAdd | .ctrRead | .ctrReset | .wait | .invoke => false
  | _ => true

/-- The request needs a conflict-tracker entry. -/
def wantsConf (m : Mach) (h : Half) (r : Req) : Bool :=
  isLineOp r.op && (confOf (halfAt m h) (lineOf r.addr)).isNone &&
    (locksLine r || !(snoopsOf (dirOf (halfAt m h) (lineOf r.addr)) r).2.isEmpty)

/-- The program table of a half names a program for an INVOKE (R358). -/
def hasProgram (g : Regs) (h : Half) (r : Req) : Bool :=
  (List.range 256).any fun i =>
    let e := tabGet ⟨0, false, 0, false, 0⟩ g.ptab (256 * h.val + i)
    e.optag == r.optag && (e.v0 || e.v1)

/-- What makes a request wait at the order point, apart from requests ahead of it (R201, R215, R217, R359, R97). -/
def pointBlocked (g : Regs) (m : Mach) (h : Half) (r : Req) : Bool :=
  let hs := halfAt m h
  let full := decide (hs.conf.length ≥ Config.conflictEntries)
  match r.op with
  | .invoke => hasProgram g h r && decide (hs.iq.length ≥ Config.invokeEntries)
  | .grpOpen => (groupAt hs (gidOf r)).any (·.closing)
  | .grpAbort | .ctrAdd | .ctrRead | .ctrReset | .wait => false
  | _ =>
    lineBusy m h r || (wantsConf m h r && full) || loggerHolds g m h r ||
      (wantsEntry m h r && !dirRoom hs (lineOf r.addr) && (full || (dirVictim m h (lineOf r.addr)).isNone))

/-- An opcode of a group. -/
def isGroupOp (o : Op) : Bool := o == .grpOpen || o == .grpContrib || o == .grpAbort

/-- A request already waiting must go first: one to the line, unless this one is the winner's (R204); an INVOKE, for one with a program
(R358); a GRP_OPEN of the GID, which waits for the end of an abort (R346, log 115). -/
def waitsBehind (g : Regs) (m : Mach) (h : Half) (r : Req) (ahead : List Req) : Bool :=
  ahead.any fun x =>
    (isLineOp r.op && isLineOp x.op && lineOf x.addr == lineOf r.addr && !winnerPasses m h r)
      || (r.op == .invoke && x.op == .invoke && hasProgram g h r)
      || (x.op == .grpOpen && isGroupOp r.op && gidOf x == gidOf r)

/-! ## Acting on the directory -/

/-- Write the next state of the line's entry. -/
def applyDir (g : Regs) (h : Half) (r : Req) (had : Bool) (m : Mach) : Mach :=
  let l := lineOf r.addr
  let e := dirOf (halfAt m h) l
  let e' := nextDir e r had
  if dirLive e || dirLive e' then putHolders g h l e' m else m

/-- The request puts its agent into AGENTS, or its package into CHIPS. -/
def joinsAgents (e : DirEntry) (r : Req) (had : Bool) : Bool :=
  match r.agent, reqChip r with
  | some i, _ => !e.agents.getLsbD i.toNat && (nextDir e r had).agents.getLsbD i.toNat
  | none, some c => !e.chips.getLsbD c.toNat && (nextDir e r had).chips.getLsbD c.toNat
  | none, none => false

/-- The line is lost: the requests of the first and last rows of Table 14.3 end here. -/
def lostEnds (o : Op) : Bool :=
  match o with
  | .rdNc | .rdS | .rdU | .upg | .pref | .wr | .place | .addl | .atomR | .atomN | .xShared | .xUnique | .xUpgrade => true
  | _ => false

/-- Every snoop is answered: the directory takes its next state, the line stays locked to the end of the request where it must
(R201), and the request acts on the line. `ret` is the line that a package in state X returned. A line that became lost meanwhile ends it
(R465). -/
def act (g : Regs) (h : Half) (r : Req) (had : Bool) (ret : Option Line) (m : Mach) : Mach :=
  let l := lineOf r.addr
  let mine := match confOf (halfAt m h) l with | some c => (match c.req with | some x => x.id == r.id | none => false) | none => false
  if ret.isNone && lostSeen g m h l && lostEnds r.op then meetsLost h r (if mine then setConf h l none m else m)
  else
  let e := dirOf (halfAt m h) l
  let r := { r with shared := sharedOf e r had || r.shared, fresh := joinsAgents e r had }
  let m := applyDir g h r had m
  let m := match confOf (halfAt m h) l with
    | some c =>
      if (match c.req with | some x => x.id == r.id | none => false) then setConf h l (some { newConf l .completing (some r) [] with had := had }) m
      else m
    | none => if locksLine r then setConf h l (some (newConf l .completing (some r) [])) m else m
  match ret with
  | none => dataPhase g h r m
  | some d =>
    match r.op with
    | .xUnique | .xUpgrade => answerX r (some d) 0 m
    | .inv | .zero => dataPhase g h r m
    | .cln | .clnInv => writeBack g h l 0xF 0xF d [r] none m
    | _ => arriveLine h l d 0xF [r] m

/-- The directory stage: the snoops of the tables, or none (R206 to R211). A prefetch that hits does nothing (R157). -/
def directoryStage (g : Regs) (h : Half) (r : Req) (m : Mach) : Mach :=
  let l := lineOf r.addr
  let e := dirOf (halfAt m h) l
  let (kind, xs) := snoopsOf e r
  if r.origin == .bellows && (lookup g m h l).isSome then complete r .done 0 m
  else if xs.isEmpty then act g h r false none m
  else snoopAll g h l kind xs (setConf h l (some (newConf l .acting (some r) xs)) m)

/-- The permission that the local home holds suffices (Table 6.6). XP unique without a frame counts as none (R447), but for a whole line whose
own XREQ has just brought it. -/
def permitted (g : Regs) (m : Mach) (h : Half) (r : Req) : Bool :=
  let l := lineOf r.addr
  let xp := (dirOf (halfAt m h) l).xp
  let here := (lookup g m h l).isSome
  match r.op with
  | .evict | .inv | .clnInv | .xsnpDown | .xsnpInv => true
  | _ =>
    r.given.isSome ||
      (if isUpdate r.op then xp == 2 && (here || (r.filled && coversLine r)) else xp != 0 && here)

/-- XWB at the owner's home (Table 6.5, R214): the line installs dirty, or is discarded and logged. -/
def xwbOp (g : Regs) (h : Half) (r : Req) (m : Mach) : Mach :=
  let l := lineOf r.addr
  let e := dirOf (halfAt m h) l
  match reqChip r with
  | none => m
  | some q =>
    if e.state == stX && e.ochip == q then
      let m := setDir g h l false { e with state := stS, ochip := 0 } m
      complete r .done 0 (arriveLine h l r.data 0xF [] m)
    else complete r .done 0 (logVio (vioMessage 6 5 (lineBase l)) m)

/-- An opcode that its order point refuses (R566): an INVOKE without a program (R358), a group opcode by the state of its group. -/
def pointRefusal (g : Regs) (m : Mach) (h : Half) (r : Req) : Option Code :=
  match r.op with
  | .invoke => if hasProgram g h r then none else some .errRefused
  | .grpOpen | .grpAbort => grpRefusal g m h r
  | .grpContrib => if contribRefused (halfAt m h) r then some .errRefused else none
  | _ => none

/-- INVOKE at the order point (R359): it is queued. -/
def invokeOp (h : Half) (r : Req) (m : Mach) : Mach := modHalf h (fun hs => { hs with iq := hs.iq ++ [r] }) m

/-- What the profiling counters see of a request at its order point (Table 17.2): it passes, it hits in a frame or in the victim buffer,
it contributes to a group. -/
def profPoint (g : Regs) (h : Half) (r : Req) (m : Mach) : Mach :=
  match r.origin with
  | .range _ => m
  | _ =>
    let m := profile g h 0x01 (who r) 1 m
    let looks := isUpdate r.op || r.op == .rdNc || r.op == .rdS || r.op == .rdU || r.op == .pref
    let m := match looks, lookup g m h (lineOf r.addr) with
      | true, some (.frame _) => profile g h 0x02 (who r) 1 m
      | true, some (.vb _) => profile g h 0x04 (who r) 1 m
      | _, _ => m
    if r.op == .grpContrib then profile g h 0x12 (who r) 1 m else m

/-- The reports and counts of the order point, once per request: LANDED (R243, R245), the page log (R508), the training (R225). -/
def passPoint (g : Regs) (h : Half) (r : Req) (m : Mach) : Req × Mach :=
  if r.passed then (r, m)
  else
    let counted := match r.origin with | .grp .. => false | .range _ => false | _ => countedBytes r != 0
    let t := if counted then bindingOf g r.addr else none
    let m := profPoint g h r (reportBytes t (countedBytes r) true false m)
    let m := logPage g r m
    let m := if r.op == .atomR || r.op == .atomN then trainPred h r m else m
    ({ r with bound := t, passed := true }, m)

/-! ## Errors in control arrays (R440, R455) -/

/-- A control array of a half, or a slice-wide array (Table 14.2). -/
def isControl (a : Arr) : Bool := a == .ctl || a == .sliceArr

/-- Read a code word of a control array: an uncorrectable one is a cause of the safe state of its half, or of both halves (R440, R455). -/
def readControl (g : Regs) (h : Half) (a : Arr) (i : Nat) (m : Mach) : Mach :=
  let r := readWord g h a i m
  if !r.1 then r.2.2
  else if a == .sliceArr then bothHalves.foldl (fun m k => causeSafe k 5 0 m) r.2.2
  else causeSafe h 4 0 r.2.2

/-- A stored error of the control arrays that has not acted yet. They are read all the time. -/
def controlError (m : Mach) : Option ErrWord :=
  let acted := fun (h : Half) => (halfAt m h).safe || (halfAt m h).safeDue.isSome
  m.ras.errs.find? fun e => isControl e.arr &&
    match eccRead e.mask with
    | .clean _ => false
    | .corrected _ => !(halfAt m e.half).wback.contains (e.arr, e.idx)
    | .bad => if e.arr == .sliceArr then bothHalves.any fun h => !acted h else !acted e.half

/-- A half in its safe state answers a request that reaches it (Table 14.8). -/
def safeAnswer (h : Half) (r : Req) (m : Mach) : Mach :=
  complete r .errSafe 0 (if r.op == .xwb then logLoss (lossLine lossXLOST h (lineOf r.addr)) m else m)

/-- A line request is ordered: it counts and logs at the point even where it ends in an error (R244, R508). One whose lookup finds a cause of the
safe state is not completed when the half enters it. -/
def orderLine (g : Regs) (h : Half) (r : Req) (m : Mach) : Mach :=
  let l := lineOf r.addr
  let (bad, m) := readMerges g h l (!lostEnds r.op) (cleanLine g h l (readLookup g h l m))
  let ends := (halfAt m h).safeDue.isSome || (bad && lostEnds r.op)
  if !ends && wantsEntry m h r && !dirRoom (halfAt m h) l then backInvalidate g h r m
  else match pointRefusal g m h r with
  | some c => refuse r c m
  | none =>
    let toMem := !r.passed && (r.op == .atomR || r.op == .atomN) && goesToMemory g m h r
    let (r, m) := passPoint g h r m
    if (halfAt m h).safeDue.isSome then safeAnswer h r m
    else if bad && lostEnds r.op then endInError (lossLine lossDATA h l) r m
    else if lostSeen g m h l && lostEnds r.op then meetsLost h r m
    else if toMem then modChan h (fun ch => { ch with atomQ := ch.atomQ ++ [⟨0, r, missClass g r⟩] }) m
    else if r.op == .xwb then xwbOp g h r m
    else if r.op == .grpContrib then dataPhase g h r (acceptContrib h r m)
    else if isPackage m r.addr || permitted g m h r then directoryStage g h r m
    else askOwner g h r m

/-- A request is ordered: it passes the order point, whose pointer moves past its source (R199). -/
def orderNow (g : Regs) (h : Half) (r : Req) (m : Mach) : Mach :=
  let m := modHalf h (fun hs => { hs with ordPtr := nextPtr hs.ordPtr r }) m
  match r.op with
  | .grpOpen | .grpAbort | .invoke => match pointRefusal g m h r with
    | some c => refuse r c m
    | none =>
      let m := profPoint g h r m
      if r.op == .grpOpen then grpOpenOp g h r m else if r.op == .grpAbort then grpAbortOp h r m else invokeOp h r m
  | .ctrAdd => counterOp g r m
  | .ctrRead => counterOp g r m
  | .ctrReset => counterOp g r m
  | .wait => counterOp g r m
  | _ => orderLine g h r m

/-- A request reaches the order point of its home half, or the counter unit: it is ordered, or it waits (R201). A half whose clocks are
stopped takes it as a demand, and so does one in the tail of a stop (R478, R481). -/
def orderAt (g : Regs) (h : Half) (r : Req) (m : Mach) : Mach :=
  let m := rouse h m
  if !clocked m h then modHalf h (fun hs => { hs with opWait := hs.opWait ++ [r] }) m
  else if isCounterOp r.op then counterOp g r m
  else if (halfAt m h).safe then safeAnswer h r m
  else if waitsBehind g m h r (halfAt m h).opWait || pointBlocked g m h r then
    modHalf h (fun hs => { hs with opWait := hs.opWait ++ [r] }) m
  else orderNow g h r m

/-- The first waiting request that nothing holds any more, with those that stay. -/
def nextWaiter (g : Regs) (m : Mach) (h : Half) (ahead rest : List Req) : Option (Req × List Req) :=
  match rest with
  | [] => none
  | r :: t =>
    if waitsBehind g m h r ahead || pointBlocked g m h r then nextWaiter g m h (ahead ++ [r]) t
    else some (r, ahead ++ t)

/-! ## Answers -/

/-- A conflict-tracker entry with nothing left to wait for resumes (R202). -/
def advanceConf (g : Regs) (h : Half) (c : Conf) (m : Mach) : Mach :=
  let m := setConf h c.line (some c) m
  if !c.pend.isEmpty || c.waitXwb.isSome then m
  else match c.why, c.req with
    | .acting, some r => act g h r c.had c.ret m
    | .placing, some r =>
      let l := c.line
      let e := dirOf (halfAt m h) l
      let t : BitVec 6 := r.aux.extractLsb' 0 6
      let m := if c.had then
          moveIfPacked h r (setDir g h l (!isPackage m (lineBase l)) { noHolder e with agents := agentBit t, state := stS } m)
        else m
      complete r .done 0 (setConf h l (some { c with why := .completing }) m)
    | .backInv, some r =>
      let l := c.line
      let m := setConf h l none m
      let m := match c.ret with | some d => arriveLine h l d 0xF [] m | none => m
      let m := freeVictim g h l m
      { m with again := ⟨h, r, .order⟩ :: m.again }
    | .lost, _ => setConf h c.line none m
    | _, _ => m

/-- The answer of a holder to a snoop of the half. -/
def answerConf (g : Regs) (a : SnpAns) (m : Mach) : Mach :=
  match confOf (halfAt m a.half) a.line with
  | none => m
  | some c =>
    if !c.pend.contains a.holder then m
    else advanceConf g a.half { c with pend := c.pend.erase a.holder, had := c.had || a.had } m

/-- The XRSP of a package to an XSNP of the owner's home, or what its departure stands for (R212, R214, R217, R448). -/
def answerChip (g : Regs) (h : Half) (l : LineAddr) (chip : BitVec 5) (code : Code) (line : Option Line) (m : Mach) : Mach :=
  match confOf (halfAt m h) l with
  | none => m
  | some c =>
    if !c.pend.contains (.chip chip) then m
    else
      let e := dirOf (halfAt m h) l
      let owner := e.state == stX && e.ochip == chip
      let c := { c with pend := c.pend.erase (.chip chip) }
      if !isDone code then
        let m := if owner then logLoss (lossLine lossXLOST h l) m else m
        advanceConf g h c (putHolders g h l (dropHolder (.chip chip) { e with state := if owner then stS else e.state }) m)
      else match line with
        | some d => advanceConf g h (if owner then { c with ret := some d } else c) m
        | none => advanceConf g h (if owner && c.ret.isNone then { c with waitXwb := some chip } else c) m

/-- An XWB reaches a home that waits for it: its line stands for the answer (R214). -/
def xwbAwaited (m : Mach) (h : Half) (r : Req) : Option Conf :=
  match reqChip r, confOf (halfAt m h) (lineOf r.addr) with
  | some q, some c =>
    let e := dirOf (halfAt m h) (lineOf r.addr)
    if c.waitXwb == some q || (e.state == stX && e.ochip == q && c.pend.contains (.chip q)) then some c else none
  | _, _ => none

/-- XWB arrives at the owner's home (R210, R214). -/
def xwbArrive (g : Regs) (h : Half) (r : Req) (m : Mach) : Mach :=
  if (halfAt m h).safe then safeAnswer h r m
  else match xwbAwaited m h r with
    | some c => advanceConf g h { c with ret := some r.data, waitXwb := none } (complete r .done 0 m)
    | none => orderAt g h r m

/-! ## The end of a request at its home -/

/-- A request is over: its conflict-tracker entry is released, and a winner's hold window starts (R201, R203). -/
def finishAt (h : Half) (r : Req) (c : Code) (m : Mach) : Mach :=
  let l := lineOf r.addr
  let m := match confOf (halfAt m h) l with
    | some x => if (match x.req with | some y => y.id == r.id | none => false) && x.why == .completing then setConf h l none m else m
    | none => m
  let e := dirOf (halfAt m h) l
  let wins := match r.op with
    | .xUnique | .xUpgrade => e.state == stX && reqChip r == some e.ochip
    | _ => e.state == stU && r.agent == some e.owner
  if wins && isDone c && isLineOp r.op then
    startWindow h l (match r.op with | .xUnique | .xUpgrade => .chip e.ochip | _ => .agent e.owner) m
  else m

/-- A request is over: only the home half of this slice holds something for it. -/
def finishReq (r : Req) (c : Code) (m : Mach) : Mach :=
  if !isLineOp r.op || sliceOf m r.addr != ownSlice m then m else finishAt (homeHalf m r.addr) r c m

/-! ## The range engine's lines (R177, R180, R192) -/

/-- The request of a visited line has ended: the line is counted, or PIN stops for lack of a frame. -/
def rangeLineDone (r : Req) (c : Code) (m : Mach) : Mach :=
  let e := { m.re with out := m.re.out.erase r.id }
  { m with re :=
    if c == .errOverflow then
      (if e.failV then e else { e with stop := true, result := 2, failV := true, fail := lineOf r.addr })
    else { e with lines := e.lines + 1 } }

/-- ABORT, and the safe state of a half (R183, Table 14.8). -/
def rangeAbort (m : Mach) : Mach :=
  if m.re.busy && !m.re.stop then { m with re := { m.re with stop := true, result := 1 } } else m

end Sys2Proof.Machine
end

