-- ==== Sys2Proof/Machine/Request.lean ====
section
/-!
DEFINITION. A request on its way to its home: the checks of the parse (R73 to R75), regulation (R415 to R419), the range tracker
(R69, R250), forwarding (R96, R97), the Bellows (R156, R157).
-/

namespace Sys2Proof.Machine

/-! ## The checks of R73 -/

/-- AUX bits an opcode uses (Table 2.7). -/
def auxMask (o : Op) : BitVec 32 :=
  match o with
  | .atomR => 0x1F | .atomN => 0x1F | .addl => 0xF | .place => 0x3F
  | .grpOpen => 0xFFFFFE3F | .grpContrib => 0xFF3F | .grpAbort => 0x3F
  | .ctrAdd => 0xFFFFFFFF | .wait => 0xFFFFFFFF | .invoke => 0xFFFFFFFF
  | _ => 0

/-- A used AUX field holds a reserved value (R51, R52). -/
def auxReserved (o : Op) (size : BitVec 4) (aux : BitVec 32) : Bool :=
  match o with
  | .atomR => !(decide ((aux.extractLsb' 0 5).toNat ≤ 9) || ((aux.extractLsb' 0 5) == 16 && size == 2))
  | .atomN => !(decide ((aux.extractLsb' 0 5).toNat ≤ 9) || ((aux.extractLsb' 0 5) == 16 && size == 2))
  | .addl => decide ((aux.extractLsb' 0 4).toNat > 3)
  | .grpOpen => !grpFormOk aux
  | _ => false

/-- Home slice and half of a request: the hash of R21, or the counter's name (R239). -/
def reqSlice (m : Mach) (r : Req) : BitVec 5 := if isCounterOp r.op then ctrSlice r.addr else sliceOf m r.addr
def reqHalf (m : Mach) (r : Req) : Half := if isCounterOp r.op then 0 else homeHalf m r.addr

/-- SIZE, HINT, ADDR, AUX and a counter's name are not well formed (Table 2.15, R239). -/
def illFormed (m : Mach) (r : Req) : Bool :=
  !sizeAllowed r.op r.size.toNat || r.hint == 3 || (r.hint == 2 && r.op != .rdNc)
    || decide (r.addr.toNat % 2 ^ r.size.toNat ≠ 0)
    || r.aux &&& ~~~auxMask r.op != 0 || auxReserved r.op r.size r.aux
    || r.lane != isLane1 r.op
    || (isCounterOp r.op && (r.addr.extractLsb' 21 31 != 0 || decide ((ctrSlice r.addr).toNat ≥ sliceCount m)))

/-- The home stands at another position than this slice (R25, R239). -/
def misplaced (m : Mach) (r : Req) : Bool := decide (posOf m (reqSlice m r) ≠ posOf m (ownSlice m))

/-- The ERR_DECODE causes that the beat and the topology show. -/
def malformed (m : Mach) (r : Req) : Bool := illFormed m r || misplaced m r

/-- PLACE names an index that no agent holds: an index nobody grants, one of this slice that no port holds, or a dead one of another
slice. What another slice has granted is not known here (log 25). -/
def placeNobody (m : Mach) (r : Req) : Bool :=
  r.op == .place &&
    (match granter m (r.aux.extractLsb' 0 6) with
     | none => true
     | some s =>
       if s == ownSlice m then (portOfIdx m (r.aux.extractLsb' 0 6)).isNone else m.coh.dead.getLsbD (r.aux.extractLsb' 0 6).toNat)

/-- The instance may reach the address: a window of its own, no other instance's region, not the reservation, not the image area
(R174, R385, R496). -/
def mayReach (g : Regs) (m : Mach) (inst : BitVec 6) (a : Addr) : Bool :=
  let unit := a.toNat / 2 ^ 21
  (g.windows.any fun w => w.2.en && w.2.inst == inst && decide (w.2.base.toNat ≤ unit) && decide (unit < w.2.base.toNat + w.2.size.toNat))
    && (match regionOf g a with | some k => g.hr[k].inst == inst | none => true)
    && !inReservation m a && !inImageArea m a

/-- PLACE to an index of another instance (R565). -/
def placeForeign (g : Regs) (r : Req) : Bool :=
  let i : BitVec 6 := r.aux.extractLsb' 0 6
  let o := g.idxInst[i.toNat]'(i.isLt)
  r.op == .place && !(o.v && o.inst == r.inst)

/-- A group opcode to remote memory (R339). -/
def groupAbroad (m : Mach) (r : Req) : Bool :=
  (r.op == .grpOpen || r.op == .grpContrib || r.op == .grpAbort) && !isPackage m r.addr

/-- ERR_PERM of Table 2.15. -/
def forbidden (g : Regs) (m : Mach) (r : Req) : Bool :=
  let c := labelCtx g r.label
  !c.en || c.inst != r.inst || !genCurrent g r.inst r.gen
    || (!isCounterOp r.op && !mayReach g m r.inst r.addr) || placeForeign g r || groupAbroad m r

/-- Unordered float, which determinism enforcement refuses (R352). -/
def undetermined (r : Req) : Bool :=
  (r.op == .addl && (r.aux.extractLsb' 0 4) != 0) || ((r.op == .atomR || r.op == .atomN) && (r.aux.extractLsb' 0 5) == 16)

/-- The home half is in its safe state. -/
def homeSafe (m : Mach) (r : Req) : Bool := reqSlice m r == ownSlice m && (halfAt m (reqHalf m r)).safe

/-- The code of R74 for a request at the parse; `bad` gathers the ERR_DECODE causes of the beat and the port. `enabled` and `det` say whether
the port was enabled (R78) and determinism enforced (R33) when the request was accepted. -/
def parseCode (g : Regs) (m : Mach) (enabled det bad : Bool) (r : Req) : Option Code :=
  if homeSafe m r then some .errSafe
  else if bad || malformed m r || placeNobody m r then some .errDecode
  else if forbidden g m r then some .errPerm
  else if !enabled || (det && undetermined r) then some .errRefused
  else none

/-! ## Regulation (R415 to R418) -/

/-- Cost in sectors (R415). -/
def costOf (r : Req) : Nat :=
  match r.op with
  | .rdNc | .rdS | .rdU | .wr | .place | .addl | .grpContrib | .atomR | .atomN => max 1 ((2 ^ r.size.toNat + 63) / 64)
  | .pref => 4
  | _ => 1

def levelOf (m : Mach) (l : BitVec 12) : Int := tabGet 0 m.svc.level l.toNat

/-- Deduct from a label's bucket, not below −65,536 (R416), in port order (R420). -/
def deduct (r : Req) (m : Mach) : Mach :=
  { m with lblPtr := pastPort m.lblPtr r, svc := { m.svc with level := tabMod 0 m.svc.level r.label.toNat fun v => max (-65536) (v - costOf r) } }

/-- The label is regulated. -/
def regulated (g : Regs) (r : Req) : Bool := g.svcReg && (labelCtx g r.label).rate != 0

/-- Requests in the hold queue of a port (R40). -/
def heldOn (p : Port) : List Txn := p.txns.filter fun t => t.phase == .held

/-! ## Forwarding (R96, R97) -/

/-- SPORT, bit 159 and TXN of a forwarded request (Table 3.19); none while the unit's range is in flight. -/
def fwdIdent (m : Mach) (r : Req) : Option (BitVec 2 × Bool × BitVec 10) :=
  let pick := fun (sport base n : Nat) =>
    let used := fun i => m.coh.fwdOut.any fun x => x.int && x.sport.toNat == sport && x.txn.toNat == base + i
    if (List.range n).all used then none
    else some (BitVec.ofNat 2 sport, true, BitVec.ofNat 10 (base + pickId m.freeCtr n used))
  match r.origin with
  | .port p => some (BitVec.ofNat 2 p.val, false, r.txn)
  | .feed h false => pick h.val 0 256
  | .feed h true => pick h.val 256 256
  | .seq h k => pick h.val (if k == 0 then 512 else 768) 64
  | .drain h => pick h.val 576 64
  | .logger => pick 2 0 256
  | .save => pick 2 256 64
  | .dump _ => pick 2 320 64
  | _ => some (0, false, 0)

/-- A request leaves for its home on another slice. A departed slice fails it (R111). -/
def forward (r : Req) (m : Mach) : Mach :=
  let ch := reqHalf m r
  let dst := reqSlice m r
  if !partJoined m (peerLink ch) dst then
    (if r.origin == .bellows then m else failData ch lossDEPART r m)
  else match fwdIdent m r with
    | none => { m with todo := m.todo ++ [r] }
    | some (sport, int, txn) =>
      let m := spend m
      let m := if r.origin == .bellows then m
        else { m with coh := { m.coh with fwdOut := m.coh.fwdOut ++ [⟨ch, dst, sport, int, txn, r⟩] } }
      sendMsg (peerLink ch) (.fwd dst sport int { r with txn := txn } r.op) m

/-- A port's request that its other half serves crosses the span link (R15, R16). -/
def spanCross (r : Req) (m : Mach) : Mach :=
  match r.origin with
  | .port p =>
    if portHalf p == reqHalf m r then m else { m with spanPtr := m.spanPtr.set (portHalf p).val (pastPort m.spanPtr[portHalf p] r) (portHalf p).isLt }
  | _ => m

/-- A request goes to its home: here, or on another slice (R24, R26). -/
def sendHome (g : Regs) (r : Req) (m : Mach) : Mach :=
  let m := spanCross r m
  if reqSlice m r == ownSlice m then
    (if r.origin == .bellows then modHalf (reqHalf m r) (fun hs => { hs with prefQ := hs.prefQ ++ [r] }) m
     else orderAt g (reqHalf m r) r m)
  else forward r m

/-- A unit's request can leave now. -/
def canLeave (m : Mach) (r : Req) : Bool :=
  reqSlice m r == ownSlice m || !partJoined m (peerLink (reqHalf m r)) (reqSlice m r) || (fwdIdent m r).isSome

/-! ## The Bellows (R156, R157) -/

/-- The sign of a stride puts p beyond far. -/
def beyond (stride far p : Int) : Bool := if stride > 0 then decide (p > far) else decide (p < far)

/-- The prefetches of a trained detector: the lines issued and the new FAR (R156, R157, log 26). -/
def strideLines (l : LineAddr) (stride : Int) (far : LineAddr) (depth : Nat) : List LineAddr × LineAddr :=
  (List.range depth).foldl (fun (acc : List LineAddr × LineAddr) (i : Nat) =>
    let p : Int := (l.toNat : Int) + stride * ((i : Int) + 1)
    if beyond stride acc.2.toNat p && decide (p / 256 = (l.toNat : Int) / 256) then
      (acc.1 ++ [BitVec.ofNat 44 p.toNat], BitVec.ofNat 44 p.toNat)
    else acc) ([], far)

/-- Issue a prefetch: checked like a request of the read's stream, dropped where it would be refused. -/
def prefetch (g : Regs) (h : Half) (r : Req) (l : LineAddr) (m : Mach) : Mach :=
  let (id, m) := newId m
  let q : Req := { r with
    id := id, origin := .bellows, op := .pref, lane := false, txn := 0, addr := lineBase l, size := 8, hint := 0, dl := 0, aux := 0
    data := 0, be := 0, agent := none, dlc := none }
  if (parseCode g m true false false q).isSome then m else sendHome g q (profile g h 0x0C none 1 m)

/-- A detector record at a place. -/
def setDetector (h : Half) (i : Fin 64) (d : Detector) (m : Mach) : Mach :=
  modHalf h (fun hs => { hs with det := hs.det.set i.val d i.isLt }) m

/-- A demand read trains the detectors of its port's half (R156). One never trained matches no read and stands as trained longest ago (DESIGN
CHOICE, log 123). -/
def trainBellows (g : Regs) (p : PortIx) (r : Req) (m : Mach) : Mach :=
  let h := portHalf p
  let l := lineOf r.addr
  let isRead := (r.op == .rdNc || r.op == .rdS || r.op == .rdU) && decide (r.size.toNat ≥ 6)
  if !isRead then m
  else
    let det := (halfAt m h).det
    let mine := fun (d : Detector) => d.used != 0 && d.port == p && d.label == r.label
    let near := fun (d : Detector) => mine d && d.last != l &&
      decide (d.last.toNat ≤ l.toNat + 64) && decide (l.toNat ≤ d.last.toNat + 64)
    let (stamp, m) := newId m
    match (List.finRange 64).find? fun i => near det[i] with
    | none =>
      if (List.finRange 64).any fun i => mine det[i] && det[i].last == l then m
      else
        let oldest := (List.finRange 64).foldl (fun (b : Fin 64) i => if det[i].used < det[b].used then i else b) 0
        setDetector h oldest ⟨p, r.label, l, 0, 0, l, stamp + 1⟩ m
    | some i =>
      let d := det[i]
      let step : Int := (l.toNat : Int) - d.last.toNat
      let d' : Detector :=
        if step == d.stride then { d with conf := min (d.conf + 1) 3 }
        else if d.conf ≤ 1 then { d with stride := step, conf := 1, far := l }
        else { d with conf := d.conf - 1 }
      let d' := { d' with last := l, used := stamp + 1 }
      if d'.conf ≥ 2 && g.hc[h].blwEn && g.hc[h].cen && !m.dbg.stopped then
        let (ls, far) := strideLines l d'.stride d'.far g.hc[h].depth.toNat
        ls.foldl (fun m x => prefetch g h r x m) (setDetector h i { d' with far := far } m)
      else setDetector h i d' m

/-! ## The range tracker (R69, R250) -/

/-- Two requests overlap: a common sector, or the same counter; an INVOKE overlaps nothing. -/
def overlaps (a b : Req) : Bool :=
  if a.op == .invoke || b.op == .invoke then false
  else if isCounterOp a.op || isCounterOp b.op then isCounterOp a.op && isCounterOp b.op && a.addr == b.addr
  else lineOf a.addr == lineOf b.addr && sectorMask (a.addr.toNat % 256) (2 ^ a.size.toNat) &&&
    sectorMask (b.addr.toNat % 256) (2 ^ b.size.toNat) != 0

/-- An earlier transaction of the stream holds a request back: an overlapping one, or a WAIT with acquire. -/
def heldBack (earlier : List Req) (r : Req) : Bool :=
  earlier.any fun t => t.label == r.label && (overlaps t r || (t.op == .wait && bitAt t.aux 31))

/-- The requests of a list that were presented before one: their serial numbers are lower. -/
def presentedBefore (rs : List Req) (r : Req) : List Req := rs.filter fun x => decide (x.id < r.id)

/-- The first transaction that may enter the pipeline: its write data complete, nothing of its stream presented before it, be that parsed or
waiting in the ingress buffer. -/
def nextEntry (unparsed : List Req) (ts : List Txn) : Option Txn :=
  ts.find? fun t => t.phase == .ranged && t.need == 0 && !heldBack (presentedBefore (ts.map (·.req) ++ unparsed) t.req) t.req

/-- The requests that wait in the ingress buffer of a port. -/
def unparsed (p : Port) : List Req := (p.in0 ++ p.in1).map (·.req)

/-- Change the phase of a transaction. -/
def setPhase (p : PortIx) (id : Nat) (ph : Phase) (m : Mach) : Mach :=
  modPort p (fun x => { x with txns := x.txns.map fun t => if t.req.id == id then { t with phase := ph } else t }) m

/-- Requests of a port enter the pipeline as their turn comes. -/
def enterLoop (fuel : Nat) (g : Regs) (p : PortIx) (m : Mach) : Mach :=
  match fuel with
  | 0 => m
  | n + 1 =>
    match nextEntry (unparsed (portAt m p)) (portAt m p).txns with
    | none => m
    | some t => enterLoop n g p (sendHome g t.req (trainBellows g p t.req (setPhase p t.req.id .home m)))

def enterReady (g : Regs) (p : PortIx) (m : Mach) : Mach := enterLoop (portAt m p).txns.length g p m

/-! ## The parse -/

/-- The completion of a refused request, once its WD beats are in (R57, R62, R75). -/
def completeRefused (p : PortIx) (t : Txn) (c : Code) (m : Mach) : Mach :=
  modPort p (fun x => pushCmpl ⟨t.req, c, t.dup, 0, 0⟩
    { x with txns := x.txns.map fun y => if y.req.id == t.req.id then { y with phase := .done } else y }) m

/-- Refuse a transaction of a port: an access violation is logged at once (R76). -/
def refuseTxn (p : PortIx) (t : Txn) (c : Code) (opc : BitVec 6) (m : Mach) : Mach :=
  let m := logRefusal (vioSrc t.req.origin) c opc t.req m
  if t.need == 0 then completeRefused p t c m else setPhase p t.req.id (.refused c) m

/-- The request of a beat; `accept` is its cycle of acceptance. -/
def beatReq (id : Nat) (origin : Origin) (op : Op) (b : ReqBeat) (accept : Nat) (agent : Option (BitVec 6)) : Req :=
  ⟨id, origin, op, b.lane, b.txn, b.addr, b.size, b.hint, b.label, b.optag, b.inst, b.gen, b.dl, b.aux, accept, 0, 0, none, agent,
    false, false, none, none, false, false, false⟩

/-- Opcodes that a port without a cache may not use (R50). -/
def needsCache (o : Op) : Bool := o == .rdS || o == .rdU || o == .upg || o == .evict

/-- A refusal by determinism enforcement is counted (R352). -/
def countUndetermined (enabled det : Bool) (c : Code) (r : Req) (m : Mach) : Mach :=
  if c == .errRefused && enabled && det && undetermined r then { m with detRefn := m.detRefn + 1 } else m

/-- WD beats of a request by its OPC and SIZE (R75). -/
def beatsOf (opc : BitVec 6) (size : BitVec 4) : Nat := match opOfBits opc with | some o => wdBeats o size.toNat | none => 0

/-- The class that makes a DL count: that of a label of deadline kind, in the cycle of acceptance (R46, R411). -/
def deadlineClass (g : Regs) (b : ReqBeat) : Option (BitVec 4) :=
  let k := classOf g b.label
  if (g.cls[k.toNat]'(k.isLt)).kind == 2 && b.dl != 0 then some k else none

/-- A TXN is outstanding on a port, from the cycle its REQ beat is presented (R47). -/
def txnOut (p : Port) (txn : BitVec 10) : Bool := p.txns.any (fun t => t.req.txn == txn) || (unparsed p).any fun r => r.txn == txn

/-- A REQ beat as it stands in the ingress buffer of a port. -/
def inBeat (g : Regs) (p : PortIx) (opc : BitVec 6) (b : ReqBeat) (m : Mach) : InBeat :=
  ⟨opc, b, g.rpEn[p], g.detEn, txnOut (portAt m p) b.txn, { beatReq m.nextId (.port p) ((opOfBits opc).getD .rdNc) b (coreTime m (portHalf p)) (portAt m p).idx with
    dlc := deadlineClass g b }⟩

/-- Parse one request of a port (R73 to R75, R415 to R418). -/
def parseReq (g : Regs) (p : PortIx) (x : InBeat) (m : Mach) : Mach :=
  let port := portAt m p
  let op := opOfBits x.opc
  let r := x.req
  let bad := op.isNone || x.beat.rsv != 0 || x.dup || (needsCache r.op && op.isSome && !port.caching)
  let code := parseCode g m x.en x.det bad r
  let held := !r.lane && regulated g r && ((heldOn port).any (fun x => x.req.label == r.label) || decide (levelOf m r.label < 1))
  let t : Txn := ⟨r, if code.isNone && held then .held else .ranged, beatsOf x.opc x.beat.size, x.dup⟩
  let m := modPort p (fun y => { y with txns := y.txns ++ [t] }) m
  match code with
  | some c => refuseTxn p t c x.opc (countUndetermined x.en x.det c r m)
  | none => if held then m else enterReady g p (if regulated g r then deduct r m else m)

/-! ## Ingress (R38 to R40, R43) -/

/-- A beat takes a REQ credit; the slice owes it back. -/
def takeReqCredit (lane : Bool) (x : Port) : Port :=
  if lane then { x with avail := { x.avail with req1 := x.avail.req1 - 1 }, owed := { x.owed with req1 := x.owed.req1 + 1 } }
  else { x with avail := { x.avail with req0 := x.avail.req0 - 1 }, owed := { x.owed with req0 := x.owed.req0 + 1 } }

/-- The lane-0 parse stops while the hold queue is full (R417). -/
def holdFull (p : Port) : Bool := decide ((heldOn p).length ≥ Config.holdEntries)

/-- Parse the requests of the ingress buffer: lane 1 first, after four of them lane 0 (R43). A global stop parses none (R535). -/
def ingressLoop (fuel : Nat) (g : Regs) (p : PortIx) (m : Mach) : Mach :=
  match fuel with
  | 0 => m
  | n + 1 =>
    let port := portAt m p
    let can0 := !port.in0.isEmpty && !holdFull port
    if m.dbg.stopped then m
    else if !port.in1.isEmpty && (decide (port.laneRun < 4) || !can0) then
      match port.in1 with
      | [] => m
      | x :: rest => ingressLoop n g p (parseReq g p x (modPort p (fun y => { y with in1 := rest, laneRun := y.laneRun + 1 }) m))
    else if can0 then
      match port.in0 with
      | [] => m
      | x :: rest => ingressLoop n g p (parseReq g p x (modPort p (fun y => { y with in0 := rest, laneRun := 0 }) m))
    else m

def drainIngress (g : Regs) (p : PortIx) (m : Mach) : Mach :=
  ingressLoop ((portAt m p).in0.length + (portAt m p).in1.length) g p m

end Sys2Proof.Machine
end

