-- ==== Sys2Proof/Machine/AnvilBase.lean ====
section
/-!
DEFINITION. The Anvil's groups, slots and queues (chapter 09): descriptors (R287 to R290), the checks of R294, the tile scoreboard
(R296, R297), the Crucible (R309), STATUS (R293), and what its safe state ends (Table 14.8).
-/

namespace Sys2Proof.Machine

/-! ## Descriptors (R287 to R290) -/

/-- Word n of a descriptor. -/
def opWord (o : AOp) (n : Nat) : BitVec 32 := o.words.getD n 0

def opOp (o : AOp) : Nat := ((opWord o 0).extractLsb' 29 3).toNat
def opAg (o : AOp) : Fin 16 := ⟨((opWord o 0).extractLsb' 25 4).toNat, ((opWord o 0).extractLsb' 25 4).isLt⟩
def opK (o : AOp) : Nat := (opWord o 1).toNat
def grpShape (gr : AGroup) : Nat := w0Shape gr.w0
def grpAcc (gr : AGroup) : Nat := w0Acc gr.w0
def grpSlots (gr : AGroup) : BitVec 4 := w0Slots gr.w0
def grpFunc (gr : AGroup) : Nat := w0Func gr.w0
def grpSpill (gr : AGroup) : Nat := w2Spill gr.w2

/-- An operand or result part (Table 9.5). -/
structure Part where
  base   : Nat
  orient : Bool
  ld     : Nat
  sbase  : Nat
  sld    : Nat
  deriving DecidableEq, Repr

/-- The part whose word 0 is word n of the descriptor. -/
def opPart (o : AOp) (n : Nat) : Part :=
  let f := fun i => (opWord o (n + i)).toNat
  ⟨f 0 + f 1 % 2 ^ 20 * 2 ^ 32, bitAt (opWord o (n + 1)) 31, f 2, f 3 + f 4 % 2 ^ 20 * 2 ^ 32, f 5⟩

def partA (o : AOp) : Part := opPart o 8
def partB (o : AOp) : Part := opPart o 16
def partR (o : AOp) : Part := opPart o 24

/-- Address of the row statistics. -/
def opStat (o : AOp) : Nat := (opWord o 4).toNat + (opWord o 5).toNat % 2 ^ 20 * 2 ^ 32

/-! ## Groups, slots, the Crucible -/

def agroupAt (m : Mach) (h : Half) (n : Fin 16) : AGroup := (anvAt m h).groups[n]

def setAGroup (h : Half) (n : Fin 16) (x : AGroup) (m : Mach) : Mach :=
  modAnv h (fun a => { a with groups := a.groups.set n.val x n.isLt }) m

/-- A group by its number as kept in an operation's record. -/
def grpIx (n : Nat) : Fin 16 := ⟨n % 16, Nat.mod_lt _ (by decide)⟩

/-- Code words of a group's park area, of its spill area, and of the checkpoint area (log 18: the numbering is the model's). -/
def parkWords (n : Nat) (s : BitVec 4) : List Nat := (List.range (128 * (slotList s).length)).map fun i => 1280 * n + i
def partWords (n : Nat) (gr : AGroup) : List Nat :=
  if gr.part.isEmpty then [] else (List.range (192 * shapeSlots (grpShape gr))).map fun i => 1280 * n + 512 + i
def ckWords (gr : AGroup) : List Nat :=
  let n := 128 * (slotList (grpSlots gr)).length + (if gr.part.isEmpty then 0 else 192 * shapeSlots (grpShape gr))
  (List.range n).map fun i => 20480 + i

/-- Write Crucible words. -/
def cruWrite (g : Regs) (h : Half) (ks : List Nat) (m : Mach) : Mach :=
  if m.ras.errs.isEmpty && !m.ras.armed then m else ks.foldl (fun m k => noteWrite g .crucible h k m) m

/-- Read Crucible words: whether one is uncorrectable (Table 14.2), and the flips that the read lets pass (R568). -/
def cruRead (g : Regs) (h : Half) (ks : List Nat) (m : Mach) : Bool × List (Nat × BitVec 256) × Mach := readFlips g h .crucible ks m

/-- Flips of a park area: slot by slot, 4 bytes to a cell (R568, log 18). -/
def flipSlots (s : BitVec 4) (fs : List (Nat × BitVec 256)) (t : Tab (BitVec 32)) : Tab (BitVec 32) :=
  fs.foldl (fun t kx => (List.range 8).foldl (fun t j =>
    let v := 8 * kx.1 + j
    let f := kx.2.extractLsb' (32 * j) 32
    if f == 0 then t else tabMod 0 t (4 * (v % 1024) + (slotList s).getD (v / 1024) 0) (· ^^^ f)) t) t

/-- Flips of a spill area: slot by slot, 6 bytes to a partial (R568, log 18). -/
def flipPart (s : BitVec 4) (fs : List (Nat × BitVec 256)) (t : Tab (Option (BitVec 48))) : Tab (Option (BitVec 48)) :=
  fs.foldl (fun t kx => (List.range 7).foldl (fun t j =>
    let v := 256 * kx.1 / 48 + j
    let f := flipAt 48 [kx] (48 * v)
    if f == 0 then t else tabMod none t (4 * (v % 1024) + (slotList s).getD (v / 1024) 0) (Option.map (· ^^^ f))) t) t

/-- Flips of the words behind the first n. -/
def flipsFrom (n : Nat) (fs : List (Nat × BitVec 256)) : List (Nat × BitVec 256) :=
  (fs.filter fun x => decide (n ≤ x.1)).map fun x => (x.1 - n, x.2)

/-- Flips of the first n words. -/
def flipsTo (n : Nat) (fs : List (Nat × BitVec 256)) : List (Nat × BitVec 256) := fs.filter fun x => decide (x.1 < n)

/-- The entries of a table whose slot stands in a mask. -/
def slotsOf (s : BitVec 4) (t : Tab (BitVec 32)) : Tab (BitVec 32) := t.filter fun x => s.getLsbD (x.1 % 4)

/-- Two tables with separate keys as one. -/
def joinTab {α : Type} (fuel : Nat) (a b : Tab α) : Tab α :=
  match fuel, a, b with
  | 0, _, _ => []
  | _, [], y => y
  | _, x, [] => x
  | n + 1, (i, v) :: x, (j, w) :: y => if i < j then (i, v) :: joinTab n x ((j, w) :: y) else (j, w) :: joinTab n ((i, v) :: x) y

/-- Replace the slots of a mask. -/
def putSlots (s : BitVec 4) (new : Tab (BitVec 32)) (t : Tab (BitVec 32)) : Tab (BitVec 32) :=
  let rest := t.filter fun x => !s.getLsbD (x.1 % 4)
  joinTab (new.length + rest.length + 1) new rest

/-- Every cell's slots at a value per slot. -/
def fillSlots (s : BitVec 4) (v : Nat → BitVec 32) : Tab (BitVec 32) :=
  (List.range 4096).filterMap fun k => if s.getLsbD (k % 4) && v (k % 4) != 0 then some (k, v (k % 4)) else none

/-- Slot values at their initial value (R295). -/
def initialSlots (w0 : BitVec 32) : Tab (BitVec 32) :=
  let func := w0Func w0
  let qs := slotList (w0Slots w0)
  fillSlots (w0Slots w0) fun q =>
    if func == 3 || func == 4 then (if qs.head? == some q then heldInitial (w0Afmt w0) func else 0xFFFFFFFF)
    else if qs.head? == some q || w0Acc w0 != 2 then heldInitial (w0Afmt w0) func else 0

/-- Park a group: its slots go to the Crucible and are free (R297). -/
def parkGroup (g : Regs) (h : Half) (n : Fin 16) (m : Mach) : Mach :=
  let gr := agroupAt m h n
  let m := cruWrite g h (parkWords n.val (grpSlots gr)) m
  let m := setAGroup h n { gr with seated := false, park := slotsOf (grpSlots gr) (anvAt m h).slots } m
  modAnv h (fun a => { a with own := a.own.map fun x => if x == some n.val then none else x }) m

/-- The groups, other than n, seated in slots of a mask. -/
def seatedIn (a : Anvil) (s : BitVec 4) (n : Nat) : List Nat :=
  ((slotList s).filterMap fun q => (a.own.toList.getD q none)).eraseDups.filter fun x => x != n

/-- Clear slots of a mask for a group: others are parked. -/
def clearSlots (g : Regs) (h : Half) (n : Fin 16) (s : BitVec 4) (m : Mach) : Mach :=
  let m := (seatedIn (anvAt m h) s n.val).foldl (fun m x => parkGroup g h (grpIx x) m) m
  modAnv h (fun a => { a with own := a.own.mapFinIdx fun q x _ => if s.getLsbD q then some n.val else x }) m

/-- Seat a parked group; a Crucible word found uncorrectable fails it (R297, Table 14.2). -/
def seatGroup (g : Regs) (h : Half) (n : Fin 16) (m : Mach) : Mach :=
  let gr := agroupAt m h n
  if gr.seated then m
  else
    let m := clearSlots g h n (grpSlots gr) m
    let (bad, fs, m) := cruRead g h (parkWords n.val (grpSlots gr)) m
    let m := modAnv h (fun a => { a with slots := putSlots (grpSlots gr) (flipSlots (grpSlots gr) fs gr.park) a.slots }) m
    setAGroup h n { gr with seated := true, park := [], fail := if bad then some (gr.fail.getD .errData) else gr.fail } m

/-- A group closes: its slots and units are free. -/
def closeAGroup (h : Half) (n : Fin 16) (m : Mach) : Mach :=
  modAnv h (fun a => { a with
    groups := a.groups.set n.val AGroup.closed n.isLt
    own := a.own.map fun x => if x == some n.val then none else x }) m

/-! ## STATUS (R293, R371) -/

/-- RERUN of a group's s. -/
def rerunField (s : Nat) : BitVec 32 := fieldAt (BitVec.ofNat 2 (s / 3)) 26

/-- The STATUS word of a code, with VALID. -/
def statusWord (c : Code) : BitVec 32 := fieldAt c.bits 29 ||| 0x10000000

/-- OVF, WRAP, NAN and SPILLS. -/
def statusFlags (ovf wrap nan : Bool) (spills : Nat) : BitVec 32 :=
  flagAt 32 ovf 25 ||| flagAt 32 wrap 24 ||| flagAt 32 nan 23 ||| BitVec.ofNat 32 (min 65535 spills)

/-- The Anvil writes STATUS: word 7 of the slot, whose busy bit falls. A DISCARD of a fault's handling has no slot (R375). -/
def writeStatus (h : Half) (o : AOp) (w : BitVec 32) (m : Mach) : Mach :=
  modSeq h o.seq (fun s =>
    if o.clean then { s with discs := s.discs.erase (opAg o).val }
    else
      let c := w.extractLsb' 29 3
      let opened :=
        if opOp o == 0 && c == 0 then s.opened ++ [(opAg o).val]
        else s.opened
      { s with
        d := s.d.set o.slot.val ((s.d[o.slot]).set 7 w) o.slot.isLt
        busy := s.busy &&& ~~~(1#8 <<< o.slot.val)
        opened := opened }) m

/-- A DRAIN or DISCARD of a program closes the group: the program no longer has it open (R375). -/
def forgetOpened (h : Half) (o : AOp) (m : Mach) : Mach :=
  modSeq h o.seq (fun s => { s with opened := s.opened.filter fun x => x != (opAg o).val }) m

/-- Label and OPTAG of an operation's program. -/
def opWho (o : AOp) : Option (BitVec 12 × BitVec 16) := some (o.label, o.optag)

/-! ## In flight (R296) -/

/-- Operations in flight with their groups, 16 for one that a reset has closed, and the slots they use. -/
def opsInFlight (a : Anvil) : List (AOp × Nat × BitVec 4) :=
  (a.tree.map fun x => (x.op, if x.gone then 16 else x.grp, x.use))
    ++ (a.mac.toList.map fun x => (x.op, if x.own.isSome then 16 else x.grp, x.use))
    ++ (a.drn.toList.map fun x => (x.op, if x.gone then 16 else x.grp, x.use))

/-- The operation in the MAC stage, or the one at the head of queue k. -/
def feederAt (a : Anvil) (w : Option Half) : Option MacOp :=
  match w with
  | none => a.mac
  | some k => a.ahead[k]

def setFeeder (h : Half) (w : Option Half) (x : Option MacOp) (m : Mach) : Mach :=
  modAnv h (fun a => match w with
    | none => { a with mac := x }
    | some k => { a with ahead := a.ahead.set k.val x k.isLt }) m

/-- What the feed has read for the head of a queue is gone (R301). -/
def dropAhead (h k : Half) (m : Mach) : Mach := setFeeder h (some k) none m

/-- An MMA or REDUCE of the group is in flight. -/
def macHas (a : Anvil) (n : Nat) : Bool :=
  (opsInFlight a).any fun x => x.2.1 == n && (opOp x.1 == 1 || opOp x.1 == 2)

/-- A group that a reset closes is no longer the group of the operations in flight on it: they go on with what it was (R295, R296). -/
def detachGroup (h : Half) (n : Fin 16) (m : Mach) : Mach :=
  let gr := agroupAt m h n
  modAnv h (fun a => { a with
    mac := a.mac.map fun x => if x.own.isNone && x.grp == n.val then { x with own := some gr } else x
    tree := a.tree.map fun x => if x.grp == n.val then { x with gone := true } else x
    drn := a.drn.map fun x => if x.grp == n.val then { x with gone := true } else x }) m

/-- Slots that an operation needs (R296, R297). -/
def slotsNeeded (m : Mach) (h : Half) (o : AOp) : BitVec 4 :=
  if opOp o == 0 then w0Slots (opWord o 0)
  else
    let gr := agroupAt m h (opAg o)
    if !gr.isOpen || gr.fail.isSome then 0
    else if opOp o ≥ 3 && !gr.seated then 0
    else grpSlots gr

/-! ## The checks of R294 -/

/-- An address range lies in this package's memory. -/
def inOwnMemory (m : Mach) (lo n : Nat) : Bool :=
  decide (lo / 2 ^ 47 = (chipNum m).toNat) && decide ((lo + n - 1) / 2 ^ 47 = (chipNum m).toNat)

/-- Bytes of n elements. -/
def elemBytes (fmt n : Nat) : Nat := (n * elementBits fmt + 7) / 8

/-- Reserved bits of a part, in the words that the operation uses. -/
def partReserved (o : AOp) (n : Nat) (result mx : Bool) : Bool :=
  opWord o (n + 1) &&& (if result then 0xFFF00000 else 0x7FF00000) != 0 || (mx && opWord o (n + 4) &&& 0xFFF00000 != 0)

/-- What R294 asks of a part whatever the group: its alignment and its first byte. -/
def partMisplaced (m : Mach) (x : Part) : Bool := x.base % 32 != 0 || x.ld % 32 != 0 || !inOwnMemory m x.base 1

/-- An operand part that R294 refuses: `dim` rows or columns of the tile over K K-steps. -/
def operandBad (m : Mach) (x : Part) (fmt dim k : Nat) : Bool :=
  let (pos, rows) := if x.orient then (k, dim) else (dim, k)
  let rb := elemBytes fmt pos
  let blocks := (pos + 31) / 32
  decide (x.ld < rb) || !inOwnMemory m x.base ((rows - 1) * x.ld + rb)
    || (isMx fmt && (decide (x.sld < blocks) || !inOwnMemory m x.sbase ((rows - 1) * x.sld + blocks)))

/-- A legal slot mask of n slots (R285). -/
def maskLegal (n : Nat) (s : BitVec 4) : Bool :=
  match n with
  | 1 => s == 1 || s == 2 || s == 4 || s == 8
  | 2 => s == 3 || s == 12
  | 4 => s == 15
  | _ => false

/-- The slots a group takes. -/
def slotCount (w0 : BitVec 32) : Nat :=
  let func := w0Func w0
  if func == 7 then shapeSlots (w0Shape w0) * (if w0Acc w0 == 2 then 2 else 1)
  else if func == 3 || func == 4 || w0Acc w0 == 2 then 2 else 1

/-- An OPEN that R294 refuses with ERR_DECODE. -/
def openBad (o : AOp) : Bool :=
  let w0 := opWord o 0
  let func := w0Func w0
  let matrix := func == 7
  let spill := w2Spill (opWord o 2)
  opWord o 2 &&& 0x03FFFF00 != 0 || decide (w0Shape w0 > 4) || w0Acc w0 == 3 || func == 5 || func == 6
    || (inputClass (w0Afmt w0)).isNone || (matrix && (inputClass (w0Bfmt w0) != inputClass (w0Afmt w0)))
    || ((w0Acc w0 == 1) != (inputClass (w0Afmt w0) == some 1))
    || (w0Shape w0 == 4 && w0Acc w0 == 2) || (!matrix && w0Shape w0 != 0)
    || !maskLegal (slotCount w0) (w0Slots w0)
    || (spill != 0 && (w0Acc w0 != 0 || (decide (1 ≤ func) && decide (func ≤ 4))))

/-- RFMT of a group (R312). -/
def rfmtOk (gr : AGroup) (rfmt : Nat) : Bool :=
  let func := grpFunc gr
  if func == 3 || func == 4 then true
  else if grpAcc gr == 1 then rfmt == 0 || rfmt == 1 || decide (12 ≤ rfmt && rfmt ≤ 14)
  else if func == 7 then (decide (1 ≤ rfmt) && decide (rfmt ≤ 11)) || rfmt == 14
  else (decide (1 ≤ rfmt) && decide (rfmt ≤ 5)) || rfmt == 14

/-- Result rows, columns and the format written. -/
def resultForm (gr : AGroup) (o : AOp) : Nat × Nat × Nat :=
  let arg := grpFunc gr == 3 || grpFunc gr == 4
  let (r, c) := if grpFunc gr == 7 then shapeDims (grpShape gr) else (32, 1)
  (r, c, if arg then 0 else w2Rfmt (opWord o 2))

/-- Bytes of a result row (R292, R272). -/
def resultRow (cols rfmt : Nat) : Nat := if rfmt == 14 && decide (cols ≥ 32) then 256 * (cols / 32) else elemBytes rfmt cols

/-- A positive normal binary32. -/
def positiveNormal (x : BitVec 32) : Bool := !bitAt x 31 && x.extractLsb' 23 8 != 0 && x.extractLsb' 23 8 != 0xFF

/-- A DRAIN that R294 refuses with ERR_DECODE. -/
def drainBad (m : Mach) (gr : AGroup) (o : AOp) : Bool :=
  let (rows, cols, rfmt) := resultForm gr o
  let x := partR o
  let rb := resultRow cols rfmt
  !rfmtOk gr (w2Rfmt (opWord o 2)) || decide (x.ld < rb)
    || (if rfmt == 14 then x.base % 256 != 0 || x.ld % 256 != 0
        else (List.range rows).any fun r => decide ((x.base + r * x.ld) % 256 + rb > 256))
    || !inOwnMemory m x.base ((rows - 1) * x.ld + rb)
    || (isMx rfmt && (decide (x.sld < cols / 32) || !inOwnMemory m x.sbase ((rows - 1) * x.sld + cols / 32)))
    || (w2Epi (opWord o 2) && (grpAcc gr == 1 || grpFunc gr != 7 || !inOwnMemory m (opStat o) (8 * rows)))

/-- K of an MMA or REDUCE that R294 refuses. -/
def badK (gr : AGroup) (k : Nat) : Bool := k == 0 || k % 32 != 0 || (gr.isOpen && decide (gr.k + k ≥ 2 ^ 32))

/-- Row statistics that R294 refuses whatever the group. -/
def badStats (o : AOp) : Bool := w2Epi (opWord o 2) && (!positiveNormal (opWord o 3) || opStat o % 8 != 0)

/-- ERR_DECODE of R294. What depends on the group is checked against an open one. -/
def opMalformed (m : Mach) (h : Half) (o : AOp) : Bool :=
  let gr := agroupAt m h (opAg o)
  let func := grpFunc gr
  let arg := gr.isOpen && (func == 3 || func == 4)
  opWord o 0 &&& 0x1F != 0 ||
  match opOp o with
  | 0 => openBad o
  | 1 =>
    badK gr (opK o) || partMisplaced m (partA o) || partMisplaced m (partB o)
      || partReserved o 8 false (gr.isOpen && isMx (w0Afmt gr.w0)) || partReserved o 16 false (gr.isOpen && isMx (w0Bfmt gr.w0))
      || (gr.isOpen && func == 7 && (operandBad m (partA o) (w0Afmt gr.w0) (shapeDims (grpShape gr)).1 (opK o)
        || operandBad m (partB o) (w0Bfmt gr.w0) (shapeDims (grpShape gr)).2 (opK o)))
  | 2 =>
    badK gr (opK o) || partMisplaced m (partA o) || partReserved o 8 false (gr.isOpen && isMx (w0Afmt gr.w0))
      || (gr.isOpen && func != 7 && operandBad m (partA o) (w0Afmt gr.w0) 32 (opK o))
  | 3 =>
    opWord o 2 &&& 0x03FFFF00 != 0 || opWord o 5 &&& 0xFFF00000 != 0 || partMisplaced m (partR o) || badStats o
      || partReserved o 24 true (isMx (w2Rfmt (opWord o 2)) && !arg)
      || (w2Rfmt (opWord o 2) == 15 && !arg) || (gr.isOpen && drainBad m gr o)
  | 4 => false
  | _ => true

/-- A slot that the operation needs is used by an operation in flight of another instance (R296). -/
def slotConflict (m : Mach) (h : Half) (o : AOp) : Bool :=
  (opsInFlight (anvAt m h)).any fun x => x.1.inst != o.inst && x.2.2 &&& slotsNeeded m h o != 0

/-- The code of R294 for the operation at the head of a queue, in the order of R74. -/
def opRefusal (m : Mach) (h : Half) (o : AOp) : Option Code :=
  let gr := agroupAt m h (opAg o)
  if (halfAt m h).safe then some .errSafe
  else if opMalformed m h o then some .errDecode
  else if (gr.isOpen && gr.inst != o.inst) || slotConflict m h o then some .errPerm
  else if (opOp o == 0) == gr.isOpen || (opOp o == 1 && grpFunc gr != 7) || (opOp o == 2 && grpFunc gr == 7) then some .errRefused
  else if opOp o == 0 && decide (cruFree m h < unitsOf (opWord o 0) (opWord o 2)) then some .errOverflow
  else none

/-- The address a violation of the operation names: that of its first part in use, 0 without one. -/
def opAddr (o : AOp) : Addr :=
  match opOp o with
  | 1 => BitVec.ofNat 52 (partA o).base
  | 2 => BitVec.ofNat 52 (partA o).base
  | 3 => BitVec.ofNat 52 (partR o).base
  | _ => 0

/-- A refused operation: its code in STATUS, the violation log, the conflict count (R294, R296, R325). -/
def refuseOp (h : Half) (o : AOp) (c : Code) (m : Mach) : Mach :=
  let m := if c == .errPerm && slotConflict m h o then modAnv h (fun a => { a with confl := a.confl + 1 }) m else m
  let m := if isViolation c then
      logVio ⟨true, c.bits, seqSrc h o.seq, (opWord o 0).extractLsb' 29 3 |>.setWidth 6, o.inst, o.label, opAddr o, o.optag⟩ m
    else m
  writeStatus h o (statusWord c) m

/-! ## The safe state (Table 14.8) -/

/-- Operations in flight stop with ERR_SAFE. -/
def anvSafe (h : Half) (m : Mach) : Mach :=
  let os := (opsInFlight (anvAt m h)).map (·.1)
  let m := modAnv h (fun a => { a with mac := none, tree := [], drn := none, ck := none, ahead := Vector.replicate 2 none }) m
  os.foldl (fun m o => writeStatus h o (statusWord .errSafe) m) m

end Sys2Proof.Machine
end

