-- ==== Sys2Proof/Machine/Safe.lean ====
section
/-!
DEFINITION. The entry of a half into its safe state (R455, R456, Table 14.8).
-/

namespace Sys2Proof.Machine

/-- The requests that a conflict-tracker entry holds and nothing else does. -/
def confReq (c : Conf) : Option Req :=
  match c.why with
  | .acting | .placing | .backInv => c.req
  | .completing | .lost => none

/-- Requests of a half that are accepted and not completed. -/
def safeReqs (m : Mach) (h : Half) : List Req :=
  let hs := halfAt m h
  let ch := chanAt m h
  let wb := fun (w : RemWhy) => match w with | .wb k _ ws _ _ => if k == h then ws else [] | _ => []
  hs.opWait ++ hs.missWait ++ hs.pageWait ++ hs.miss.flatMap (·.waiters) ++ hs.merge.flatMap (·.waiters) ++ hs.vb.flatMap (·.waiters)
    ++ hs.moves.flatMap (fun x => x.trigger.toList ++ x.waiters) ++ hs.conf.filterMap confReq
    ++ (ch.writeQ ++ ch.writeO).flatMap (·.waiters) ++ (ch.atomQ ++ ch.atomO).map (·.req)
    ++ (m.coh.remOut.map (·.why) ++ m.coh.remWait.map (·.2)).flatMap wb
    ++ hs.gwrites.map (·.req) ++ hs.gaborts.map (·.2)
    ++ hs.groups.filterMap (fun x => x.2.bind (·.opening)) ++ hs.iq
    ++ (if h == 0 then m.parked else [])

/-- A request once. -/
def onceEach (rs : List Req) : List Req :=
  rs.foldl (fun acc r => if acc.any fun x => x.id == r.id then acc else acc ++ [r]) []

/-- What waited in the half waits no more. Lines, directory entries, counters and logs stay. -/
def safeClear (h : Half) (m : Mach) : Mach :=
  let m := modHalf h (fun hs => { hs with
    opWait := [], missWait := [], pageWait := [], refetch := []
    miss := (hs.miss.filter fun e => !e.arrived).map fun e => { e with waiters := [] }
    merge := hs.merge.map fun e => { e with waiters := [] }
    vb := hs.vb.map fun e => { e with waiters := [] }
    moves := hs.moves.map fun x => { x with trigger := none, waiters := [] }
    conf := hs.conf.filter fun c => c.why == .completing
    wins := hs.wins.map fun w => { w with delayed := [], xdelay := [] }
    groups := hs.groups.map fun x => (x.1, x.2.map fun gr => { gr with opening := none, writing := [] })
    gwrites := [], gaborts := [], iq := [], prefQ := [] }) m
  let m := modChan h (fun ch => { ch with
    atomQ := []
    atomO := ch.atomO.map fun x => { x with req := { x.req with origin := .bellows } }
    writeQ := ch.writeQ.map fun x => { x with waiters := [] }
    writeO := ch.writeO.map fun x => { x with waiters := [] } }) m
  let cut := fun (w : RemWhy) => match w with | .wb k l ws ds d => RemWhy.wb k l (if k == h then [] else ws) ds d | x => x
  { m with
    coh := { m.coh with
      remOut := m.coh.remOut.map fun x => { x with why := cut x.why }
      remWait := m.coh.remWait.map fun x => (x.1, cut x.2) }
    parked := if h == 0 then [] else m.parked }

/-- The requests of the ports for the half that have not entered the pipeline complete too. -/
def safeRefuse (h : Half) (m : Mach) : Mach :=
  allPorts.foldl (fun m p =>
    let ts := (portAt m p).txns.filter fun t =>
      (t.phase == .held || t.phase == .ranged) && reqSlice m t.req == ownSlice m && reqHalf m t.req == h
    ts.foldl (fun m t => refuseTxn p t .errSafe (opcBits t.req.op) m) m) m

/-- A Quench pass of the half ends (Table 14.8). -/
def quenchSafe (h : Half) (m : Mach) : Mach :=
  modHalf h (fun hs => if hs.qn.busy then { hs with qn := { hs.qn with busy := false, dn := true, result := 2 } } else hs) m

/-- A save or restore ends with MEMERR (R512). -/
def viSafe (m : Mach) : Mach :=
  match m.vi.job with
  | some j => if j.cmd == 4 || j.cmd == 5 then { m with vi := { m.vi with job := some { j with fail := some (j.fail.getD 4) } } } else m
  | none => m

/-- The half enters its safe state (R455, R456). -/
def enterSafe (h : Half) (cause : BitVec 4) (w : BitVec 6) (m : Mach) : Mach :=
  let rs := onceEach (safeReqs m h)
  let m := modHalf h (fun hs => { hs with safe := true, safeDue := none, scause := cause, sword := w }) m
  let m := viSafe (anvSafe h (quenchSafe h (rangeAbort (safeClear h m))))
  safeRefuse h (completeAll rs .errSafe 0 m)

/-- A half with a cause found. -/
def safeWaiting (m : Mach) : Option (Half × BitVec 4 × BitVec 6) :=
  bothHalves.findSome? fun h => (halfAt m h).safeDue.map fun x => (h, x)

end Sys2Proof.Machine
end

