-- ==== Sys2Proof/Machine/Units.lean ====
section
/-!
DEFINITION. Requests that the units of the slice send (R300, R313, R367, R502, R509, R533): their checks, their way to the home, and
the completion that comes back.
-/

namespace Sys2Proof.Machine

/-- A request of a unit: no lane, hint or deadline. -/
def unitReq (id : Nat) (origin : Origin) (op : Op) (a : Addr) (size : BitVec 4) (inst : BitVec 6) (gen : BitVec 4) (label : BitVec 12)
    (optag : BitVec 16) (data : Line) (be : LineBE) : Req :=
  ⟨id, origin, op, false, 0, a, size, 0, label, optag, inst, gen, 0, 0, 0, data, be, none, none, false, false, none, none, false, false, false⟩

/-- The code of R73 that refuses a unit's request before it leaves: its form, then, for a unit whose requests pass the window check,
what its instance may reach. A unit reaches every slice of the package, so R25 applies to counter opcodes alone (R239, R367). -/
def unitCode (g : Regs) (m : Mach) (checked : Bool) (r : Req) : Option Code :=
  if homeSafe m r then some .errSafe
  else if illFormed m r || (isCounterOp r.op && misplaced m r) then some .errDecode
  else if checked && !isCounterOp r.op && !mayReach g m r.inst r.addr then some .errPerm
  else none

/-- A unit sends a request. One that is refused completes at once and is logged with the unit's SRC (R76, R453). -/
def unitSend (g : Regs) (checked : Bool) (src : Option (BitVec 4)) (r : Req) (m : Mach) : Mach :=
  match unitCode g m checked r with
  | none => { m with todo := m.todo ++ [r] }
  | some c =>
    let m := logRefusal src c (opcBits r.op) r m
    { m with unitDone := m.unitDone ++ [(r, c, 0)] }

/-- The first completion that a unit has to take, and the state without it. -/
def takeUnit (p : Origin → Bool) (m : Mach) : Option ((Req × Code × Line) × Mach) :=
  match m.unitDone.find? fun x => p x.1.origin with
  | none => none
  | some x => some (x, { m with unitDone := m.unitDone.erase x })

end Sys2Proof.Machine
end

