-- ==== Sys2Proof/Machine/Dumps.lean ====
section
/-!
DEFINITION. The copies of tensor dumps (R533, R534): one at a time, each line read and then written, at most 64 requests in flight.
-/

namespace Sys2Proof.Machine

def modDump (k : Fin 8) (f : DumpSt → DumpSt) (m : Mach) : Mach :=
  { m with dbg := { m.dbg with dumps := m.dbg.dumps.set k.val (f m.dbg.dumps[k]) k.isLt } }

/-- Change the copy in progress, the first of the list. -/
def modJob (f : DumpJob → DumpJob) (m : Mach) : Mach :=
  { m with dbg := { m.dbg with jobs := match m.dbg.jobs with | [] => [] | j :: rest => f j :: rest } }

/-- The request for line n of a copy: INST 0, LABEL 0, no window check (R533). -/
def dumpReq (g : Regs) (id : Nat) (k : Fin 8) (wr : Bool) (n : Nat) (d : Line) : Req :=
  let c := g.dmp[k]
  unitReq id (.dump k) (if wr then .wr else .rdNc) (lineBase ((if wr then c.dst else c.src) + BitVec.ofNat 44 n)) 8 0 0 0 0 d
    (if wr then BitVec.allOnes 256 else 0)

/-- Send a request of the copy in progress. -/
def dumpSend (g : Regs) (k : Fin 8) (wr : Bool) (n : Nat) (d : Line) (m : Mach) : Mach :=
  let (id, m) := newId m
  unitSend g false none (dumpReq g id k wr n d) (modJob (fun j => { j with await := j.await ++ [(id, wr)] }) m)

/-- The copy in progress reads lines in ascending order while fewer than 64 requests are in flight. -/
def dumpReads (fuel : Nat) (g : Regs) (m : Mach) : Mach :=
  match fuel, m.dbg.jobs with
  | n + 1, j :: _ =>
    if j.next < j.total && decide (j.await.length < 64) then
      dumpReads n g (dumpSend g j.k false j.next 0 (modJob (fun j => { j with next := j.next + 1 }) m))
    else m
  | _, _ => m

/-- A completion of the copy in progress: a line read is written to its place, a line written is copied, the first code other than DONE
stays. A line whose read fails is not written (log 33). -/
def dumpDone (g : Regs) (r : Req) (c : Code) (d : Line) (m : Mach) : Mach :=
  match m.dbg.jobs with
  | [] => m
  | j :: _ =>
    let wr := j.await.any fun x => x.1 == r.id && x.2
    let m := modJob (fun j => { j with
      await := j.await.filter fun x => x.1 != r.id
      code := if j.code == .done then c else j.code
      copied := if wr && c == .done then j.copied + 1 else j.copied }) m
    let line := (lineOf r.addr - (g.dmp[j.k]).src).toNat
    dumpReads 64 g (if !wr && c == .done then dumpSend g j.k true line d m else m)

/-- The copy in progress has read every line and nothing of it is in flight. -/
def dumpOver (j : DumpJob) : Bool := decide (j.next ≥ j.total) && j.await.isEmpty

end Sys2Proof.Machine
end

