-- ==== Sys2Proof/Machine/Ingress.lean ====
section
/-!
DEFINITION. The ingress of a request port as it is parsed, and the WD beats that its transactions take (R53 to R56, R74, R75).
-/

namespace Sys2Proof.Machine

/-! ## WD beats (R53 to R56, R74, R75) -/

/-- Put beat `n` of the write data of a request into its place in the line (R55, R56). PLACE, ADDL and GRP_CONTRIB take every byte of their
range: the agent sends BE all ones, and the slice does not look at it (DESIGN CHOICE, log 106). -/
def addBeat (r : Req) (n : Nat) (b : WdBeat) : Req :=
  match r.op with
  | .atomR | .atomN => { r with data := b.data.setWidth 2048, be := beRange 0 64 }
  | _ =>
    let s := (r.addr.toNat % 256 / 64 + n) % 4
    let span := beRange (r.addr.toNat % 256) (2 ^ r.size.toNat)
    let be : LineBE := if r.op == .wr then (b.be.setWidth 256 <<< (64 * s)) &&& span else beRange (64 * s) 64
    { r with data := r.data ||| (b.data.setWidth 2048 <<< (512 * s)), be := r.be ||| be }

/-- Change a transaction of a port. -/
def modTxn (p : PortIx) (id : Nat) (f : Txn → Txn) (m : Mach) : Mach :=
  modPort p (fun x => { x with txns := x.txns.map fun t => if t.req.id == id then f t else t }) m

/-- The last beat of a transaction is in: a refused one completes, another may enter the pipeline. -/
def beatsDone (g : Regs) (p : PortIx) (id : Nat) (m : Mach) : Mach :=
  let m := modPort p (fun x => { x with wd := x.wd.filter fun y => y.1 != id }) (modTxn p id (fun t => { t with need := 0 }) m)
  match (portAt m p).txns.find? fun t => t.req.id == id with
  | none => m
  | some t => match t.phase with
    | .refused c => completeRefused p t c m
    | _ => enterReady g p m

/-- A WD beat of the transaction whose beats are due (R54, R74, R75). Of a request refused at the parse it is counted and discarded; else
it fits, or it refuses the transaction, whose beats are then discarded to the next LAST. -/
def takeWd (g : Regs) (p : PortIx) (id total got : Nat) (t : Txn) (b : WdBeat) (m : Mach) : Mach :=
  let next := modPort p fun x => { x with wd := x.wd.map fun y => if y.1 == id then (id, total, got + 1) else y }
  let fits := t.req.txn == b.txn && b.last == decide (got + 1 = total)
  match t.phase with
  | .refused _ => if got + 1 == total then beatsDone g p id m else next m
  | _ =>
    if fits then
      let m := modTxn p id (fun t => { t with req := addBeat t.req got b }) m
      if b.last then beatsDone g p id m else next m
    else
      let m := refuseTxn p t .errDecode (opcBits t.req.op) m
      if b.last then beatsDone g p id m else modPort p (fun x => { x with wdSkip := true }) m

/-- The WD beats taken go to the transactions whose beats are due, as these are parsed (R39, R75). -/
def wdLoop (fuel : Nat) (g : Regs) (p : PortIx) (m : Mach) : Mach :=
  match fuel with
  | 0 => m
  | n + 1 =>
    match (portAt m p).wd, (portAt m p).wdIn with
    | (id, total, got) :: _, b :: rest =>
      match (portAt m p).txns.find? fun t => t.req.id == id with
      | none => m
      | some t =>
        let m := modPort p (fun x => { x with wdIn := rest }) m
        let m :=
          if (portAt m p).wdSkip then
            (if b.last then beatsDone g p id (modPort p (fun x => { x with wdSkip := false }) m) else m)
          else takeWd g p id total got t b m
        wdLoop n g p m
    | _, _ => m

/-- Parse what can be parsed on a port and hand out its WD beats. -/
def drainPort (g : Regs) (p : PortIx) (m : Mach) : Mach := wdLoop (portAt m p).wdIn.length g p (drainIngress g p m)

/-- A request of the ingress buffer can be parsed: no global stop (R535, R537), and for lane 0 room in the hold queue (R417). -/
def parseReady (m : Mach) (p : PortIx) : Bool :=
  !m.dbg.stopped && (!(portAt m p).in1.isEmpty || (!(portAt m p).in0.isEmpty && !holdFull (portAt m p)))

end Sys2Proof.Machine
end

