-- ==== Sys2Proof/Machine/ViJobs.lean ====
section
/-!
DEFINITION. How a save writes its record and a restore reads one (R502, R503): line by line in ascending order, at most 64 requests in
flight, without instance, label or window check.
-/

namespace Sys2Proof.Machine

/-- First line of the record, VI_SAVE. -/
def viBase (g : Regs) : LineAddr := (g.viSaveH.setWidth 44 <<< 24) ||| g.viSaveL.setWidth 44

/-- Two byte ranges of the address space meet, each given by its first byte and its length. -/
def bytesMeet (a n b k : Nat) : Bool := decide (a < b + k) && decide (b < a + n)

/-- The range meets the reservation window or the image area. -/
def meetsReserved (m : Mach) (a n : Nat) : Bool :=
  bytesMeet a n ((sliceWord m 21).toNat * 2 ^ 20) (((sliceWord m 22).extractLsb' 0 16).toNat * 2 ^ 20)
    || bytesMeet a n (m.jrn.boota.toNat * 2 ^ 28) (2 ^ 21)

/-- The range lies in package memory. -/
def inPackage (m : Mach) (a n : Nat) : Bool :=
  decide ((chipNum m).toNat * 2 ^ 47 ≤ a) && decide (a + n ≤ ((chipNum m).toNat + 1) * 2 ^ 47)

/-- The range meets an enabled window that `p` takes. -/
def meetsWindow (g : Regs) (p : Window → Bool) (a n : Nat) : Bool :=
  g.windows.any fun x => x.2.en && p x.2 && bytesMeet a n (x.2.base.toNat * 2 ^ 21) (x.2.size.toNat * 2 ^ 21)

/-- The conditions of R502 on a record of n bytes. -/
def recordFits (g : Regs) (m : Mach) (inst : BitVec 6) (n : Nat) : Bool :=
  let a := (viBase g).toNat * 256
  inPackage m a n && !meetsWindow g (fun w => w.inst == inst) a n && !meetsReserved m a n

/-- Change the command in progress. -/
def modVi (f : ViCmd → ViCmd) (m : Mach) : Mach := { m with vi := { m.vi with job := m.vi.job.map f } }

/-- Send the request for line n: a WR of the record's line, or a read. -/
def viSend (g : Regs) (j : ViCmd) (n : Nat) (m : Mach) : Mach :=
  let (id, m) := newId m
  let wr := j.cmd == 4
  let r := unitReq id .save (if wr then .wr else .rdNc) (lineBase (viBase g + BitVec.ofNat 44 n)) 8 0 0 0 0
    (if wr then tabGet 0 j.lines n else 0) (if wr then BitVec.allOnes 256 else 0)
  unitSend g false none r (modVi (fun j => { j with await := j.await ++ [(id, n)], next := n + 1 }) m)

/-- Send while lines remain and fewer than 64 requests are in flight. -/
def viIssue (fuel : Nat) (g : Regs) (m : Mach) : Mach :=
  match fuel, m.vi.job with
  | n + 1, some j =>
    if j.fail.isNone && decide (j.next < j.len) && decide (j.await.length < 64) then viIssue n g (viSend g j j.next m) else m
  | _, _ => m

/-- LEN of a header line, bytes 12 to 15. -/
def recordLen (l0 : Line) : Nat := (l0.extractLsb' 96 32).toNat

/-- The lines of a record of n bytes; its header is one of them. -/
def recordLines (n : Nat) : Nat := max 1 ((n + 255) / 256)

/-- A restore has read line n. The header gives the length, whose range is checked before more is read. -/
def viTakeLine (g : Regs) (m : Mach) (n : Nat) (d : Line) (j : ViCmd) : ViCmd :=
  let j := { j with lines := tabSet 0 j.lines n d }
  if n != 0 then j
  else if recordFits g m j.inst (recordLen d) then { j with len := recordLines (recordLen d) }
  else { j with fail := some 4 }

/-- A request of the record completes. A code other than DONE fails the command (Table 16.5), and no further line moves. -/
def viDone (g : Regs) (r : Req) (c : Code) (d : Line) (m : Mach) : Mach :=
  match m.vi.job with
  | none => m
  | some j =>
    match j.await.find? fun x => x.1 == r.id with
    | none => m
    | some (_, n) =>
      let take := fun (j : ViCmd) =>
        let j := { j with await := j.await.filter fun x => x.1 != r.id }
        if c != .done then { j with fail := some (j.fail.getD 4) }
        else if j.cmd == 5 then viTakeLine g m n d j
        else j
      viIssue 64 g (modVi take m)

end Sys2Proof.Machine
end

