-- ==== Sys2Proof/Machine/Settle.lean ====
section
/-!
DEFINITION. What a command sets going inside the slice is carried to rest within the command (log 11): answers to the conflict
tracker, requests that go on, the ends of requests, completions of departed agents, deferred snoops, units' requests.
-/

namespace Sys2Proof.Machine

/-! ## Presentation (R41, R44, R429) -/

/-- The place of an entry among those of one core cycle: class, deadline misses first, channel (R431). -/
def missRank (e : MissLog) : Nat := 4 * e.cls.toNat + (if e.kind then 2 else 0) + (if e.ch then 1 else 0)

/-- An entry of the miss log (R431). Those of one core cycle stand in their order. -/
def logMiss (now : Nat) (e : MissLog) (m : Mach) : Mach :=
  let v := m.svc
  let n := if v.mlAt == now then min v.mlN 15 else 0
  let at_ := fun (i : Nat) => (v.mlptr - BitVec.ofNat 4 n + BitVec.ofNat 4 i).toNat
  let es := insertBy missRank e ((List.range n).map fun i => tabGet MissLog.none v.mlog (at_ i))
  { m with svc := { v with
      mlog := es.zipIdx.foldl (fun t x => tabSet MissLog.none t (at_ x.2) x.1) v.mlog
      mlptr := v.mlptr + 1, mlAt := now, mlN := n + 1 } }

/-- The first beat of a completion is presented late (R429). -/
def deadlineMiss (g : Regs) (p : PortIx) (c : Cmpl) (m : Mach) : Mach :=
  match c.req.dlc with
  | none => m
  | some k =>
    let d := c.req.accept + 8 * c.req.dl.toNat
    if c.req.lane || decide (c.pres ≤ d) || !(isDone c.code || c.code == .errData) then m
    else
      let late := min 65535 ((c.pres - d + 7) / 8)
      let m := { m with svc := { m.svc with dlcnt := m.svc.dlcnt.set k.toNat (m.svc.dlcnt[k.toNat]'(k.isLt) + 1) k.isLt } }
      let m := profile g (portHalf p) 0x0A (who c.req) 1 m
      logMiss (coreTime m (portHalf p)) ⟨true, false, false, k, c.req.inst, c.req.label, c.req.optag, BitVec.ofNat 16 late⟩ m

/-- The completion that a port presents on RSP, and the one whose first beat it presents on RD. -/
def shownCmpls (p : Port) : Option Cmpl × Option Cmpl :=
  (p.rspCur, match p.rdCur with | some (.cmpl c, false) => some c | _ => none)

/-- A port presents what it can; the beats that appear now are counted when they are late (R429). -/
def presentPort (g : Regs) (p : PortIx) (m : Mach) : Mach :=
  let old := portAt m p
  let m := modPort p (present (coreTime m (portHalf p))) m
  let new := shownCmpls (portAt m p)
  let count := fun (was : Bool) (c : Option Cmpl) (m : Mach) => match c with
    | some c => if was then m else deadlineMiss g p c m
    | none => m
  count old.rdCur.isSome new.2 (count old.rspCur.isSome new.1 m)

/-! ## What goes on -/

/-- A request that waited for its data goes to its order point again: the result of a group is being written to its line (R343), or it writes
a remote line whose permission has gone meanwhile (R233). -/
def ordersAgain (g : Regs) (m : Mach) (h : Half) (r : Req) : Bool :=
  let result := match confOf (halfAt m h) (lineOf r.addr) with
    | some c => (match c.req with
      | some w => (match w.origin with | .grp .. => w.id != r.id && r.op != .grpContrib | _ => false)
      | none => false)
    | none => false
  let delivery := r.op == .place && r.be == 0
  result || (r.given.isNone && isUpdate r.op && !delivery && !isPackage m r.addr && !permitted g m h r)

/-- A request goes on where it waited. One that must wait at the order point again stands first there. -/
def goOn (g : Regs) (x : Again) (m : Mach) : Mach :=
  if (halfAt m x.half).safe then safeAnswer x.half x.req m
  else match (if x.stage == .data && ordersAgain g m x.half x.req then Stage.order else x.stage) with
    | .data => dataPhase g x.half x.req m
    | .order =>
      if pointBlocked g m x.half x.req then modHalf x.half (fun hs => { hs with opWait := x.req :: hs.opWait }) m
      else orderNow g x.half x.req m

/-- Completions of a departed agent's port, taken as transferred (Table 3.10). -/
def portReady (p : Port) : List Cmpl :=
  p.rsp ++ p.rspNew ++ p.rspCur.toList ++ (p.rd ++ p.rdNew ++ (p.rdCur.map (·.1)).toList).filterMap fun i => match i with | .cmpl c => some c | .place .. => none

def dropCompletions (g : Regs) (p : PortIx) (m : Mach) : Mach :=
  let cs := portReady (portAt m p)
  let m := modPort p (fun x => { x with
    rspNew := [], rdNew := [], rsp := [], rspCur := none, rd := [], rdCur := none
    txns := x.txns.filter fun t => !(cs.any fun c => c.req.id == t.req.id) }) m
  enterReady g p { m with finished := m.finished ++ cs.map fun c => (c.req, c.code) }

/-- A deferred snoop of a port can be presented now (R67). -/
def snoopReady (m : Mach) (p : PortIx) : Bool :=
  clocked m (portHalf p) && (portAt m p).deferred.any (snoopFree m (portAt m p))

/-- A completion that the slice itself takes at once: of a result write, the range engine, a dump copy, a save. -/
def takenAtOnce (o : Origin) : Bool := match o with | .grp .. => true | .range _ => true | .dump _ => true | .save => true | _ => false

/-- One thing that remains to be carried on, or none. -/
def settleStep (g : Regs) (m : Mach) : Option Mach :=
  match m.answers with
  | a :: rest => some (answerConf g a { m with answers := rest })
  | [] =>
  match m.again with
  | x :: rest => some (goOn g x { m with again := rest })
  | [] =>
  match m.finished with
  | (r, c) :: rest => some (finishReq r c { m with finished := rest })
  | [] =>
  match m.unitDone.find? fun x => takenAtOnce x.1.origin with
  | some (r, c, d) =>
    let m := { m with unitDone := m.unitDone.erase (r, c, d) }
    some (match r.origin with | .grp h rid => resultWritten g h rid c m | .dump _ => dumpDone g r c d m | .save => viDone g r c d m | _ => rangeLineDone r c m)
  | none =>
  match bothHalves.findSome? fun h => (closedNow (halfAt m h)).map fun gid => (h, gid) with
  | some (h, gid) => some (endAbort g h gid m)
  | none =>
  match allPorts.find? fun p => (portAt m p).departed && !(portReady (portAt m p)).isEmpty with
  | some p => some (dropCompletions g p m)
  | none =>
  match allPorts.find? (parseReady m) with
  | some p => some (drainPort g p m)
  | none =>
  match allPorts.find? (snoopReady m) with
  | some p => some (releaseDeferred (portAt m p).deferred.length p m)
  | none =>
  match m.todo.find? (canLeave m) with
  | some r => some (sendHome g r { m with todo := m.todo.erase r })
  | none =>
  match controlError m with
  | some e => some (readControl g e.half e.arr e.idx m)
  | none =>
  match safeWaiting m with
  | some x => some (enterSafe x.1 x.2.1 x.2.2 m)
  | none =>
  -- everything is at rest: the completions of this core cycle are presented
  (allPorts.find? fun p => canPresent (portAt m p)).map fun p => presentPort g p m

/-- Carry everything on until the slice is at rest. -/
def settleLoop (fuel : Nat) (g : Regs) (m : Mach) : Mach :=
  match fuel with
  | 0 => m
  | n + 1 =>
    match settleStep g m with
    | none => m
    | some m' => settleLoop n g m'

/-- The bound on what one command can set going. -/
def settleFuel : Nat := 1000000

def settle (g : Regs) (m : Mach) : Mach := settleLoop settleFuel g m

/-- A command whose effect is on what moves by itself. -/
def run (f : Regs → Mach → Mach) (s : State) : Host.Outcome State Fault Refusal :=
  .next { s with m := settle s.regs (f s.regs s.m) }

end Sys2Proof.Machine
end

