-- ==== Sys2Proof/Machine/Anvil.lean ====
section
/-!
DEFINITION. The operations of the Anvil (chapter 09): OPEN, MMA, REDUCE, DRAIN and DISCARD, the operand feed, spills and reruns, drain
writes.
-/

namespace Sys2Proof.Machine

/-! ## Operand elements (R291) -/

/-- Byte `a` of the lines that the feed has read. -/
def fedByte (ls : Tab (Option Line)) (a : Nat) : Nat :=
  (((tabGet none ls (a / 256)).getD 0).extractLsb' (8 * (a % 256)) 8).toNat

/-- `w` bits from bit `b` on of the byte at `a`. -/
def fedBits (ls : Tab (Option Line)) (a b w : Nat) : Nat :=
  let n := (b % 8 + w + 7) / 8
  let v := (List.range n).foldr (fun i x => x * 256 + fedByte ls (a + b / 8 + i)) 0
  v / 2 ^ (b % 8) % 2 ^ w

/-- Storage row and position of index x of the tile at K-step k. -/
def elemPlace (p : Part) (x k : Nat) : Nat × Nat := if p.orient then (x, k) else (k, x)

/-- The encoding of an element, and the scale byte of its block. -/
def elemCode (ls : Tab (Option Line)) (p : Part) (fmt x k : Nat) : Nat × Nat :=
  let (r, i) := elemPlace p x k
  (fedBits ls (p.base + r * p.ld) (elementBits fmt * i) (elementBits fmt),
   if isMx fmt then fedByte ls (p.sbase + r * p.sld + i / 32) else 0)

/-- The value of an element. -/
def elemValue (ls : Tab (Option Line)) (p : Part) (fmt x k : Nat) : Num :=
  let c := elemCode ls p fmt x k
  if isMx fmt then scaledNum fmt c.2 c.1 else elementNum fmt c.1

/-! ## The operand feed (R300 to R303) -/

/-- Lines of a byte range, ascending. -/
def linesOfRange (a n : Nat) : List Nat := (List.range ((a + n - 1) / 256 - a / 256 + 1)).map fun i => a / 256 + i

/-- Ascending order. -/
def insertNat (x : Nat) (xs : List Nat) : List Nat :=
  match xs with
  | [] => [x]
  | y :: r => if x < y then x :: y :: r else if x == y then y :: r else y :: insertNat x r

def sortNat (xs : List Nat) : List Nat := xs.foldl (fun a x => insertNat x a) []

/-- The element lines and the scale lines of K-steps k to k + n − 1. -/
def groupLines (p : Part) (fmt dim k n : Nat) : List Nat × List Nat :=
  let w := elementBits fmt
  let rows := if p.orient then (List.range dim).map fun r => (r, k, n) else (List.range n).map fun i => (k + i, 0, dim)
  let elem := fun (x : Nat × Nat × Nat) =>
    linesOfRange (p.base + x.1 * p.ld + w * x.2.1 / 8) ((w * (x.2.1 + x.2.2) + 7) / 8 - w * x.2.1 / 8)
  let scale := fun (x : Nat × Nat × Nat) =>
    linesOfRange (p.sbase + x.1 * p.sld + x.2.1 / 32) ((x.2.1 + x.2.2 - 1) / 32 - x.2.1 / 32 + 1)
  (sortNat (rows.flatMap elem), if isMx fmt then sortNat (rows.flatMap scale) else [])

/-- The lines of 32 K-steps in the order of first need: cycle groups in order, the scale lines of each after its element lines. -/
def feedOrder (p : Part) (fmt dim gk k : Nat) : List Nat :=
  (List.range (32 / gk)).foldl (fun a c =>
    let x := groupLines p fmt dim (k + gk * c) gk
    let a := a ++ x.1.filter fun l => !a.contains l
    a ++ x.2.filter fun l => !a.contains l) []

/-- g of a group (R281). -/
def groupRate (gr : AGroup) : Nat :=
  if grpFunc gr == 7 then min (rateOf (w0Afmt gr.w0)) (rateOf (w0Bfmt gr.w0)) else rateOf (w0Afmt gr.w0)

/-- The lines of A and of B that the K-steps from k to k + 31 need, in the order of first need. -/
def chunkLines (gr : AGroup) (o : AOp) (k : Nat) : List Nat × List Nat :=
  let matrix := grpFunc gr == 7
  let gk := groupRate gr
  (feedOrder (partA o) (w0Afmt gr.w0) (if matrix then (shapeDims (grpShape gr)).1 else 32) gk k,
   if matrix then feedOrder (partB o) (w0Bfmt gr.w0) (shapeDims (grpShape gr)).2 gk k else [])

/-- The next lines that an operation needs from K-step k on, at most na of A and nb of B. -/
def feedWindow (gr : AGroup) (o : AOp) (na nb : Nat) : (chunks k : Nat) → List Nat × List Nat → List Nat × List Nat
  | 0, _, acc => (acc.1.take na, acc.2.take nb)
  | c + 1, k, acc =>
    if decide (na ≤ acc.1.length) && (decide (nb ≤ acc.2.length) || grpFunc gr != 7) then (acc.1.take na, acc.2.take nb)
    else
      let x := chunkLines gr o k
      feedWindow gr o na nb c (k + 32) (acc.1 ++ x.1.filter (fun l => !acc.1.contains l), acc.2 ++ x.2.filter fun l => !acc.2.contains l)

/-- The group of an operation that the feed serves. -/
def macGroup (m : Mach) (h : Half) (x : MacOp) : AGroup := x.own.getD (agroupAt m h (grpIx x.grp))

def setMac (h : Half) (x : Option MacOp) (m : Mach) : Mach := setFeeder h none x m

/-- Send reads of the feed: RD_NC of whole lines for the operation's instance. -/
def feedReads (g : Regs) (h : Half) (w : Option Half) (x : MacOp) (ls : List (Nat × Bool)) (m : Mach) : Mach :=
  ls.foldl (fun m l =>
    let (id, m) := newId m
    let r := unitReq id (.feed h l.2) .rdNc (BitVec.ofNat 52 (256 * l.1)) 8 x.op.inst x.op.gen x.op.label x.op.optag 0 0
    let m := setFeeder h w ((feederAt (anvAt m h) w).map fun y => { y with await := y.await ++ [(id, l.1)] }) m
    let m := modAnv h (fun a => { a with feedOut := a.feedOut ++ [(id, l.2)] }) m
    unitSend g true (some (seqSrc h x.op.seq)) r m) m

/-- The operation has the line, or has asked for it. -/
def hasLine (x : MacOp) (l : Nat) : Bool := (tabGet none x.lines l).isSome || x.await.any fun y => y.2 == l

/-- The lines of the window to read now: one that both operands need is read once, as A's; at most 256 of each are in flight. -/
def feedNow (a : Anvil) (x : MacOp) (win : List Nat × List Nat) : List (Nat × Bool) :=
  let room := fun b => Config.feedLines - (a.feedOut.filter fun y => y.2 == b).length
  let la := (win.1.filter fun l => !hasLine x l).take (room false)
  let lb := (win.2.filter fun l => !hasLine x l && !win.1.contains l).take (room true)
  la.map (fun l => (l, false)) ++ lb.map fun l => (l, true)

/-- No operation leaves: EN is 0, the sequencer is halted, or the global stop (R322, R524, R535). -/
def queueHeld (g : Regs) (m : Mach) (h k : Half) : Bool := !g.anvEn[h] || (seqAt m h k).halted || m.dbg.stopped

/-- One operation's reads, with the buffer lines that are left for the operations after it. None begin for the head of a queue that no
operation leaves (R322), that R294 refuses, or that has a failed read (R303). -/
def feedFor (g : Regs) (h : Half) (w : Option Half) (acc : Mach × Nat × Nat) : Mach × Nat × Nat :=
  let (m, na, nb) := acc
  match feederAt (anvAt m h) w with
  | none => acc
  | some x =>
    if w.any fun k => queueHeld g m h k || (opRefusal m h x.op).isSome || x.bad.isSome then acc
    else
      let win := feedWindow (macGroup m h x) x.op na nb (min 4096 ((opK x.op - x.step) / 32)) x.step ([], [])
      (if x.st == .feeding then feedReads g h w x (feedNow (anvAt m h) x win) m else m, na - win.1.length, nb - win.2.length)

/-- The feed reads on, for the operation in the MAC stage first (R301). -/
def feedMore (g : Regs) (h : Half) (m : Mach) : Mach :=
  ([none, some 0, some 1].foldl (fun acc w => feedFor g h w acc) (m, Config.feedLines, Config.feedLines)).1

/-! ## The MAC stage (R283, R286, R319, R331, R334) -/

/-- A slot table as an array. -/
def slotArray (t : Tab (BitVec 32)) : Array (BitVec 32) :=
  t.foldl (fun a x => a.setIfInBounds x.1 x.2) (Array.replicate 4096 0)

/-- The accumulator in a slot, or in the pair that starts there. -/
def accAt (wide : Bool) (a : Array (BitVec 32)) (key : Nat) : Nat :=
  (a.getD key 0).toNat + if wide then (a.getD (key + 1) 0).toNat % 65536 * 2 ^ 32 else 0

/-- An accumulator as slot entries. -/
def accSlots (wide : Bool) (key v : Nat) : List (Nat × BitVec 32) :=
  let e := fun (k : Nat) (x : BitVec 32) => if x == 0 then [] else [(k, x)]
  e key (BitVec.ofNat 32 v) ++ if wide then e (key + 1) (BitVec.ofNat 32 (v / 2 ^ 32)) else []

/-- The first slot of each role of a matrix group (R285). -/
def roleSlots (w0 : BitVec 32) : List Nat :=
  let qs := slotList (w0Slots w0)
  if w0Acc w0 == 2 then qs.filter fun q => q % 2 == 0 else qs

/-- What some K-steps did to a group: its slots, an overflow, a wrap. -/
structure StepOut where
  slots : List (Nat × BitVec 32)
  ovf   : Bool
  wrap  : Bool

/-- The cells, row by row. -/
def allCells : List (Nat × Nat) := (List.range 1024).map fun c => (c / 32, c % 32)

/-- 32 K-steps of an MMA. Band b takes cycle group s × t + b in step t (R286). -/
def macChunk (gr : AGroup) (x : MacOp) (slots : Tab (BitVec 32)) : StepOut :=
  let af := w0Afmt gr.w0
  let bf := w0Bfmt gr.w0
  let (mm, nn) := shapeDims (grpShape gr)
  let gk := groupRate gr
  let s := shapeBands (grpShape gr)
  let wide := grpAcc gr == 2
  let ea : Array (Array Num) := ((List.range mm).map fun i => ((List.range 32).map fun k =>
    elemValue x.lines (partA x.op) af i (x.step + k)).toArray).toArray
  let eb : Array (Array Num) := ((List.range nn).map fun i => ((List.range 32).map fun k =>
    elemValue x.lines (partB x.op) bf i (x.step + k)).toArray).toArray
  let arr := slotArray slots
  let prods := fun (i j c : Nat) => (List.range gk).map fun u =>
    product af bf gr.s ((ea.getD i #[]).getD (gk * c + u) .nan) ((eb.getD j #[]).getD (gk * c + u) .nan)
  let cell := fun (acc : StepOut) (ij : Nat × Nat) (role q : Nat) =>
    let (i, j, b) := placeOut (grpShape gr) ij.1 ij.2 role
    let key := 4 * (32 * ij.1 + ij.2) + q
    let r := (List.range (32 / (gk * s))).foldl (fun (y : Nat × Bool × Bool) t =>
      let z := accStep (grpAcc gr) y.1 (prods i j (s * t + b))
      (z.1, y.2.1 || z.2.1, y.2.2 || z.2.2)) (accAt wide arr key, false, false)
    StepOut.mk ((accSlots wide key r.1).reverse ++ acc.slots) (acc.ovf || r.2.1) (acc.wrap || r.2.2)
  let out := allCells.foldl (fun acc ij =>
    (roleSlots gr.w0).zipIdx.foldl (fun acc q => cell acc ij q.2 q.1) acc) ⟨[], false, false⟩
  { out with slots := out.slots.reverse }

/-- 32 K-steps of a REDUCE. Cycle group c′ of row m, counted from OPEN, goes to cell (m, c′ mod 32) (R319). -/
def reduceChunk (gr : AGroup) (x : MacOp) (slots : Tab (BitVec 32)) : StepOut :=
  let af := w0Afmt gr.w0
  let func := grpFunc gr
  let gk := rateOf af
  let wide := grpAcc gr == 2 && func == 0
  let qs := slotList (grpSlots gr)
  let q0 := qs.headD 0
  let q1 := (qs.drop 1).headD 0
  let arr := slotArray slots
  let c0 := gr.k / gk
  let step := fun (acc : StepOut) (ij : Nat × Nat) =>
    let key := 4 * (32 * ij.1 + ij.2)
    let t := (ij.2 + 32 - c0 % 32) % 32
    let ks := (List.range gk).map fun u => gk * t + u
    let keep := qs.flatMap fun q => let v := arr.getD (key + q) 0; if v == 0 then [] else [(key + q, v)]
    if t ≥ 32 / gk then { acc with slots := keep.reverse ++ acc.slots }
    else if func == 0 then
      let r := accStep (grpAcc gr) (accAt wide arr (key + q0)) (ks.map fun k => elemValue x.lines (partA x.op) af ij.1 (x.step + k))
      ⟨(accSlots wide (key + q0) r.1).reverse ++ acc.slots, acc.ovf || r.2.1, acc.wrap || r.2.2⟩
    else
      let es := ks.map fun k => let c := elemCode x.lines (partA x.op) af ij.1 (x.step + k); (heldForm af c.2 c.1, gr.k + k)
      let e := fun (q : Nat) (v : BitVec 32) => if v == 0 then [] else [(key + q, v)]
      if func ≤ 2 then
        { acc with slots := (e q0 (foldBest af func (arr.getD (key + q0) 0) (es.map (·.1)))).reverse ++ acc.slots }
      else
        let r := foldArg af func (arr.getD (key + q0) 0) (arr.getD (key + q1) 0) es
        { acc with slots := (e q0 r.1 ++ e q1 r.2).reverse ++ acc.slots }
  let out := allCells.foldl step ⟨[], false, false⟩
  { out with slots := out.slots.reverse }

/-- The group takes a checkpoint before an MMA (R304). A REDUCE takes none and never runs again; an overflow of its FP32 sum sets OVF also with
an MX operand (DESIGN CHOICE, log 126). -/
def needsCheckpoint (gr : AGroup) : Bool :=
  grpFunc gr == 7 && grpAcc gr == 0 && (isMx (w0Afmt gr.w0) || isMx (w0Bfmt gr.w0))

def takeCheckpoint (g : Regs) (h : Half) (n : Fin 16) (m : Mach) : Mach :=
  let gr := agroupAt m h n
  let m := cruWrite g h (ckWords gr) m
  modAnv h (fun a => { a with ck := some ⟨n.val, slotsOf (grpSlots gr) a.slots, gr.part, gr.k, gr.s⟩ }) m

/-- The operation in the MAC stage and its group. -/
def putMac (h : Half) (x : MacOp) (gr : AGroup) (m : Mach) : Mach :=
  setMac h (some { x with own := x.own.map fun _ => gr }) (if x.own.isNone then setAGroup h (grpIx x.grp) gr m else m)

/-- Crucible words of the operation's group: none once a reset has closed it. -/
def macWords (x : MacOp) (ks : List Nat) : List Nat := if x.own.isNone then ks else []

/-- The operation leaves the MAC stage: its STATUS follows when its last cycle group has left the adder tree (R293). -/
def macDone (h : Half) (x : MacOp) (m : Mach) : Mach :=
  let gr := macGroup m h x
  let w := statusWord .done ||| rerunField gr.s ||| statusFlags x.ovf x.wrap false x.spills
  modAnv h (fun a => { a with mac := none, ck := none, tree := a.tree ++ [⟨x.op, x.grp, x.use, x.own.isSome, w, x.rrun⟩] }) m

/-- The operation stops with a code, and its group fails with it (R303). -/
def macFail (h : Half) (x : MacOp) (c : Code) (m : Mach) : Mach :=
  let gr := macGroup m h x
  let m := if x.own.isNone then setAGroup h (grpIx x.grp) { gr with fail := some (gr.fail.getD c) } m else m
  let w := statusWord c ||| rerunField gr.s ||| statusFlags x.ovf x.wrap false x.spills
  writeStatus h x.op w (modAnv h (fun a => { a with mac := none, ck := none }) m)

/-- A spill is due before the next cycle group (R307). -/
def spillDue (gr : AGroup) (x : MacOp) : Bool :=
  grpSpill gr != 0 && gr.k != 0 && gr.k % (512 * grpSpill gr) == 0 && !x.spilled

/-- 32 K-steps enter the array. An overflow that a rerun removes stops the feed (R305). -/
def macAdvance (h : Half) (gr : AGroup) (x : MacOp) (m : Mach) : Mach :=
  let old := slotsOf (grpSlots gr) (anvAt m h).slots
  let out := if grpFunc gr == 7 then macChunk gr x old else reduceChunk gr x old
  if out.ovf && needsCheckpoint gr && decide (gr.s < 9) then setMac h (some { x with st := .overflow, rrun := true }) m
  else
    let ovf := out.ovf && grpAcc gr == 0
    putMac h { x with step := x.step + 32, spilled := false, ovf := x.ovf || ovf, wrap := x.wrap || out.wrap }
      { gr with k := gr.k + 32, ovf := gr.ovf || ovf, wrap := gr.wrap || out.wrap }
      (modAnv h (fun a => { a with slots := putSlots (grpSlots gr) out.slots a.slots }) m)

/-- The lines of the next 32 K-steps are buffered. -/
def chunkReady (gr : AGroup) (x : MacOp) : Bool :=
  let ls := chunkLines gr x.op x.step
  (ls.1 ++ ls.2).all fun l => (tabGet none x.lines l).isSome

/-- The MAC stage goes on as far as its lines reach, up to a spill or an overflow. -/
def macRun (fuel : Nat) (h : Half) (m : Mach) : Mach :=
  match fuel with
  | 0 => m
  | n + 1 =>
    match (anvAt m h).mac with
    | none => m
    | some x =>
      let gr := macGroup m h x
      if x.st != .feeding then m
      else if x.step ≥ opK x.op then macDone h x m
      else if spillDue gr x then setMac h (some { x with st := .spill }) m
      else if chunkReady gr x then macRun n h (macAdvance h gr x m)
      else m

/-- The MAC stage and the feed go on. -/
def macGo (g : Regs) (h : Half) (m : Mach) : Mach :=
  feedMore g h (match (anvAt m h).mac with
    | some x => macRun (opK x.op / 32 + 2) h m
    | none => m)

/-! ## The drain (R292, R310 to R316, R321) -/

/-- The slot values that a drain reads: the slots, or the park area. -/
def drainSlots (a : Anvil) (gr : AGroup) : Array (BitVec 32) := slotArray (if gr.seated then a.slots else gr.park)

/-- The combined value of output (m, n) of a matrix group, and a wrap. -/
def outValue (gr : AGroup) (arr : Array (BitVec 32)) (i j : Nat) : Nat × Bool :=
  combineBands (grpAcc gr) ((List.range (shapeBands (grpShape gr))).map fun b =>
    let (ci, cj, role) := outPlace (grpShape gr) i j b
    let key := 4 * (32 * ci + cj) + (roleSlots gr.w0).getD role 0
    bandValue (grpAcc gr) (accAt (grpAcc gr == 2) arr key) (tabGet none gr.part key))

/-- The result of a row of a REDUCE group: its value or index (R321, R334). A sum is combined as XA48 in every group; the INT32 result of one
outside the range of INT32 is free (log 24). -/
def reduceResult (gr : AGroup) (arr : Array (BitVec 32)) (i : Nat) (rfmt : Nat) (sat : Bool) : Nat :=
  let func := grpFunc gr
  let af := w0Afmt gr.w0
  let qs := slotList (grpSlots gr)
  let key := fun (j q : Nat) => 4 * (32 * i + j) + qs.getD q 0
  if func == 0 then
    let cell := fun (j : Nat) =>
      let v := bandValue (grpAcc gr) (accAt (grpAcc gr == 2) arr (key j 0)) (tabGet none gr.part (key j 0))
      if grpAcc gr == 1 then (toXa48 (accNum 1 v)).toNat else v
    let v := accNum 0 (((treeFold 5 (addAcc 0) ((List.range 32).map fun j => (cell j, false))).head?).getD (0, false)).1
    let i := roundInt v
    if rfmt == 0 && !(decide (-(2 ^ 31 : Int) ≤ i) && decide (i < 2 ^ 31)) then (Config.int32Sum i).toNat else resultCode rfmt sat v
  else
    let vs := (List.range 32).map fun j => (arr.getD (key j 0) 0, if func ≤ 2 then 0 else arr.getD (key j 1) 0)
    let best := fun (x y : BitVec 32 × BitVec 32) =>
      if func ≤ 2 then (if better (funcHigh func) (heldNum af func y.1) (heldNum af func x.1) then y else x) else combineArg af func x y
    let r := ((treeFold 5 best vs).head?).getD (0, 0)
    if func ≤ 2 then resultCode rfmt sat (heldNum af func r.1) else r.2.toNat

/-- Some bytes to write: address, length, value, the first byte lowest. -/
abbrev Bytes := Nat × Nat × Nat

/-- What a drain writes for one row, with its row statistics; whether a result is NaN, and a wrap (R292, R313). -/
structure RowOut where
  writes : List Bytes
  stat   : Nat
  nan    : Bool
  wrap   : Bool

/-- 32 XA48 results as a line: two blocks, then zero bytes (R272). -/
def xa48Line (xs : List Nat) : Nat := packElems 48 xs

/-- A row of a matrix group. -/
def matrixRow (gr : AGroup) (o : AOp) (arr : Array (BitVec 32)) (i : Nat) : RowOut :=
  let (_, cols, rfmt) := resultForm gr o
  let sat := w2Sat (opWord o 2)
  let p := partR o
  let vs := (List.range cols).map (outValue gr arr i)
  let nums := vs.map fun v => accNum (grpAcc gr) v.1
  let wrap := vs.any (·.2)
  let st := if w2Epi (opWord o 2) then let r := rowStats nums (opWord o 3).toNat; r.1 + r.2 * 2 ^ 32 else 0
  let row := p.base + i * p.ld
  if isMx rfmt then
    let bs := (blocks32 2 nums).map (quantiseBlock rfmt)
    let codes := bs.flatMap (·.2)
    ⟨[(row, elemBytes rfmt cols, packElems (elementBits rfmt) codes), (p.sbase + i * p.sld, cols / 32, packElems 8 (bs.map (·.1)))],
      st, bs.any (fun b => b.1 == 255) || codes.any (resultNan rfmt), wrap⟩
  else
    let codes := nums.map (resultCode rfmt sat)
    let nan := codes.any (resultNan rfmt)
    if rfmt == 14 then
      ⟨(List.range (cols / 32)).map fun q => (row + 256 * q, 256, xa48Line ((codes.drop (32 * q)).take 32)), st, nan, wrap⟩
    else ⟨[(row, elemBytes rfmt cols, packElems (elementBits rfmt) codes)], st, nan, wrap⟩

/-- A row of a REDUCE group. -/
def reduceRow (gr : AGroup) (o : AOp) (arr : Array (BitVec 32)) (i : Nat) : RowOut :=
  let (_, _, rfmt) := resultForm gr o
  let r := reduceResult gr arr i rfmt (w2Sat (opWord o 2))
  let arg := grpFunc gr ≥ 3
  ⟨[((partR o).base + i * (partR o).ld, elemBytes rfmt 1, r)], 0, !arg && resultNan rfmt r, false⟩

/-- Bytes as writes of single lines: line, data in place, enables. -/
def splitLines (fuel : Nat) (x : Bytes) : List (Nat × Line × LineBE) :=
  match fuel with
  | 0 => []
  | n + 1 =>
    let off := x.1 % 256
    let k := min x.2.1 (256 - off)
    if k == 0 then []
    else (x.1 / 256, BitVec.ofNat 2048 (x.2.2 % 2 ^ (8 * k) * 2 ^ (8 * off)), beRange off k)
      :: splitLines n (x.1 + k, x.2.1 - k, x.2.2 / 2 ^ (8 * k))

/-- The writes of a drain in order, and its NAN and WRAP. -/
def drainOut (gr : AGroup) (o : AOp) (a : Anvil) : List (Nat × Line × LineBE) × Bool × Bool :=
  let arr := drainSlots a gr
  let (rows, _, _) := resultForm gr o
  let rs := (List.range rows).map fun i => if grpFunc gr == 7 then matrixRow gr o arr i else reduceRow gr o arr i
  let stats := if w2Epi (opWord o 2) then splitLines 4 (opStat o, 8 * rows, packElems 64 (rs.map (·.stat))) else []
  ((rs.flatMap fun r => r.writes.flatMap (splitLines 2)) ++ stats, rs.any (·.nan), rs.any (·.wrap))

/-- Drain writes leave, at most 64 in flight (R313). -/
def sendDrains (fuel : Nat) (g : Regs) (h : Half) (m : Mach) : Mach :=
  match fuel with
  | 0 => m
  | n + 1 =>
    match (anvAt m h).drn with
    | none => m
    | some x =>
      match x.left with
      | [] => m
      | r :: rest =>
        if x.await.length ≥ 64 then m
        else
          let m := modAnv h (fun a => { a with drn := some { x with left := rest, await := x.await ++ [r.id] } }) m
          sendDrains n g h (unitSend g true (some (seqSrc h x.op.seq)) r m)

/-- The drain completes: its group closes (R313, R315). -/
def drainEnd (h : Half) (x : DrnOp) (m : Mach) : Mach :=
  let c := match x.fail with | some (_, c) => c | none => .done
  let m := modAnv h (fun a => { a with drn := none }) m
  let m := if x.gone then m else closeAGroup h (grpIx x.grp) m
  forgetOpened h x.op (writeStatus h x.op (statusWord c ||| x.word) m)

/-- A DRAIN begins (R310, R311). A Crucible word found uncorrectable fails its group (Table 14.2). -/
def startDrainOp (g : Regs) (h : Half) (o : AOp) (m : Mach) : Mach :=
  let n := opAg o
  let gr := agroupAt m h n
  let park := if gr.seated then [] else parkWords n.val (grpSlots gr)
  let (bad, fs, m) := cruRead g h (park ++ partWords n.val gr) m
  let gr := { gr with
    park := flipSlots (grpSlots gr) (flipsTo park.length fs) gr.park, part := flipPart (grpSlots gr) (flipsFrom park.length fs) gr.part }
  let m := if fs.isEmpty then m else setAGroup h n gr m
  if bad then
    let m := closeAGroup h n m
    forgetOpened h o (writeStatus h o (statusWord .errData ||| rerunField gr.s ||| statusFlags gr.ovf gr.wrap false 0) m)
  else
    let (ws, nan, wrap) := drainOut gr o (anvAt m h)
    let rs := ws.zipIdx.map fun w =>
      unitReq (m.nextId + w.2) (.drain h) .wr (BitVec.ofNat 52 (256 * w.1.1)) 8 o.inst o.gen o.label o.optag w.1.2.1 w.1.2.2
    let word := rerunField gr.s ||| statusFlags gr.ovf (gr.wrap || wrap) nan 0
    let m := modAnv h (fun a => { a with drn := some ⟨o, n.val, if gr.seated then grpSlots gr else 0, false, rs, [], none, word⟩ }) { m with nextId := m.nextId + ws.length }
    sendDrains 64 g h m

/-! ## Leaving a queue (R296, R298, R310) -/

/-- An MMA or REDUCE may follow the operations in flight at once: they are of its own group and queue, and it takes no checkpoint. -/
def followsOn (a : Anvil) (gr : AGroup) (o : AOp) : Bool :=
  a.mac.isNone && a.tree.all (fun x => !x.gone && x.grp == (opAg o).val && x.op.seq == o.seq) && (a.tree.isEmpty || !needsCheckpoint gr)

/-- A slot that the operation needs is used in flight, by another operation than those that it follows, or its group is being drained. -/
def slotBusy (m : Mach) (h : Half) (o : AOp) : Bool :=
  let a := anvAt m h
  let others := (opsInFlight a).filter fun x => !(x.2.1 == (opAg o).val && x.1.seq == o.seq && (opOp x.1 == 1 || opOp x.1 == 2) && opOp o != 0)
  others.any (fun x => x.2.2 &&& slotsNeeded m h o != 0) || a.drn.any fun x => !x.gone && x.grp == (opAg o).val

/-- The operation waits at the head of its queue. -/
def opWaits (m : Mach) (h : Half) (o : AOp) : Bool :=
  let a := anvAt m h
  let gr := agroupAt m h (opAg o)
  match opOp o with
  | 0 => slotBusy m h o
  | 1 => gr.fail.isNone && (!followsOn a gr o || slotBusy m h o)
  | 2 => gr.fail.isNone && (!followsOn a gr o || slotBusy m h o)
  | _ => macHas a (opAg o).val || a.drn.isSome

/-- OPEN (R295): the group is seated in its slots at their initial values. -/
def openOp (g : Regs) (h : Half) (o : AOp) (m : Mach) : Mach :=
  let n := opAg o
  let w0 := opWord o 0
  let m := clearSlots g h n (w0Slots w0) m
  let m := setAGroup h n { AGroup.closed with isOpen := true, inst := o.inst, w0 := w0, w2 := opWord o 2, seated := true } m
  let m := modAnv h (fun a => { a with slots := putSlots (w0Slots w0) (initialSlots w0) a.slots }) m
  writeStatus h o (statusWord .done) m

/-- An operation before its first K-step. -/
def MacOp.start (o : AOp) (use : BitVec 4) : MacOp := ⟨o, (opAg o).val, use, none, 0, .feeding, [], [], false, 0, false, false, false, none⟩

/-- The first 16 cycle groups of the operation at the head of queue k are buffered (R301). A failed group needs none (R303). -/
def entryReady (m : Mach) (h k : Half) (o : AOp) : Bool :=
  let gr := agroupAt m h (opAg o)
  let x := ((anvAt m h).ahead[k]).getD (MacOp.start o 0)
  gr.fail.isSome || (List.range ((16 * groupRate gr + 31) / 32)).all fun c =>
    decide (opK o ≤ 32 * c) || chunkReady gr { x with step := 32 * c }

/-- MMA and REDUCE (R286, R301, R303, R304): a failed group completes at once; else the operation takes what the feed read for it. -/
def macOp (g : Regs) (h : Half) (o : AOp) (m : Mach) : Mach :=
  let n := opAg o
  let x := ((anvAt m h).ahead[o.seq]).getD (MacOp.start o 0)
  let m := dropAhead h o.seq m
  let m := if (agroupAt m h n).fail.isSome then m else seatGroup g h n m
  let gr := agroupAt m h n
  match gr.fail with
  | some c => writeStatus h o (statusWord c ||| rerunField gr.s) m
  | none =>
    let m := if needsCheckpoint gr then takeCheckpoint g h n m else m
    macGo g h (setMac h (some { x with use := grpSlots gr }) m)

/-- DRAIN: a failed group writes nothing and closes (R303). -/
def drainOp (g : Regs) (h : Half) (o : AOp) (m : Mach) : Mach :=
  let gr := agroupAt m h (opAg o)
  match gr.fail with
  | some c =>
    forgetOpened h o (writeStatus h o (statusWord c ||| rerunField gr.s ||| statusFlags gr.ovf gr.wrap false 0) (closeAGroup h (opAg o) m))
  | none => startDrainOp g h o m

/-- DISCARD (R310): the group closes without a result. -/
def discardOp (h : Half) (o : AOp) (m : Mach) : Mach :=
  let gr := agroupAt m h (opAg o)
  forgetOpened h o (writeStatus h o (statusWord .done ||| rerunField gr.s) (closeAGroup h (opAg o) m))

/-- The unit that an operation leaves for: the scoreboard, the MAC stage or the drain unit (R298). -/
def opUnit (o : AOp) : Nat := if opOp o == 0 then 0 else if opOp o ≤ 2 then 1 else 2

/-- The unit for which the head of a queue can leave now. -/
def headUnit (g : Regs) (m : Mach) (h k : Half) : Option Nat :=
  match (anvAt m h).q[k] with
  | [] => none
  | o :: _ => if queueHeld g m h k || (opRefusal m h o).isSome || opWaits m h o || (opUnit o == 1 && !entryReady m h k o) then none else some (opUnit o)

/-- The head of the other queue can leave for the same unit, and the rotating pointer is at it (R298). -/
def losesTurn (g : Regs) (m : Mach) (h k : Half) (o : AOp) : Bool :=
  (anvAt m h).turn == k + 1 && headUnit g m h (k + 1) == some (opUnit o)

/-- The operation that waits at the head of a queue has its lines read (R301). -/
def feedAhead (g : Regs) (h k : Half) (o : AOp) (m : Mach) : Mach :=
  if opOp o == 1 || opOp o == 2 then
    feedMore g h (if ((anvAt m h).ahead[k]).isSome then m else setFeeder h (some k) (some (MacOp.start o 0)) m)
  else m

/-- The operation at the head of queue k leaves it: a read that the feed made for it has failed (R301, R303). -/
def headFails (h k : Half) (x : MacOp) (c : Code) (m : Mach) : Mach :=
  let n := grpIx x.grp
  let gr := agroupAt m h n
  let m := modAnv h (fun a => { a with q := a.q.set k.val (a.q[k].drop 1) k.isLt }) (dropAhead h k m)
  writeStatus h x.op (statusWord c ||| rerunField gr.s) (setAGroup h n { gr with fail := some (gr.fail.getD c) } m)

/-- What the checks of R294 or a failed feed read make of the head of queue k in a cycle in which it could leave (R303): none where neither
ends it. -/
def headEnds (m : Mach) (h k : Half) (o : AOp) : Option (Mach → Mach) :=
  match opRefusal m h o with
  | some c => some fun m => refuseOp h o c (dropAhead h k (modAnv h (fun a => { a with q := a.q.set k.val (a.q[k].drop 1) k.isLt }) m))
  | none => match (anvAt m h).ahead[k] with
    | some x => x.bad.map fun c => headFails h k x c
    | none => none

/-- The head of a queue leaves, when it is an operation of this row: it is refused (R294) or has a failed read (R303), it waits, for its first
16 cycle groups too (R301), the other queue has its turn, or it acts. The pointer moves past the queue. -/
def leaveQueue (g : Regs) (h k : Half) (mine : Nat → Bool) (act : AOp → Mach → Mach) (m : Mach) : Mach :=
  if queueHeld g m h k || !clocked m h then m
  else match (anvAt m h).q[k] with
    | [] => m
    | o :: rest =>
      let pop := fun (m : Mach) => modAnv h (fun a => { a with q := a.q.set k.val rest k.isLt }) m
      if !mine (opOp o) then m
      else match headEnds m h k o with
        | some f => f m
        | none =>
          if opWaits m h o || (opUnit o == 1 && !entryReady m h k o) then feedAhead g h k o m
          else if losesTurn g m h k o then m
          else act o (modAnv h (fun a => { a with turn := k + 1 }) (pop m))

/-- OPEN (R295). -/
def execAOpen (h k : Half) (s : State) : Host.Outcome State Fault Refusal :=
  run (fun g m => leaveQueue g h k (fun n => n == 0) (openOp g h) m) s

/-- MMA (R286). -/
def execAMma (h k : Half) (s : State) : Host.Outcome State Fault Refusal :=
  run (fun g m => leaveQueue g h k (fun n => n == 1) (macOp g h) m) s

/-- REDUCE (R319). -/
def execAReduce (h k : Half) (s : State) : Host.Outcome State Fault Refusal :=
  run (fun g m => leaveQueue g h k (fun n => n == 2) (macOp g h) m) s

/-- DRAIN (R311). -/
def execADrain (h k : Half) (s : State) : Host.Outcome State Fault Refusal :=
  run (fun g m => leaveQueue g h k (fun n => n == 3) (drainOp g h) m) s

/-- DISCARD (R310). -/
def execADiscard (h k : Half) (s : State) : Host.Outcome State Fault Refusal :=
  run (fun g m => leaveQueue g h k (fun n => n == 4) (discardOp h) m) s

/-- RESERVED_ANVIL_OP (R294): the checks refuse it. -/
def execReservedAnvilOp (h k : Half) (s : State) : Host.Outcome State Fault Refusal :=
  run (fun g m => leaveQueue g h k (fun n => decide (n > 4)) (fun _ m => m) m) s

/-! ## What an operation goes through -/

/-- The operation that awaits a feed read. -/
def feederOf (a : Anvil) (id : Nat) : Option (Option Half × MacOp) :=
  ([none, some 0, some 1] : List (Option Half)).findSome? fun w =>
    match feederAt a w with
    | some x => if x.await.any (fun y => y.1 == id) then some (w, x) else none
    | none => none

/-- The operation awaits a read of the feed no more. -/
def takeAwait (x : MacOp) (r : Req) : MacOp := { x with await := x.await.filter fun y => y.1 != r.id }

/-- The operation with a line that the feed has read for it. -/
def takeLine (x : MacOp) (r : Req) (d : Line) : MacOp :=
  { takeAwait x r with lines := tabSet none x.lines (r.addr.toNat / 256) (some d) }

/-- A feed read for the head of queue k has failed: the head leaves, by the check of R294 first. One that must stay, because no operation leaves
its queue, keeps the code (R303, R322, R524). -/
def aheadFails (g : Regs) (h k : Half) (x : MacOp) (c : Code) (m : Mach) : Mach :=
  let m := setFeeder h (some k) (some { x with bad := some (x.bad.getD c) }) m
  if queueHeld g m h k then m
  else match headEnds m h k x.op with
    | some f => f m
    | none => m

/-- A feed read completes: its line is buffered, or the operation stops (R303). A line that no operation awaits any more is dropped. -/
def feedDone (g : Regs) (h : Half) (r : Req) (c : Code) (d : Line) (m : Mach) : Mach :=
  let m := modAnv h (fun a => { a with feedOut := a.feedOut.filter fun y => y.1 != r.id }) m
  match feederOf (anvAt m h) r.id with
  | none => feedMore g h m
  | some (w, x) =>
    if isDone c then macGo g h (setFeeder h w (some (takeLine x r d)) m)
    else feedMore g h (match w with
      | none => macFail h x c m
      | some k => aheadFails g h k (takeAwait x r) c m)

/-- FEED_READ_COMPLETE (R303): the feed's oldest completion. -/
def execFeedReadComplete (h : Half) (s : State) : Host.Outcome State Fault Refusal :=
  run (fun g m =>
    match takeUnit (fun o => match o with | .feed x _ => x == h | _ => false) m with
    | none => m
    | some ((r, c, d), m) => feedDone g h r c d m) s

/-- The partial of a slot after a spill. -/
def spillInto (p : Option (BitVec 48)) (x : BitVec 48) : Option (BitVec 48) :=
  match p with
  | none => some x
  | some y => some (addXa48 y x)

/-- Slot values become XA48 partials and the slots +0 (R307). A partial found uncorrectable fails the group. -/
def spillNow (g : Regs) (h : Half) (x : MacOp) (m : Mach) : Mach :=
  let n := grpIx x.grp
  let gr := macGroup m h x
  let (bad, fs, m) := cruRead g h (macWords x (partWords n.val gr)) m
  let gr := { gr with part := flipPart (grpSlots gr) fs gr.part }
  if bad then macFail h x .errData m
  else
    let arr := slotArray (anvAt m h).slots
    let keys := (List.range 4096).filter fun k => (grpSlots gr).getLsbD (k % 4)
    let part := keys.map fun k => (k, spillInto (tabGet none gr.part k) (toXa48 (decodeFloat binary32 (arr.getD k 0).toNat)))
    let gr' := { gr with part := part }
    let m := cruWrite g h (macWords x (partWords n.val gr')) m
    let m := modAnv h (fun a => { a with slots := putSlots (grpSlots gr) [] a.slots, spills := a.spills + 1 }) m
    let m := profile g h 0x0E (opWho x.op) 1 m
    macGo g h (putMac h { x with st := .feeding, spilled := true, spills := x.spills + 1 } gr' m)

/-- ANVIL_SPILL (R307). -/
def execAnvilSpill (h : Half) (s : State) : Host.Outcome State Fault Refusal :=
  run (fun g m =>
    match (anvAt m h).mac with
    | some x => if x.st == .spill && clocked m h then spillNow g h x m else m
    | none => m) s

/-- The checkpoint is restored and scaled, s rises by 3, and the MMA runs again from its first K-step (R305, R306). -/
def rerun (g : Regs) (h : Half) (x : MacOp) (c : Checkpoint) (m : Mach) : Mach :=
  let gr := macGroup m h x
  let (bad, fs, m) := cruRead g h (ckWords { gr with part := c.part }) m
  let n := 128 * (slotList (grpSlots gr)).length
  let c := { c with slots := flipSlots (grpSlots gr) (flipsTo n fs) c.slots, part := flipPart (grpSlots gr) (flipsFrom n fs) c.part }
  let m := modAnv h (fun a => { a with ck := some c }) m
  if bad then macFail h x .errData m
  else
    let s := gr.s + 3
    let d := s - c.s
    let slots := c.slots.filterMap fun y =>
      let v := BitVec.ofNat 32 (rescale binary32 d y.2.toNat)
      if v == 0 then none else some (y.1, v)
    let part := c.part.map fun y => (y.1, y.2.map fun v => BitVec.ofNat 48 (rescale xa48 d v.toNat))
    let m := modAnv h (fun a => { a with slots := putSlots (grpSlots gr) slots a.slots, reruns := a.reruns + 1 }) m
    let m := profile g h 0x0F (opWho x.op) 1 m
    macGo g h (putMac h { x with step := 0, st := .feeding, await := [], lines := [], spilled := false }
      { gr with k := c.k, s := s, part := part } m)

/-- ANVIL_OVERFLOW (R305). -/
def execAnvilOverflow (h : Half) (s : State) : Host.Outcome State Fault Refusal :=
  run (fun g m =>
    match (anvAt m h).mac, (anvAt m h).ck with
    | some x, some c => if x.st == .overflow && clocked m h then rerun g h x c m else m
    | _, _ => m) s

/-- ANVIL_OP_COMPLETE (R293): the oldest operation in the adder tree. -/
def execAnvilOpComplete (h : Half) (s : State) : Host.Outcome State Fault Refusal :=
  run (fun _ m =>
    match (anvAt m h).tree with
    | [] => m
    | x :: rest => writeStatus h x.op x.word (modAnv h (fun a => { a with tree := rest }) m)) s

/-- A drain write completes; the first failing one in write order gives the code (R315). -/
def drainDone (g : Regs) (h : Half) (r : Req) (c : Code) (m : Mach) : Mach :=
  match (anvAt m h).drn with
  | none => m
  | some x =>
    if !x.await.contains r.id then m
    else
      let fail := if isDone c then x.fail
        else match x.fail with
          | some (i, d) => if r.id < i then some (r.id, c) else some (i, d)
          | none => some (r.id, c)
      let x := { x with await := x.await.erase r.id, fail := fail }
      if x.await.isEmpty && x.left.isEmpty then drainEnd h x m
      else sendDrains 64 g h (modAnv h (fun a => { a with drn := some x }) m)

/-- DRAIN_WRITE_COMPLETE (R313): the drain's oldest completion. -/
def execDrainWriteComplete (h : Half) (s : State) : Host.Outcome State Fault Refusal :=
  run (fun g m =>
    match takeUnit (fun o => match o with | .drain x => x == h | _ => false) m with
    | none => m
    | some ((r, c, _), m) => drainDone g h r c m) s

end Sys2Proof.Machine
end

