-- ==== Sys2Proof/Machine/Trace.lean ====
section
/-!
DEFINITION. The trace of a half (R527, R528): records pass a queue of four into the ring, one per core cycle.
-/

namespace Sys2Proof.Machine

/-- KIND of a record (Table 17.1). -/
def recKind (r : BitVec 64) : BitVec 2 := r.extractLsb' 62 2

/-- The trigger record: an event with TRG. -/
def recTrigger (r : BitVec 64) : Bool := recKind r == 3 && bitAt r 28

/-- A time record. -/
def timeRecord (t : BitVec 64) : BitVec 64 := 0x4000000000000000 ||| (t &&& 0x3FFFFFFFFFFFFFFF)

/-- A drop record. -/
def dropRecord (n : Nat) : BitVec 64 := 0x8000000000000000 ||| (BitVec.ofNat 64 (min 65535 n) <<< 46)

/-- An instruction record. -/
def instrRecord (k : Half) (pc : BitVec 12) (w : BitVec 32) (delta : Nat) : BitVec 64 :=
  flagAt 64 (k == 1) 61 ||| (pc.setWidth 64 <<< 49) ||| (w.setWidth 64 <<< 17) ||| BitVec.ofNat 64 (min 131071 delta)

/-- An event record. -/
def eventRecord (k : Half) (evt : BitVec 4) (pc : BitVec 12) (optag : BitVec 16) (trg : Bool) : BitVec 64 :=
  0xC000000000000000 ||| flagAt 64 (k == 1) 61 ||| (evt.setWidth 64 <<< 57) ||| (pc.setWidth 64 <<< 45) ||| (optag.setWidth 64 <<< 29)
    ||| flagAt 64 trg 28

/-- Capture takes records: until POST records after the trigger. -/
def traceOn (t : Trace) : Bool := t.act && !(t.trgd && t.left == 0)

/-- A record enters the queue, or is dropped and counted. After the trigger it is one of the POST records. -/
def pushRecord (r : BitVec 64) (t : Trace) : Trace :=
  if !traceOn t then t
  else if t.queue.length < 4 then { t with queue := t.queue ++ [r], left := if t.trgd && !recTrigger r then t.left - 1 else t.left }
  else { t with drops := t.drops + 1, pdrop := t.pdrop + 1 }

/-- The trigger record with its time record: the oldest queued records give way, and the queue then holds both. -/
def pushTrigger (stamp : BitVec 64) (r : BitVec 64) (post : Nat) (t : Trace) : Trace :=
  let n := t.queue.length - 2
  { t with
    queue := t.queue.drop n ++ [timeRecord stamp, r], drops := t.drops + BitVec.ofNat 32 n, pdrop := t.pdrop + n
    trgd := true, left := post, stamp := false }

/-- A half's trace as it stands. -/
def modTrace (h : Half) (f : Trace → Trace) (m : Mach) : Mach := modHalf h (fun hs => { hs with trace := f hs.trace }) m

/-- The core cycles since the previous record of the half. -/
def traceDelta (m : Mach) (h : Half) : Nat := (halfAt m h).cycle - (halfAt m h).trace.lastC

/-- A record with the time record that precedes it: after ARM, and where the delta saturates. -/
def putRecord (h : Half) (r : BitVec 64) (m : Mach) : Mach :=
  let timed := (halfAt m h).trace.stamp || decide (traceDelta m h ≥ 131071)
  let now := (halfAt m h).cycle
  let t := timeRecord (stampOf m h)
  modTrace h (fun x =>
    if !traceOn x then x
    else
      let x := if timed then { pushRecord t x with stamp := false } else x
      { pushRecord r x with lastC := now }) m

/-- The programs that the trace of a half records. -/
def traced (g : Regs) (h k : Half) (optag : BitVec 16) : Bool :=
  (g.trc[h]).seqs.getLsbD k.val && (!(g.trc[h]).om || optag == (g.trc[h]).toptag)

/-- An instruction has issued. -/
def traceInstr (g : Regs) (h k : Half) (optag : BitVec 16) (pc : BitVec 12) (w : BitVec 32) (m : Mach) : Mach :=
  if (halfAt m h).trace.act && traced g h k optag then putRecord h (instrRecord k pc w (traceDelta m h)) m else m

/-- An event of a sequencer. `src` is the trigger source it is, 0 for none; only a dispatch triggers without being recorded. -/
def traceEvent (g : Regs) (h k : Half) (evt : BitVec 4) (pc : BitVec 12) (optag : BitVec 16) (src : Option Nat) (m : Mach) : Mach :=
  let t := (halfAt m h).trace
  let enabled := match src with
    | some 3 => (g.trc[h]).src.getLsbD 3 && optag == (g.trc[h]).toptag
    | some i => (g.trc[h]).src.getLsbD i && traced g h k optag
    | none => false
  if !t.act then m
  else if enabled && !t.trgd then
    let now := (halfAt m h).cycle
    let s := stampOf m h
    let post := (g.trc[h]).post.toNat
    modTrace h (fun x => { pushTrigger s (eventRecord k evt pc optag true) post x with lastC := now }) m
  else if traced g h k optag then putRecord h (eventRecord k evt pc optag false) m
  else m

/-- The host's trigger: an event with SEQ, PC and OPTAG zero. -/
def hostTrigger (g : Regs) (h : Half) (m : Mach) : Mach :=
  let t := (halfAt m h).trace
  if !t.act then m
  else if (g.trc[h]).src.getLsbD 0 && !t.trgd then
    let now := (halfAt m h).cycle
    let s := stampOf m h
    let post := (g.trc[h]).post.toNat
    modTrace h (fun x => { pushTrigger s (eventRecord 0 5 0 0 true) post x with lastC := now }) m
  else m

/-- A record goes into the ring. -/
def storeRecord (r : BitVec 64) (t : Trace) : Trace :=
  { t with
    buf := tabSet 0 t.buf t.next r, next := (t.next + 1) % 2048, count := min 2048 (t.count + 1)
    tptr := if recTrigger r then BitVec.ofNat 11 t.next else t.tptr }

/-- One core cycle: the oldest queued record is stored; a drop record follows drops as soon as the queue has room. -/
def traceCycle (t : Trace) : Trace :=
  let t := match t.queue with
    | [] => t
    | r :: rest => storeRecord r { t with queue := rest }
  if t.pdrop != 0 && decide (t.queue.length < 4) && traceOn t then { pushRecord (dropRecord t.pdrop) t with pdrop := 0 } else t

/-- ARM empties the buffer and starts capture (R528). -/
def armTrace (t : Trace) : Trace :=
  { t with act := true, trgd := false, dn := false, queue := [], buf := [], next := 0, count := 0, tptr := 0, left := 0, drops := 0, pdrop := 0
           stamp := true }

/-- TRACE_CAPTURE_END: the POST records are stored, capture stops and DONE rises. -/
def endTrace (t : Trace) : Trace :=
  if t.act && t.trgd && t.left == 0 && t.queue.isEmpty then { t with act := false, dn := true } else t

end Sys2Proof.Machine
end

