-- ==== Sys2Proof/Machine/Seqs.lean ====
section
/-!
DEFINITION. The sequencers (chapter 11): dispatch, program requests, faults, ends, breakpoints and what an instruction needs before it
issues.
-/

namespace Sys2Proof.Machine

/-! ## Instruction words (R363 to R365) -/

def insCode (w : BitVec 32) : Nat := (w.extractLsb' 26 6).toNat
def insReg (w : BitVec 32) (lo : Nat) : Fin 16 := ⟨(w.extractLsb' lo 4).toNat, (w.extractLsb' lo 4).isLt⟩
def insD (w : BitVec 32) : Fin 16 := insReg w 22
def insA (w : BitVec 32) : Fin 16 := insReg w 18
def insB (w : BitVec 32) : Fin 16 := insReg w 14
def insC (w : BitVec 32) : Fin 4 := ⟨(w.extractLsb' 24 2).toNat, (w.extractLsb' 24 2).isLt⟩
def insSlot (w : BitVec 32) (lo : Nat) : Fin 8 := ⟨(w.extractLsb' lo 3).toNat, (w.extractLsb' lo 3).isLt⟩
def insTgt (w : BitVec 32) : BitVec 12 := w.extractLsb' 0 12
def insImm (w : BitVec 32) : BitVec 64 := (w.extractLsb' 0 18).signExtend 64

/-- Bits 25:0 that an opcode's format names (Tables 11.2 to 11.4); none for a reserved opcode. -/
def insBits (code : Nat) : Option (BitVec 32) :=
  match code with
  | 0x01 => some 0
  | 0x02 => some 0x03C3FFFF
  | 0x03 => some 0x03FFFFFF
  | 0x04 => some 0x03FFC000
  | 0x05 => some 0x03FFC000
  | 0x06 => some 0x03FFC000
  | 0x07 => some 0x03FFC000
  | 0x08 => some 0x03FFC000
  | 0x09 => some 0x03FC003F
  | 0x0A => some 0x03FC003F
  | 0x0B => some 0x03FFC000
  | 0x0C => some 0x03C003FF
  | 0x10 => some 0x003FCFFF
  | 0x11 => some 0x003FCFFF
  | 0x12 => some 0x003FCFFF
  | 0x13 => some 0x00000FFF
  | 0x14 => some 0x033C0000
  | 0x15 => some 0x03FFFFFF
  | 0x16 => some 0x03000FFF
  | 0x18 => some 0x03FFFFFF
  | 0x19 => some 0x03FFFFFF
  | 0x1A => some 0
  | 0x20 => some 0x003FC000
  | 0x21 => some 0x003FC001
  | 0x22 => some 0x03FC0000
  | 0x23 => some 0x003C0000
  | 0x28 => some 0x0380001F
  | 0x29 => some 0x03FFF000
  | 0x2A => some 0x03800000
  | 0x2B => some 0x03F80000
  | 0x3E => some 0x003C000F
  | _ => none

/-- Cause 0x0 of Table 11.6 for a word whose opcode is not reserved. -/
def insBad (w : BitVec 32) : Bool :=
  match insBits (insCode w) with
  | none => true
  | some b => w &&& 0x03FFFFFF &&& ~~~b != 0 || (insCode w == 0x0C && bitAt w 0) || (insCode w == 0x29 && w.extractLsb' 12 2 == 3)

/-- A registers that an instruction reads or writes. -/
def insRegs (w : BitVec 32) : List (Fin 16) :=
  match insCode w with
  | 0x02 => [insD w]
  | 0x0C => [insD w]
  | 0x14 => [insA w]
  | 0x10 => [insA w, insB w]
  | 0x11 => [insA w, insB w]
  | 0x12 => [insA w, insB w]
  | 0x20 => [insA w, insB w]
  | 0x21 => [insA w, insB w]
  | 0x23 => [insA w]
  | 0x29 => [insB w]
  | 0x2B => [insD w]
  | 0x3E => if bitAt w 3 then [insA w] else []
  | 0x03 => [insD w, insA w]
  | 0x09 => [insD w, insA w]
  | 0x0A => [insD w, insA w]
  | 0x18 => [insD w, insA w]
  | 0x19 => [insD w, insA w]
  | 0x22 => [insD w, insA w]
  | 0x04 => [insD w, insA w, insB w]
  | 0x05 => [insD w, insA w, insB w]
  | 0x06 => [insD w, insA w, insB w]
  | 0x07 => [insD w, insA w, insB w]
  | 0x08 => [insD w, insA w, insB w]
  | 0x0B => [insD w, insA w, insB w]
  | _ => []

/-- An instruction that sends a request of the program. -/
def insSends (code : Nat) : Bool := code == 0x18 || code == 0x19 || decide (0x20 ≤ code && code ≤ 0x23)

/-! ## Registers and stores -/

/-- Ar; A0 reads 0 (R356). -/
def regA (s : Seq) (r : Fin 16) : BitVec 64 := if r == 0 then 0 else s.a[r]

/-- Write Ar; writes to A0 are ignored. -/
def setA (r : Fin 16) (v : BitVec 64) (s : Seq) : Seq := if r == 0 then s else { s with a := s.a.set r.val v r.isLt }

/-- Word i of sequencer k's program store, and word i of its constant pool. -/
def storeKey (h k : Half) (i : Nat) : Nat := 4096 * (seqIx h k).val + i
def poolKey (h k : Half) (i : Nat) : Nat := 1024 * (seqIx h k).val + i
def storeWord (g : Regs) (h k : Half) (i : Nat) : BitVec 32 := tabGet 0 g.store (storeKey h k i)
def poolWord (g : Regs) (h k : Half) (i : Nat) : BitVec 32 := tabGet 0 g.pool (poolKey h k i)

/-- The code words that hold them: stores first, then pools (log 34). -/
def storeCode (k : Half) (i : Nat) : Nat := 512 * k.val + i / 8
def poolCode (k : Half) (i : Nat) : Nat := 1024 + 128 * k.val + i / 8

/-- Read program words: true when one is uncorrectable. -/
def progRead (g : Regs) (h : Half) (ks : List Nat) (m : Mach) : Bool × Mach :=
  if m.ras.errs.isEmpty then (false, m)
  else ks.foldl (fun (acc : Bool × Mach) k => let r := peekWord g h .progs k acc.2; (acc.1 || r.1, r.2)) (false, m)

/-- Words of the store and of the pool as a read gives them, with the flips that it lets pass (R568). -/
def storeSeen (g : Regs) (m : Mach) (h k : Half) (i : Nat) : BitVec 32 :=
  storeWord g h k i ^^^ (leftOf (errMask m .progs h (storeCode k i))).extractLsb' (32 * (i % 8)) 32
def poolSeen (g : Regs) (m : Mach) (h k : Half) (i : Nat) : BitVec 32 :=
  poolWord g h k i ^^^ (leftOf (errMask m .progs h (poolCode k i))).extractLsb' (32 * (i % 8)) 32

/-- The next instruction's code word is uncorrectable. -/
def fetchBad (m : Mach) (h k : Half) : Bool :=
  match eccRead (errMask m .progs h (storeCode k (seqAt m h k).pc.toNat)) with
  | .bad => true
  | _ => false

/-- OPTAG and the filter fields of the running program. -/
def seqOptag (s : Seq) : BitVec 16 := (s.run.map (·.optag)).getD 0
def seqWho (s : Seq) : Option (BitVec 12 × BitVec 16) := s.run.map fun r => (r.label, r.optag)

/-! ## Faults (R374, R375) -/

/-- The program is in its fault handling. -/
def faulted (s : Seq) : Bool := match s.stop with | some (.fault ..) => true | _ => false

/-- A CWAIT in progress is withdrawn. One on its way to another slice or parked there loses its requester (log 35). -/
def withdrawWait (h k : Half) (id : Nat) (m : Mach) : Mach :=
  let m := modSeq h k (fun s => { s with
    cwaitI := none, txns := s.txns.filter fun t => t.req.id != id, dest := s.dest.filter fun x => x.1 != id }) m
  let m := bothHalves.foldl (fun m h => modHalf h (fun hs => { hs with opWait := hs.opWait.filter fun r => r.id != id }) m) m
  { m with
    parked := m.parked.filter fun r => r.id != id
    todo := m.todo.filter fun r => r.id != id
    unitDone := m.unitDone.filter fun x => x.1.id != id
    coh := { m.coh with fwdOut := m.coh.fwdOut.map fun x => if x.req.id == id then { x with req := { x.req with origin := .bellows } } else x } }

/-- Operations that have not left the queue are removed with what the feed read for them, and their slots' busy bits clear. -/
def dropOps (h k : Half) (m : Mach) : Mach :=
  let slots := ((anvAt m h).q[k]).foldl (fun (b : BitVec 8) o => b ||| (1#8 <<< o.slot.val)) 0
  modSeq h k (fun s => { s with busy := s.busy &&& ~~~slots }) (dropAhead h k (modAnv h (fun a => { a with q := a.q.set k.val [] k.isLt }) m))

/-- A program in its fault handling loses its group closings: an instance reset has closed its groups (R376). -/
def skipDiscards (h k : Half) (m : Mach) : Mach := modSeq h k (fun s => { s with opened := [], discs := [] }) (dropOps h k m)

/-- The program faults: steps 1 and 2 of R375. A halt ends, so that the DISCARDs of step 4 leave the queue (log 36). -/
def faultSeq (g : Regs) (h k : Half) (cause : BitVec 4) (c : Code) (pc : BitVec 12) (m : Mach) : Mach :=
  let s := seqAt m h k
  if s.run.isNone || faulted s || s.copying then m
  else
    let m := match s.cwaitI with
      | some id => withdrawWait h k id m
      | none => m
    let m := modSeq h k (fun s => { s with stop := some (.fault cause c pc), halted := false, whyBp := false, skipBp := false, oneStep := false })
      (dropOps h k m)
    traceEvent g h k 2 pc (seqOptag s) (some 2) m

/-! ## Requests of a program (R367 to R370) -/

/-- GEN is the generation of the enabled instance. A freeze stops no running program (R501). -/
def seqGenOk (g : Regs) (r : Req) : Bool := (instOf g r.inst).en && (instOf g r.inst).gen == r.gen

/-- The code that refuses a program's request at issue (R361, R498); `upper` says that address bits outside the beat are set. -/
def seqCode (g : Regs) (m : Mach) (upper : Bool) (r : Req) : Option Code :=
  match unitCode g m true r with
  | some .errSafe => some .errSafe
  | some .errPerm => if upper then some .errDecode else some .errPerm
  | some c => some c
  | none => if upper then some .errDecode else if seqGenOk g r then none else some .errPerm

/-- Requests of a program leave as their turn in the stream comes (R69, R370). -/
def seqEnter (fuel : Nat) (h k : Half) (m : Mach) : Mach :=
  match fuel with
  | 0 => m
  | n + 1 =>
    match nextEntry [] (seqAt m h k).txns with
    | none => m
    | some t =>
      seqEnter n h k (modSeq h k (fun s => { s with
        txns := s.txns.map fun x => if x.req.id == t.req.id then { x with phase := .home } else x }) { m with todo := m.todo ++ [t.req] })

/-- A program sends a request with destination register `d`. -/
def seqSend (g : Regs) (h k : Half) (op : Op) (a : BitVec 64) (aux : BitVec 32) (data : BitVec 64) (d : Fin 16) (m : Mach) : Mach :=
  let s := seqAt m h k
  match s.run with
  | none => m
  | some inv =>
    let (id, m) := newId m
    let addr : Addr := a.setWidth 52
    let lo := addr.toNat % 256
    let wr := op == .wr
    let r := unitReq id (.seq h k) op addr 3 inv.inst inv.gen inv.label inv.optag (if wr then data.setWidth 2048 <<< (8 * lo) else 0)
      (if wr then beRange lo 8 else 0)
    let r := { r with lane := isLane1 op, aux := aux, accept := coreTime m h }
    let code := seqCode g m (a.extractLsb' 52 12 != 0) r
    let phase := match code with | some c => Phase.refused c | none => .ranged
    let m := modSeq h k (fun s => { s with
      txns := s.txns ++ [⟨r, phase, 0, false⟩], dest := s.dest ++ [(id, d, s.pc)]
      cwaitI := if op == .wait then some id else s.cwaitI }) m
    match code with
    | some c =>
      let m := logRefusal (vioSrc r.origin) c (opcBits op) r m
      { m with unitDone := m.unitDone ++ [(r, c, 0)] }
    | none => seqEnter 64 h k m

/-- The 8 bytes that a completion brings: at their place in the line, or lanes 0 to 7 for a counter. -/
def eightBytes (r : Req) (line : Line) : BitVec 64 :=
  if r.op == .ctrRead then line.extractLsb' 0 64 else line.extractLsb' (8 * (r.addr.toNat % 256)) 64

/-- A completion reaches its program: the register is written, or the program faults (R368, R369, R374). -/
def seqTake (g : Regs) (h k : Half) (r : Req) (c : Code) (line : Line) (m : Mach) : Mach :=
  let s := seqAt m h k
  let (d, pc) := ((s.dest.find? fun x => x.1 == r.id).map (·.2)).getD (0, s.pc)
  let m := modSeq h k (fun s => { s with
    txns := s.txns.filter fun t => t.req.id != r.id, dest := s.dest.filter fun x => x.1 != r.id
    cwaitI := if s.cwaitI == some r.id then none else s.cwaitI }) m
  let m := if c == .done then modSeq h k (setA d (eightBytes r line)) m
    else faultSeq g h k (if isCounterOp r.op then 4 else 3) c pc m
  seqEnter 64 h k m

/-- A completion of the program's requests that `mine` names. -/
def seqComplete (h k : Half) (mine : Op → Bool) (s : State) : Host.Outcome State Fault Refusal :=
  run (fun g m =>
    match m.unitDone.find? fun x => x.1.origin == .seq h k && mine x.1.op with
    | none => m
    | some x => seqTake g h k x.1 x.2.1 x.2.2 { m with unitDone := m.unitDone.erase x }) s

/-- LD_COMPLETE (R368). -/
def execLdComplete (h k : Half) (s : State) : Host.Outcome State Fault Refusal := seqComplete h k (fun o => o == .rdNc) s

/-- PROGRAM_REQ_COMPLETE (R374). -/
def execProgramReqComplete (h k : Half) (s : State) : Host.Outcome State Fault Refusal := seqComplete h k (fun o => o != .rdNc) s

/-! ## Dispatch (R358 to R360) -/

/-- A program table entry before any load. -/
def ProgEntry.none : ProgEntry := ⟨0, false, 0, false, 0⟩

/-- The entry PC of a program on sequencer k. -/
def entryPc (g : Regs) (h k : Half) (optag : BitVec 16) : Option (BitVec 12) :=
  (List.range 256).findSome? fun i =>
    let e := tabGet ProgEntry.none g.ptab (256 * h.val + i)
    if e.optag != optag then none
    else if k == 0 then (if e.v0 then some e.pc0 else none)
    else if e.v1 then some e.pc1 else none

/-- The sequencer and the entry PC at which an INVOKE could start now. -/
def startPlace (g : Regs) (m : Mach) (h : Half) (r : Req) : Option (Half × BitVec 12) :=
  bothHalves.findSome? fun k =>
    if g.seqEn[seqIx h k] && (seqAt m h k).run.isNone then (entryPc g h k r.optag).map fun pc => (k, pc) else none

/-- A3 at the start of a program. -/
def startA3 (r : Req) : BitVec 64 := r.optag.setWidth 64 ||| (r.inst.setWidth 64 <<< 16) ||| (r.label.setWidth 64 <<< 22)

/-- The state of a sequencer at dispatch (R360); its halt, a step that is due, its last fault and its counts stay. -/
def startSeq (r : Req) (pc : BitVec 12) (s : Seq) : Seq :=
  let a := (((Vector.replicate 16 (0 : BitVec 64)).set 1 (r.aux.setWidth 64)).set 2 (r.addr.setWidth 64)).set 3 (startA3 r)
  { s with
    run := some r, pc := pc, a := a, c := Vector.replicate 4 0, d := Vector.replicate 8 (Vector.replicate 32 0), busy := 0
    txns := [], dest := [], cwaitI := none, opened := [], discs := [], stop := none, copying := false, skipBp := false }

/-- The oldest queued invocation that can start, where it starts. -/
def nextStart (g : Regs) (m : Mach) (h : Half) : Option (Req × Half × BitVec 12) :=
  (halfAt m h).iq.findSome? fun r => (startPlace g m h r).map fun x => (r, x)

/-- INVOKE_DISPATCH (R359). -/
def execInvokeDispatch (h : Half) (s : State) : Host.Outcome State Fault Refusal :=
  run (fun g m =>
    if (halfAt m h).safe || m.dbg.stopped || !clocked m h then m
    else match nextStart g m h with
      | none => m
      | some (r, k, pc) =>
        traceEvent g h k 0 pc r.optag (some 3) (modSeq h k (startSeq r pc) (modHalf h (fun hs => { hs with iq := hs.iq.erase r }) m))) s

/-! ## The end of a program (R362, R375) -/

/-- The sequencer halts before its next issue; `bp` says that a breakpoint did it. -/
def haltSeq (g : Regs) (h k : Half) (bp : Bool) (m : Mach) : Mach :=
  let s := seqAt m h k
  traceEvent g h k 3 s.pc (seqOptag s) (if bp then some 1 else none)
    (modSeq h k (fun s => { s with halted := true, haltDue := false, whyBp := bp, skipBp := false, oneStep := false }) m)

/-- A halt that came while the program ended stands before the next issue. -/
def haltIfDue (g : Regs) (h k : Half) (m : Mach) : Mach := if (seqAt m h k).haltDue then haltSeq g h k false m else m

/-- The sequencer is free; its INVOKE completes. -/
def endProgram (g : Regs) (h k : Half) (c : Code) (upd : Seq → Seq) (m : Mach) : Mach :=
  match (seqAt m h k).run with
  | none => m
  | some inv =>
    haltIfDue g h k (complete inv c 0 (modSeq h k (fun s => upd { s with
      run := none, stop := none, copying := false, halted := false, whyBp := false, skipBp := false, oneStep := false
      opened := [], discs := [], dest := [] }) m))

/-- An INVOKE that completes with an ERR_DATA which no request or operation of its program returned enters the loss log, with a CAUSE that
Table 14.5 leaves open (R76, R440, R450, log 112): the program met an uncorrectable code word, or its END names the code. -/
def lossOfProgram (h k : Half) (own : Bool) (m : Mach) : Mach :=
  match own, (seqAt m h k).run with
  | true, some inv => logLoss (lossLine ((Config.freeWord m.freeCtr).setWidth 4) h (lineOf inv.addr)) (spend m)
  | _, _ => m

/-- Nothing that the program sent or issued is left. -/
def seqIdle (s : Seq) : Bool := s.txns.isEmpty && s.busy == 0 && s.discs.isEmpty

/-- The program ends by END (R362, R381, R382). -/
def endByEnd (g : Regs) (h k : Half) (c : Code) (own : Bool) (m : Mach) : Mach :=
  let s := seqAt m h k
  endProgram g h k c (fun s => { s with ends := s.ends + 1, faultV := false })
    (traceEvent g h k 1 s.pc (seqOptag s) none (lossOfProgram h k (own && c == .errData) m))

/-- Armed dump triggers count the END; those that reach STEP fire, in ascending order (R532 to R534). -/
def countEnd (g : Regs) (h k : Half) (m : Mach) : Mach :=
  let t := seqOptag (seqAt m h k)
  (List.finRange 8).foldl (fun m i =>
    let d := m.dbg.dumps[i]
    if !(d.armed && (g.dmp[i]).optag == t) then m
    else
      let m := modDump i (fun d => { d with count := d.count + 1 }) m
      if d.count + 1 != (g.dmp[i]).step then m
      else
        let now := stampOf m h
        modDump i (fun d => { d with stamp := now }) { m with dbg := { m.dbg with
          jobs := m.dbg.jobs ++ [⟨i, (h, k), 0, (g.dmp[i]).len.toNat, [], .done, 0⟩] } }) m

/-- END_COMPLETE (R362): the wait of END is over. Without a dump the INVOKE completes; with one its copies run first. -/
def execEndComplete (h k : Half) (s : State) : Host.Outcome State Fault Refusal :=
  run (fun g m =>
    let q := seqAt m h k
    match q.stop with
    | some (.ended c own) =>
      if !seqIdle q || q.copying then m
      else
        let first := m.dbg.jobs.isEmpty
        let m' := countEnd g h k m
        if m'.dbg.jobs.length == m.dbg.jobs.length then endByEnd g h k c own m'
        else
          let m' := modSeq h k (fun s => { s with copying := true }) m'
          if first then dumpReads 64 g m' else m'
    | _ => m) s

/-- The copy in progress is over: its trigger disarms with DONE, and the next copy starts. -/
def closeJob (g : Regs) (j : DumpJob) (m : Mach) : Mach :=
  let m := modDump j.k (fun d => { d with
    armed := false, dn := true, code := if j.code == .done then 0 else j.code.bits, lines := BitVec.ofNat 17 j.copied }) m
  dumpReads 64 g { m with dbg := { m.dbg with jobs := m.dbg.jobs.drop 1 } }

/-- DUMP_COPY_DONE (R533). -/
def execDumpCopyDone (s : State) : Host.Outcome State Fault Refusal :=
  run (fun g m =>
    match m.dbg.jobs with
    | [] => m
    | j :: _ =>
      if !dumpOver j then m
      else
        let m := closeJob g j m
        if m.dbg.jobs.any fun x => x.seq == j.seq then m
        else match (seqAt m j.seq.1 j.seq.2).stop with
          | some (.ended c own) => endByEnd g j.seq.1 j.seq.2 c own m
          | _ => m) s

/-- A DISCARD of step 4. -/
def cleanOp (k : Half) (inv : Req) (ag : Nat) : AOp :=
  ⟨(0x80000000 ||| fieldAt (BitVec.ofNat 4 ag) 25) :: List.replicate 31 0, k, 0, inv.inst, inv.gen, inv.label, inv.optag, true⟩

/-- Step 4 of R375 as far as the queue has room: groups that the program opened are discarded, in order of their OPENs. -/
def issueDiscards (h k : Half) (m : Mach) : Mach :=
  let s := seqAt m h k
  match s.run with
  | none => m
  | some inv =>
    let ags := s.opened.take (Config.opEntries - ((anvAt m h).q[k]).length)
    modSeq h k (fun s => { s with opened := s.opened.drop ags.length, discs := s.discs ++ ags })
      (modAnv h (fun a => { a with q := a.q.set k.val (a.q[k] ++ ags.map (cleanOp k inv)) k.isLt }) m)

/-- SEQ_FAULT_COMPLETE (R375): work in flight has ended; then the groups are discarded, then the INVOKE completes. An instance reset
closes the groups itself (R376). -/
def execSeqFaultComplete (h k : Half) (s : State) : Host.Outcome State Fault Refusal :=
  run (fun g m =>
    let q := seqAt m h k
    match q.stop with
    | some (.fault cause c pc) =>
      if !(q.txns.isEmpty && q.busy == 0) then m
      else if cause != 7 && !q.opened.isEmpty then issueDiscards h k m
      else if !q.discs.isEmpty then m
      else
        endProgram g h k c (fun s => { s with faults := s.faults + 1, faultV := true, fCode := c.bits, fCause := cause, fPc := pc })
          (lossOfProgram h k (cause == 6) m)
    | _ => m) s

/-! ## Breakpoints (R523) -/

/-- A breakpoint before any write. -/
def Breakpoint.off : Breakpoint := ⟨false, false, 0, 0⟩

/-- BPn_k_j. -/
def bpKey (h k : Half) (j : Nat) : Nat := 4 * (seqIx h k).val + j

/-- The next instruction meets an enabled breakpoint. -/
def breakHit (g : Regs) (m : Mach) (h k : Half) : Bool :=
  let s := seqAt m h k
  (List.range 4).any fun j =>
    let b := tabGet Breakpoint.off g.bps (bpKey h k j)
    b.en && b.pc == s.pc && (!b.om || b.optag == seqOptag s)

/-- The program could issue, were it not for a breakpoint or the global stop. -/
def issuing (m : Mach) (h k : Half) : Bool :=
  let s := seqAt m h k
  s.run.isSome && s.stop.isNone && s.cwaitI.isNone && !s.halted && clocked m h

/-- BREAKPOINT_HIT (R523). -/
def execBreakpointHit (h k : Half) (s : State) : Host.Outcome State Fault Refusal :=
  run (fun g m => if issuing m h k && !(seqAt m h k).skipBp && breakHit g m h k then haltSeq g h k true m else m) s

/-! ## Issue -/

/-- The next instruction may issue: the sequencer issues, no breakpoint stands there, its registers hold their values, a request place
is free where it needs one, and its own condition holds (R365, R368, R370). -/
def canIssue (g : Regs) (m : Mach) (h k : Half) : Bool :=
  issuing m h k && !m.dbg.stopped && ((seqAt m h k).skipBp || !breakHit g m h k)

/-- A register that the word reads or writes still waits for a result. -/
def regWaits (s : Seq) (w : BitVec 32) : Bool := (insRegs w).any fun r => r != 0 && s.dest.any fun x => x.2.1 == r

/-- A slot that the word needs is busy, or the operation queue is full. -/
def slotWaits (m : Mach) (h k : Half) (w : BitVec 32) : Bool :=
  let s := seqAt m h k
  let code := insCode w
  (decide (0x28 ≤ code && code ≤ 0x2A) && s.busy.getLsbD (insSlot w 23).val)
    || (code == 0x2A && decide (((anvAt m h).q[k]).length ≥ Config.opEntries))

/-- OPWAIT waits for its slot. -/
def opWaitWaits (s : Seq) (w : BitVec 32) : Bool := insCode w == 0x2B && s.busy.getLsbD (insSlot w 19).val

/-- FENCE waits for the program's requests. -/
def fenceWaits (s : Seq) (w : BitVec 32) : Bool := insCode w == 0x1A && !s.txns.isEmpty

/-- The instruction stalls. -/
def stalls (m : Mach) (h k : Half) (w : BitVec 32) : Bool :=
  let s := seqAt m h k
  regWaits s w || slotWaits m h k w || opWaitWaits s w || fenceWaits s w || (insSends (insCode w) && decide (s.txns.length ≥ 64))

/-- WAIT of SEQn_STATk (R380). -/
def seqWait (g : Regs) (m : Mach) (h k : Half) : BitVec 3 :=
  let s := seqAt m h k
  let w := storeSeen g m h k s.pc.toNat
  if s.run.isNone then 0
  else if s.stop.isSome then 6
  else if s.cwaitI.isSome then 1
  else if insBad w then 0
  else if regWaits s w then 4
  else if opWaitWaits s w then 2
  else if slotWaits m h k w then 3
  else if fenceWaits s w then 5
  else 0

/-- An instruction has issued: it is recorded, PC moves on or to `target`, a step ends (R525, R527, R374); after an END it ends before the next
program's first issue. -/
def issued (g : Regs) (h k : Half) (w : BitVec 32) (target : Option (BitVec 12)) (m : Mach) : Mach :=
  let s := seqAt m h k
  let m := profile g h 0x10 (seqWho s) 1 (traceInstr g h k (seqOptag s) s.pc w m)
  if s.stop.isSome then modSeq h k (fun s => { s with haltDue := s.haltDue || s.oneStep, oneStep := false }) m
  else
    let m := modSeq h k (fun s => { s with pc := target.getD (s.pc + 1), skipBp := false }) m
    let m := if s.oneStep then haltSeq g h k false m else m
    if target.isNone && s.pc == 0xFFF then faultSeq g h k 1 .errDecode s.pc m else m

/-- One instruction of opcode `code`: it waits, faults with cause 0x0, or has its effect. The effect names its branch target; an effect
that faults has not issued. -/
def instruction (code : Nat) (h k : Half) (effect : Regs → BitVec 32 → Mach → Mach)
    (target : Seq → BitVec 32 → Option (BitVec 12) := fun _ _ => none) (s : State) : Host.Outcome State Fault Refusal :=
  run (fun g m =>
    let q := seqAt m h k
    let w := storeSeen g m h k q.pc.toNat
    if !canIssue g m h k || insCode w != code || fetchBad m h k then m
    else if insBad w then faultSeq g h k 0 .errDecode q.pc m
    else if stalls m h k w then m
    else
      let m := effect g w (progRead g h [storeCode k q.pc.toNat] m).2
      if faulted (seqAt m h k) then m else issued g h k w (target q w) m) s

/-- RESERVED_INSTRUCTION (R374, cause 0x6 of R440): a reserved opcode, or a fetch that meets an uncorrectable error. -/
def execReservedInstruction (h k : Half) (s : State) : Host.Outcome State Fault Refusal :=
  run (fun g m =>
    let q := seqAt m h k
    let w := storeSeen g m h k q.pc.toNat
    if !canIssue g m h k then m
    else if fetchBad m h k then faultSeq g h k 6 .errData q.pc (progRead g h [storeCode k q.pc.toNat] m).2
    else if (insBits (insCode w)).isNone then faultSeq g h k 0 .errDecode q.pc m
    else m) s

end Sys2Proof.Machine
end

