-- ==== Sys2Proof/Machine/Instrs.lean ====
section
/-!
DEFINITION. The instructions of Table 11.4, one meaning per opcode (R365 to R371).
-/

namespace Sys2Proof.Machine

/-! ## Integer instructions (R357, R365) -/

/-- Ad takes a value computed from the sequencer. -/
def writeD (h k : Half) (f : Seq → BitVec 32 → BitVec 64) : Regs → BitVec 32 → Mach → Mach :=
  fun _ w m => modSeq h k (fun s => setA (insD w) (f s w) s) m

/-- NOP. -/
def execINop (h k : Half) (s : State) : Host.Outcome State Fault Refusal := instruction 0x01 h k (fun _ _ m => m) (s := s)

/-- MOVI. -/
def execIMovi (h k : Half) (s : State) : Host.Outcome State Fault Refusal := instruction 0x02 h k (writeD h k fun _ w => insImm w) (s := s)

/-- ADDI. -/
def execIAddi (h k : Half) (s : State) : Host.Outcome State Fault Refusal :=
  instruction 0x03 h k (writeD h k fun s w => regA s (insA w) + insImm w) (s := s)

/-- ADD. -/
def execIAdd (h k : Half) (s : State) : Host.Outcome State Fault Refusal :=
  instruction 0x04 h k (writeD h k fun s w => regA s (insA w) + regA s (insB w)) (s := s)

/-- SUB. -/
def execISub (h k : Half) (s : State) : Host.Outcome State Fault Refusal :=
  instruction 0x05 h k (writeD h k fun s w => regA s (insA w) - regA s (insB w)) (s := s)

/-- AND. -/
def execIAnd (h k : Half) (s : State) : Host.Outcome State Fault Refusal :=
  instruction 0x06 h k (writeD h k fun s w => regA s (insA w) &&& regA s (insB w)) (s := s)

/-- OR. -/
def execIOr (h k : Half) (s : State) : Host.Outcome State Fault Refusal :=
  instruction 0x07 h k (writeD h k fun s w => regA s (insA w) ||| regA s (insB w)) (s := s)

/-- XOR. -/
def execIXor (h k : Half) (s : State) : Host.Outcome State Fault Refusal :=
  instruction 0x08 h k (writeD h k fun s w => regA s (insA w) ^^^ regA s (insB w)) (s := s)

/-- SHLI. -/
def execIShli (h k : Half) (s : State) : Host.Outcome State Fault Refusal :=
  instruction 0x09 h k (writeD h k fun s w => regA s (insA w) <<< (w.extractLsb' 0 6).toNat) (s := s)

/-- SHRI: zeros in. -/
def execIShri (h k : Half) (s : State) : Host.Outcome State Fault Refusal :=
  instruction 0x0A h k (writeD h k fun s w => regA s (insA w) >>> (w.extractLsb' 0 6).toNat) (s := s)

/-- MUL: the low 64 bits. -/
def execIMul (h k : Half) (s : State) : Host.Outcome State Fault Refusal :=
  instruction 0x0B h k (writeD h k fun s w => regA s (insA w) * regA s (insB w)) (s := s)

/-- Read pool words; an uncorrectable one faults the program with cause 0x6. -/
def withPool (g : Regs) (h k : Half) (is : List Nat) (f : Seq → Seq) (m : Mach) : Mach :=
  let (bad, m) := progRead g h ((is.map (poolCode k)).eraseDups) m
  if bad then faultSeq g h k 6 .errData (seqAt m h k).pc m else modSeq h k f m

/-- LDP. -/
def execILdp (h k : Half) (s : State) : Host.Outcome State Fault Refusal :=
  instruction 0x0C h k (fun g w m =>
    let i := (w.extractLsb' 0 10).toNat
    withPool g h k [i] (fun q => setA (insD w) ((poolSeen g m h k (i + 1)) ++ (poolSeen g m h k i)) q) m) (s := s)

/-! ## Branches and loop counters (R365) -/

/-- BEQ. -/
def execIBeq (h k : Half) (s : State) : Host.Outcome State Fault Refusal :=
  instruction 0x10 h k (fun _ _ m => m) (fun q w => if regA q (insA w) == regA q (insB w) then some (insTgt w) else none) s

/-- BNE. -/
def execIBne (h k : Half) (s : State) : Host.Outcome State Fault Refusal :=
  instruction 0x11 h k (fun _ _ m => m) (fun q w => if regA q (insA w) != regA q (insB w) then some (insTgt w) else none) s

/-- BLTU. -/
def execIBltu (h k : Half) (s : State) : Host.Outcome State Fault Refusal :=
  instruction 0x12 h k (fun _ _ m => m) (fun q w => if (regA q (insA w)).ult (regA q (insB w)) then some (insTgt w) else none) s

/-- JMP. -/
def execIJmp (h k : Half) (s : State) : Host.Outcome State Fault Refusal :=
  instruction 0x13 h k (fun _ _ m => m) (fun _ w => some (insTgt w)) s

/-- Write a loop counter. -/
def setC (c : Fin 4) (v : BitVec 32) (s : Seq) : Seq := { s with c := s.c.set c.val v c.isLt }

/-- SETC. -/
def execISetc (h k : Half) (s : State) : Host.Outcome State Fault Refusal :=
  instruction 0x14 h k (fun _ w m => modSeq h k (fun q => setC (insC w) ((regA q (insA w)).setWidth 32) q) m) (s := s)

/-- SETCI. -/
def execISetci (h k : Half) (s : State) : Host.Outcome State Fault Refusal :=
  instruction 0x15 h k (fun _ w m => modSeq h k (setC (insC w) ((w.extractLsb' 0 24).setWidth 32)) m) (s := s)

/-- LOOP: a counter of 0 stays; otherwise it goes down by one, and a counter that is then not 0 branches. -/
def execILoop (h k : Half) (s : State) : Host.Outcome State Fault Refusal :=
  instruction 0x16 h k
    (fun _ w m => modSeq h k (fun q => if q.c[insC w] == 0 then q else setC (insC w) (q.c[insC w] - 1) q) m)
    (fun q w => if q.c[insC w] == 0 || q.c[insC w] == 1 then none else some (insTgt w)) s

/-! ## Requests (R367 to R370) -/

/-- The address of an LD or ST, modulo 2^64. -/
def dataAddr (s : Seq) (w : BitVec 32) : BitVec 64 := regA s (insA w) + insImm w

/-- LD and ST: an address that is not a multiple of 8 faults with cause 0x2. -/
def dataRequest (h k : Half) (op : Op) : Regs → BitVec 32 → Mach → Mach :=
  fun g w m =>
    let q := seqAt m h k
    let a := dataAddr q w
    if a.extractLsb' 0 3 != 0 then faultSeq g h k 2 .errDecode q.pc m
    else if op == .wr then seqSend g h k .wr a 0 (regA q (insD w)) 0 m
    else seqSend g h k .rdNc a 0 0 (insD w) m

/-- LD. -/
def execILd (h k : Half) (s : State) : Host.Outcome State Fault Refusal := instruction 0x18 h k (dataRequest h k .rdNc) (s := s)

/-- ST. -/
def execISt (h k : Half) (s : State) : Host.Outcome State Fault Refusal := instruction 0x19 h k (dataRequest h k .wr) (s := s)

/-- FENCE. -/
def execIFence (h k : Half) (s : State) : Host.Outcome State Fault Refusal := instruction 0x1A h k (fun _ _ m => m) (s := s)

/-- A counter instruction. Aa with bits outside the layout of Table 7.1 is refused as reserved REQ bits or alignment are. -/
def counterRequest (h k : Half) (op : Op) (aux : Seq → BitVec 32 → BitVec 32) (d : BitVec 32 → Fin 16) : Regs → BitVec 32 → Mach → Mach :=
  fun g w m => let q := seqAt m h k; seqSend g h k op (regA q (insA w)) (aux q w) 0 (d w) m

/-- CADD. -/
def execICadd (h k : Half) (s : State) : Host.Outcome State Fault Refusal :=
  instruction 0x20 h k (counterRequest h k .ctrAdd (fun q w => (regA q (insB w)).setWidth 32) fun _ => 0) (s := s)

/-- CWAIT. -/
def execICwait (h k : Half) (s : State) : Host.Outcome State Fault Refusal :=
  instruction 0x21 h k (counterRequest h k .wait
    (fun q w => ((regA q (insB w)).setWidth 32 &&& 0x7FFFFFFF) ||| flagAt 32 (bitAt w 0) 31) fun _ => 0) (s := s)

/-- CREAD. -/
def execICread (h k : Half) (s : State) : Host.Outcome State Fault Refusal :=
  instruction 0x22 h k (counterRequest h k .ctrRead (fun _ _ => 0) insD) (s := s)

/-- CRST. -/
def execICrst (h k : Half) (s : State) : Host.Outcome State Fault Refusal :=
  instruction 0x23 h k (counterRequest h k .ctrReset (fun _ _ => 0) fun _ => 0) (s := s)

/-! ## Descriptors (R366, R371) -/

/-- Change a descriptor slot. -/
def modSlot (i : Fin 8) (f : Vector (BitVec 32) 32 → Vector (BitVec 32) 32) (s : Seq) : Seq := { s with d := s.d.set i.val (f s.d[i]) i.isLt }

/-- DCOPY. -/
def execIDcopy (h k : Half) (s : State) : Host.Outcome State Fault Refusal :=
  instruction 0x28 h k (fun g w m =>
    let t := 32 * (w.extractLsb' 0 5).toNat
    withPool g h k ((List.range 32).map fun i => t + i)
      (modSlot (insSlot w 23) fun _ => Vector.ofFn fun (i : Fin 32) => poolSeen g m h k (t + i.val)) m) (s := s)

/-- The word that DSET leaves (Table 11.5). -/
def dsetWord (mode : BitVec 2) (a : BitVec 64) (old : BitVec 32) : BitVec 32 :=
  if mode == 0 then a.setWidth 32
  else if mode == 1 then (old &&& 0xFFF00000) ||| (a.extractLsb' 32 20).setWidth 32
  else a.extractLsb' 32 32

/-- DSET. -/
def execIDset (h k : Half) (s : State) : Host.Outcome State Fault Refusal :=
  instruction 0x29 h k (fun _ w m =>
    let n : Fin 32 := ⟨(w.extractLsb' 18 5).toNat, (w.extractLsb' 18 5).isLt⟩
    modSeq h k (fun q => modSlot (insSlot w 23) (fun v => v.set n.val (dsetWord (w.extractLsb' 12 2) (regA q (insB w)) v[n]) n.isLt) q) m)
    (s := s)

/-- The operation that a slot holds. -/
def slotOp (k : Half) (inv : Req) (i : Fin 8) (v : Vector (BitVec 32) 32) : AOp :=
  ⟨v.toList, k, i, inv.inst, inv.gen, inv.label, inv.optag, false⟩

/-- ISSUE: the slot's words enter the operation queue, word 7 of the slot clears and its busy bit is set (R371). -/
def execIIssue (h k : Half) (s : State) : Host.Outcome State Fault Refusal :=
  instruction 0x2A h k (fun _ w m =>
    let q := seqAt m h k
    let i := insSlot w 23
    match q.run with
    | none => m
    | some inv =>
      modSeq h k (fun q => { modSlot i (fun v => v.set 7 0) q with busy := q.busy ||| (1#8 <<< i.val) })
        (modAnv h (fun a => { a with q := a.q.set k.val (a.q[k] ++ [slotOp k inv i q.d[i]]) k.isLt }) m)) (s := s)

/-- OPWAIT: word 7 of the slot, once it is not busy. -/
def execIOpwait (h k : Half) (s : State) : Host.Outcome State Fault Refusal :=
  instruction 0x2B h k (writeD h k fun q w => ((q.d[insSlot w 19])[7]).setWidth 64) (s := s)

/-- END: with CODE, or with Aa bits 2:0 when RC is 1 (R362). -/
def execIEnd (h k : Half) (s : State) : Host.Outcome State Fault Refusal :=
  instruction 0x3E h k (fun _ w m => modSeq h k (fun q => { q with
    stop := some (.ended (Code.ofBits (if bitAt w 3 then (regA q (insA w)).setWidth 3 else w.extractLsb' 0 3)) (!bitAt w 3)) }) m) (s := s)

end Sys2Proof.Machine
end

