-- ==== Sys2Proof/Machine/Image.lean ====
section
/-!
DEFINITION. The forge image as it is read (chapter 12): CRC-32C, the header and directory of line 0 (R386 to R390), and the
arrival of its lines (R384, R396).
-/

namespace Sys2Proof.Machine

/-! ## CRC-32C (R387) -/

/-- One bit of the reflected CRC. -/
def crcBit (c : BitVec 32) : BitVec 32 := if bitAt c 0 then (c >>> 1) ^^^ 0x82F63B78 else c >>> 1

/-- One byte of the reflected CRC. -/
def crcByte (c : BitVec 32) (b : BitVec 8) : BitVec 32 :=
  crcBit (crcBit (crcBit (crcBit (crcBit (crcBit (crcBit (crcBit (c ^^^ b.setWidth 32))))))))

/-- CRC-32C of a byte sequence. -/
def crc32c (bs : List (BitVec 8)) : BitVec 32 := ~~~(bs.foldl crcByte 0xFFFFFFFF)

/-- Bytes `lo` to `lo + n - 1` of a word of any width, the first lowest. -/
def bytesOf {w : Nat} (x : BitVec w) (lo n : Nat) : List (BitVec 8) :=
  (List.range n).map fun i => x.extractLsb' (8 * (lo + i)) 8

/-! ## The image as lines -/

/-- Image line n; a line that has not arrived reads zero. -/
def imgLine (ls : Tab Line) (n : Nat) : Line := tabGet 0 ls n

/-- The 32-bit word at a byte offset, a multiple of 4. -/
def imgWord (ls : Tab Line) (off : Nat) : BitVec 32 := (imgLine ls (off / 256)).extractLsb' (8 * (off % 256)) 32

/-- A directory entry (Table 12.2). -/
structure Section where
  kind : Nat
  off  : Nat
  len  : Nat
  deriving DecidableEq, Repr

def sectionAt (l0 : Line) (i : Nat) : Section :=
  let f := fun (o : Nat) => (l0.extractLsb' (8 * (64 + 16 * i + o)) 32).toNat
  ⟨f 0 % 65536, f 4, f 8⟩

/-- The header fields of Table 12.1. -/
def hdrMagic (l0 : Line) : BitVec 32 := l0.extractLsb' 0 32
def hdrFmtVer (l0 : Line) : BitVec 16 := l0.extractLsb' 32 16
def hdrNsec (l0 : Line) : Nat := (l0.extractLsb' 48 16).toNat
def hdrImgVer (l0 : Line) : BitVec 32 := l0.extractLsb' 64 32
def hdrLen (l0 : Line) : Nat := (l0.extractLsb' 96 32).toNat
def hdrBlkVer (l0 : Line) : BitVec 16 := l0.extractLsb' 128 16
def hdrDigest (l0 : Line) : BitVec 16 := l0.extractLsb' 160 16
def hdrIcrc (l0 : Line) : BitVec 32 := l0.extractLsb' 448 32
def hdrHcrc (l0 : Line) : BitVec 32 := l0.extractLsb' 480 32

/-- The directory entries in use. -/
def sectionsOf (l0 : Line) : List Section := (List.range (min 12 (hdrNsec l0))).map (sectionAt l0)

/-- Two byte ranges meet. -/
def rangesMeet (a b : Section) : Bool := decide (a.off < b.off + b.len) && decide (b.off < a.off + a.len)

/-- No two sections of the list overlap. -/
def apart (xs : List Section) : Bool :=
  match xs with
  | [] => true
  | x :: r => !(r.any (rangesMeet x)) && apart r

/-- Failure codes, Table 12.5. -/
def resNOCHAN : Nat := 1
def resMEMERR : Nat := 2
def resMAGIC : Nat := 3
def resHCRC : Nat := 4
def resVERSION : Nat := 5
def resLENGTH : Nat := 6
def resICRC : Nat := 7
def resDIGEST : Nat := 8
def resSECTION : Nat := 9
def resSLICE : Nat := 10
def resFIELD : Nat := 11
def resNOTIDLE : Nat := 12
def resTOPO : Nat := 13

/-- NSEC, LEN and the directory are in order (Table 12.5, LENGTH; a LEN that is no multiple of 256 is out of range by R386). -/
def lengthOk (l0 : Line) : Bool :=
  let len := hdrLen l0
  decide (9 ≤ hdrNsec l0) && decide (hdrNsec l0 ≤ 12) && decide (512 ≤ len) && decide (len ≤ 524288) && len % 256 == 0
    && (sectionsOf l0).all (fun x => x.off % 256 == 0 && decide (256 ≤ x.off) && x.len % 256 == 0 && decide (x.off + x.len ≤ len))
    && apart (sectionsOf l0)

/-- Step 2 of R396: the failure code of line 0. -/
def headerFailure (l0 : Line) : Option Nat :=
  if hdrMagic l0 != 0x45475246 then some resMAGIC
  else if crc32c (bytesOf l0 0 60 ++ bytesOf l0 64 192) != hdrHcrc l0 then some resHCRC
  else if hdrFmtVer l0 != 1 || (hdrBlkVer l0).extractLsb' 8 8 != 3 then some resVERSION
  else if !lengthOk l0 then some resLENGTH
  else none

/-- First line of a slot (R383). -/
def slotLine (m : Mach) (slot : Bool) : LineAddr :=
  (m.jrn.boota.setWidth 44 <<< 20) + (if slot then 0x1000 else 0)

/-- A READ of image line n on memory channel 0 (R384). -/
def imageRead (m : Mach) (slot : Bool) (n : Nat) : RdCmd :=
  ⟨0, slotLine m slot + BitVec.ofNat 44 n, 0xF, .image n, 0, true, none, 0, 0, 0⟩

/-- The READ is of an image line. -/
def isImageRead (x : RdCmd) : Bool := match x.why with | .image _ => true | .fill | .page => false

/-- Ask for image lines in ascending order (R396 steps 2 and 3). -/
def askImage (slot : Bool) (ns : List Nat) (m : Mach) : Mach :=
  ns.foldl (fun m n => queueRead 0 (imageRead m slot n) m) m

/-- A load fails: it takes no more lines, and its waiting READs are not sent. -/
def cutLoad (ld : Load) (c n : Nat) (m : Mach) : Mach :=
  let cut := ((chanAt m 0).readQ.filter isImageRead).length
  let m := modChan 0 (fun ch => { ch with readQ := ch.readQ.filter fun x => !isImageRead x }) m
  { m with img := { m.img with load := some { ld with await := ld.await - cut, failed := some (ld.failed.getD (c, n)) } } }

/-- A line is staged in the Crucible of Half 0 (R396). Line 0 is read and checked as it comes. -/
def stageLine (g : Regs) (ld : Load) (n : Nat) (d : Line) (m : Mach) : Mach :=
  let ld := { ld with lines := tabSet 0 ld.lines n d }
  if n != 0 then allWords.foldl (fun m k => noteWrite g .crucible 0 (imageWord n k) m) { m with img := { m.img with load := some ld } }
  else match headerFailure d with
    | some c => cutLoad ld c 0 m
    | none =>
      let k := hdrLen d / 256
      askImage ld.slot ((List.range (k - 1)).map (· + 1)) { m with img := { m.img with load := some { ld with await := k - 1 } } }

/-- A line of the image arrives, or ERR_DATA for it. A line numbered from 4,096 up answers a load that was given up. -/
def imageArrive (g : Regs) (n : Nat) (ok : Bool) (d : Line) (m : Mach) : Mach :=
  match m.img.load with
  | none => m
  | some ld =>
    if 4096 ≤ n then m
    else
      let ld := { ld with await := ld.await - 1 }
      if ld.failed.isSome then { m with img := { m.img with load := some ld } }
      else if !ok then cutLoad ld resMEMERR n m
      else stageLine g ld n d m

end Sys2Proof.Machine
end

