-- ==== Sys2Proof/Machine/MemCmds.lean ====
section
/-!
DEFINITION. The memory channels (chapters 03 and 13), fills and installs (R145, R147, R155), the victim buffer's recall (R150),
drains and moves (R140, R143).
-/

namespace Sys2Proof.Machine

/-! ## The choice of a READ (R424, R425) -/

/-- The descriptor of a class. -/
def classDesc (g : Regs) (k : BitVec 4) : ClassDesc := g.cls[k.toNat]'(k.isLt)

/-- Level of a class bucket: CBURST plus the difference that is kept (R424). -/
def bucketLevel (g : Regs) (ch : MemChan) (k : BitVec 4) : Int := (classDesc g k).cburst.toNat + tabGet 0 ch.bucket k.toNat

/-- Sectors of a mask. -/
def maskCount (s : BitVec 4) : Nat := ((List.range 4).filter fun i => s.getLsbD i).length

/-- A READ of a guaranteed class that the DRR may grant. -/
def isDrr (g : Regs) (ch : MemChan) (x : RdCmd) : Bool :=
  let c := classDesc g x.cls
  !x.low && c.kind == 1 && c.grd != 0 && decide (bucketLevel g ch x.cls > 0)

/-- A READ of a deadline class. -/
def isDeadline (g : Regs) (x : RdCmd) : Bool := !x.low && (classDesc g x.cls).kind == 2

/-- Position of a level-4 READ: its class, 16 for Bellows prefetches and image loads. -/
def level4Pos (g : Regs) (ch : MemChan) (x : RdCmd) : Option Nat :=
  if x.low then some 16
  else if isDrr g ch x || isDeadline g x then none
  else some x.cls.toNat

/-- The level-4 choice: round the positions from the pointer, the oldest of the first that has one. -/
def level4Choice (g : Regs) (ch : MemChan) (w : List RdCmd) : Option (RdCmd × Nat) :=
  ((List.range 17).map fun i => (ch.l4ptr + i) % 17).findSome? fun p =>
    (w.find? fun x => level4Pos g ch x == some p).map fun x => (x, p)

/-- An earlier deadline; none is later than every deadline. -/
def earlier (a b : Option Nat) : Bool :=
  match a, b with
  | some x, some y => decide (x < y)
  | some _, none => true
  | _, _ => false

/-- The earliest deadline, the oldest READ on a tie. -/
def deadlineChoice (g : Regs) (w : List RdCmd) : Option RdCmd :=
  (w.filter (isDeadline g)).foldl (fun b x => match b with | none => some x | some y => if earlier x.deadline y.deadline then some x else b) none

/-- The oldest DRR READ of a class. -/
def drrOldest (g : Regs) (ch : MemChan) (w : List RdCmd) (k : Nat) : Option RdCmd := w.find? fun x => isDrr g ch x && x.cls.toNat == k

/-- Classes without eligible READs lose their deficit. -/
def drrClear (g : Regs) (w : List RdCmd) (ch : MemChan) : MemChan :=
  (List.range 16).foldl (fun ch k =>
    if (drrOldest g ch w k).isSome then ch
    else { ch with deficit := tabSet 0 ch.deficit k 0, drrIn := if ch.drrPtr == k then false else ch.drrIn }) ch

/-- The DRR choice: the pointer's class gains GRD when it arrives and keeps the pointer while its deficit covers its oldest READ. -/
def drrChoice (fuel : Nat) (g : Regs) (w : List RdCmd) (ch : MemChan) : Option (RdCmd × MemChan) :=
  match fuel with
  | 0 => none
  | n + 1 =>
    let k := ch.drrPtr
    let next := { ch with drrPtr := (k + 1) % 16, drrIn := false }
    match drrOldest g ch w k with
    | none => drrChoice n g w next
    | some x =>
      let ch := if ch.drrIn then ch
        else { ch with drrIn := true, deficit := tabMod 0 ch.deficit k fun v => v + (classDesc g x.cls).grd.toNat }
      if tabGet 0 ch.deficit k ≥ (maskCount x.smask : Int) then
        some (x, { ch with deficit := tabMod 0 ch.deficit k fun v => v - maskCount x.smask })
      else drrChoice n g w { ch with drrPtr := (k + 1) % 16, drrIn := false }

/-- R425: the READ granted, with the channel's pointers after the grant. -/
def chooseRead (g : Regs) (w : List RdCmd) (ch0 : MemChan) : Option (RdCmd × MemChan) :=
  if !g.svcOrder then w.head?.map fun x => (x, ch0)
  else
    let ch := drrClear g w ch0
    let l4 := level4Choice g ch w
    let after := fun (x : RdCmd) (c : MemChan) => some (x, { c with since := min (c.since + 1) 15 })
    let low := l4.map fun x => (x.1, { ch with since := 0, l4ptr := (x.2 + 1) % 17 })
    if ch.since ≥ 15 && l4.isSome then low
    else match deadlineChoice g w with
      | some x => after x ch
      | none =>
        if w.any (isDrr g ch) then
          match drrChoice 128 g w ch with
          | some (x, c) => after x c
          | none => low
        else low

/-- A granted READ of a guaranteed class takes its sectors from the class bucket, not below −CBURST (R424). -/
def spendBucket (g : Regs) (x : RdCmd) (ch : MemChan) : MemChan :=
  let c := classDesc g x.cls
  if x.low || c.kind != 1 then ch
  else { ch with bucket := tabMod 0 ch.bucket x.cls.toNat fun v => max (-2 * (c.cburst.toNat : Int)) (v - maskCount x.smask) }

/-! ## Issue (R83 to R90, R427) -/

/-- A memory ATOMIC of the line is outstanding: no READ and no WRITE of the line is sent (R226). -/
def atomicOut (ch : MemChan) (l : LineAddr) : Bool := ch.atomO.any fun y => lineOf y.req.addr == l

/-- The READs that can go: their line has no WRITE (R89) and no ATOMIC (R226) outstanding. -/
def sendableReads (ch : MemChan) : List RdCmd :=
  ch.readQ.filter fun x => !(ch.writeO.any fun y => y.line == x.line) && !atomicOut ch x.line

def canRead (ch : MemChan) : Bool :=
  decide (ch.hcr[0] ≥ 1) && decide (ch.readO.length < Config.readsOut) && !(sendableReads ch).isEmpty

/-- The first WRITE that can go (R89, R151, R226, R427). -/
def nextWrite (ch : MemChan) : Option WrCmd :=
  if ch.hcr[1] ≥ 1 ∧ ch.writeO.length < Config.writesOut then
    match ch.writeQ.find? fun x =>
      !(ch.writeO.any fun y => y.line == x.line) && !(ch.readO.any fun y => y.line == x.line) && !atomicOut ch x.line with
    | some x => if ch.dcr[1] ≥ maskCount x.smask then some x else none
    | none => none
  else none

/-- A READ or a WRITE of the line waits or is outstanding. -/
def lineInFlight (ch : MemChan) (l : LineAddr) : Bool :=
  (ch.writeQ ++ ch.writeO).any (fun y => y.line == l) || (ch.readQ ++ ch.readO).any fun y => y.line == l

/-- The oldest ATOMIC (R427), when it can go: nothing of its line is in flight, which a controller could put after it (log 98). -/
def nextAtomic (ch : MemChan) : Option AtCmd :=
  if ch.hcr[2] ≥ 1 ∧ ch.dcr[2] ≥ 1 ∧ ch.atomO.length < Config.atomicsOut then
    ch.atomQ.head?.filter fun x => !lineInFlight ch (lineOf x.req.addr)
  else none

/-- Take header and data credits of a class. -/
def takeCredits (c : Fin 3) (units : Nat) (ch : MemChan) : MemChan :=
  { ch with hcr := ch.hcr.set c.val (ch.hcr[c] - 1) c.isLt, dcr := ch.dcr.set c.val (ch.dcr[c] - units) c.isLt, ptr := (c.val + 1) % 3 }

/-- Present a READ. -/
def issueRead (g : Regs) (h : Half) (m : Mach) : Mach :=
  let ch := chanAt m h
  match chooseRead g (sendableReads ch) ch with
  | none => m
  | some (x, c) =>
    let tag := BitVec.ofNat 9 (pickId m.freeCtr Config.readsOut fun i => ch.readO.any fun y => y.tag.toNat == i)
    let y := { x with tag := tag }
    let c := takeCredits 0 0 (spendBucket g x { c with readQ := c.readQ.erase x, readO := c.readO ++ [y] })
    emit (.read h y (readHeader y)) <| profile g h 0x05 (some (y.label, y.optag)) (maskCount y.smask) (spend (modChan h (fun _ => drrClear g (sendableReads c) c) m))

/-- The sectors of a mask packed in ascending order, as a WRITE carries them. -/
def packSectors (smask : BitVec 4) (d : Line) : Line :=
  ((List.range 4).foldl (fun (acc : Line × Nat) s =>
    if smask.getLsbD s then (withSector acc.1 acc.2 (sectorOf d s), acc.2 + 1) else acc) (0, 0)).1

/-- Present a WRITE. -/
def issueWrite (g : Regs) (h : Half) (x : WrCmd) (m : Mach) : Mach :=
  let ch := chanAt m h
  let tag := BitVec.ofNat 9 (pickId m.freeCtr Config.writesOut fun i => ch.writeO.any fun y => y.tag.toNat == i)
  let y := { x with tag := tag }
  let sent := { y with data := packSectors y.smask y.data }
  emit (.write h sent (writeHeader sent) (dataBeats memWriteW (64 * maskCount y.smask) sent.data)) <| profile g h 0x06 none 1 (spend (modChan h (fun c =>
    takeCredits 1 (maskCount x.smask) { c with writeQ := c.writeQ.erase x, writeO := c.writeO ++ [y] }) m))

/-- The data of an ATOMIC toward memory (R87): the operand, or the compare value and behind it the new value, packed. -/
def atomicData (r : Req) : Line :=
  let n := 8 * 2 ^ r.size.toNat
  let mask : Line := BitVec.ofNat 2048 (2 ^ n - 1)
  let new : Line := if r.aux.extractLsb' 0 5 == 5 then (r.data >>> 64) &&& mask else 0
  (r.data &&& mask) ||| (new <<< n)

/-- Present an ATOMIC. -/
def issueAtomic (h : Half) (x : AtCmd) (m : Mach) : Mach :=
  let ch := chanAt m h
  let tag := BitVec.ofNat 9 (pickId m.freeCtr Config.atomicsOut fun i => ch.atomO.any fun y => y.tag.toNat == i)
  let y := { x with tag := tag }
  let data := atomicData y.req
  emit (.atomic h { y with req := { y.req with data := data } } (atomicHeader y) (dataBeats memWriteW (atomicBytes y.req) data))
    (spend (modChan h (fun c => takeCredits 2 1 { c with atomQ := c.atomQ.erase x, atomO := c.atomO ++ [y] }) m))

/-- One command header in rotation among the classes that can go (R427). -/
def issueCmd (g : Regs) (h : Half) (m : Mach) : Mach :=
  let ch := chanAt m h
  let can := fun (c : Nat) => if c == 0 then canRead ch else if c == 1 then (nextWrite ch).isSome else (nextAtomic ch).isSome
  match ([ch.ptr % 3, (ch.ptr + 1) % 3, (ch.ptr + 2) % 3]).find? can with
  | some 0 => issueRead g h m
  | some 1 => match nextWrite ch with | some x => issueWrite g h x m | none => m
  | some _ => match nextAtomic ch with | some x => issueAtomic h x m | none => m
  | none => m

/-- MEM_CMD_ISSUE (R427). -/
def execMemCmdIssue (h : Half) (s : State) : Host.Outcome State Fault Refusal :=
  run (fun g m => if clocked m h && chanJoined m h then issueCmd g h m else m) s

/-! ## Credits of a partner (R83, R84, R94) -/

/-- The half of a link: the remote port is Half 0's (R14). -/
def linkHalf (k : LinkIx) : Half := match k with | .mem c => c | .peer c => c | .remote => 0

/-- The credits returned to a class: one header at most, 0 to 4 data. -/
def hdrCredit (hcrd : BitVec 4) (c : Nat) : Nat := if bitAt hcrd c then 1 else 0
def dataCredit (dcrd : BitVec 12) (c : Nat) : Nat := (dcrd.extractLsb' (3 * c) 3).toNat

/-- A credit return keeps every pool within its size (R84, R94) and returns at most four data credits of a class (R83). -/
def creditsOk (n : Nat) (hpool dpool : Nat) (hcr dcr : Nat → Nat) (hcrd : BitVec 4) (dcrd : BitVec 12) : Bool :=
  (List.range n).all fun c =>
    decide (dataCredit dcrd c ≤ 4) && decide (hcr c + hdrCredit hcrd c ≤ hpool) && decide (dcr c + dataCredit dcrd c ≤ dpool)

/-- MSG_CREDIT_RETURN (R83). Credits of a partner that has not joined have no effect; a pool past its bound breaks R84 or R94. -/
def execMsgCreditReturn (k : LinkIx) (hcrd : BitVec 4) (dcrd : BitVec 12) (s : State) : Host.Outcome State Fault Refusal :=
  if !clocked s.m (linkHalf k) then run (fun _ => raiseDemand (linkHalf k)) s
  else match k with
    | .mem c =>
      let ch := chanAt s.m c
      if !isJoined ch.hello then run (fun _ m => m) s
      else if !creditsOk 3 4095 4095 (fun i => ch.hcr.toList.getD i 0) (fun i => ch.dcr.toList.getD i 0) hcrd dcrd then .fault .creditOverflow
      else run (fun _ => modChan c (fun x => { x with
        hcr := x.hcr.mapFinIdx fun i v _ => v + hdrCredit hcrd i, dcr := x.dcr.mapFinIdx fun i v _ => v + dataCredit dcrd i })) s
    | _ =>
      let j : Fin 3 := match k with | .peer c => peerLink c | _ => 2
      let l := linkAt s.m j
      let (hp, dp) := if j == 2 then (64, 128) else (32, 64)
      if !isJoined l.hello then run (fun _ m => m) s
      else if !creditsOk 4 hp dp (fun i => l.hcr.toList.getD i 0) (fun i => l.dcr.toList.getD i 0) hcrd dcrd then .fault .creditOverflow
      else run (fun _ m => flushLink j (modLink j (fun x => { x with
        hcr := x.hcr.mapFinIdx fun i v _ => v + hdrCredit hcrd i, dcr := x.dcr.mapFinIdx fun i v _ => v + dataCredit dcrd i }) m)) s

/-! ## READ responses (R88, R145, R155) -/

/-- The line whose sectors of a mask come packed in ascending order (R88). -/
def unpackSectors (smask : BitVec 4) (d : Line) : Line :=
  ((List.range 4).foldl (fun (acc : Line × Nat) s =>
    if smask.getLsbD s then (withSector acc.1 s (sectorOf d acc.2), acc.2 + 1) else acc) (0, 0)).1

def dropMiss (h : Half) (l : LineAddr) (m : Mach) : Mach :=
  modHalf h (fun hs => { hs with miss := hs.miss.filter fun e => e.line != l }) m

def goAll (h : Half) (st : Stage) (rs : List Req) (m : Mach) : Mach := { m with again := m.again ++ rs.map fun r => ⟨h, r, st⟩ }

/-- A request fails with the READ or XRSP it waited for (R76, R446): a package that asked gets its code alone. -/
def failMem (h : Half) (r : Req) (m : Mach) : Mach :=
  match r.origin with
  | .remote .. => complete r .errData 0 m
  | _ => failData h lossMEM r m

/-- The requests of a fill that failed (R155, R343, R348). -/
def failFill (h : Half) (rs : List Req) (m : Mach) : Mach :=
  rs.foldl (fun m r =>
    if r.op == .grpContrib then
      match contribGroup (halfAt m h) r with
      | some gr =>
        if gr.lost.contains (lineOf r.addr) then failData h lossLOST r m
        else failData h lossMEM r (setGroup h (gidOf r) (some { gr with lost := gr.lost ++ [lineOf r.addr] }) m)
      | none => failData h lossMEM r m
    else failMem h r m) m

/-- Every request that joined before the data came asks for no allocation (R155); a line that stands in its place is not such a fill. -/
def quietFill (hs : HalfSt) (e : MissEntry) : Bool :=
  !e.prefetch && !e.waiters.isEmpty && (e.waiters.all fun r => r.hint == 2) && (locate hs e.line).isNone

/-- The data of a fill has arrived. -/
def fillData (h : Half) (e : MissEntry) (d : Line) (m : Mach) : Mach :=
  modHalf h (fun hs => { hs with miss := hs.miss.map fun y =>
    if y.line == e.line then { y with data := d, arrived := true, noFill := y.noFill || quietFill hs e } else y }) m

/-- A fill's data has arrived, or ERR_DATA for it. -/
def fillArrive (g : Regs) (h : Half) (x : RdCmd) (ok : Bool) (d : Line) (m : Mach) : Mach :=
  match missOf (halfAt m h) x.line with
  | none => m
  | some e =>
    if ok then fillData h e (unpackSectors x.smask d) m
    else
      let m := dropMiss h x.line m
      if (locate (halfAt m h) x.line).isSome then
        goAll h .data e.waiters (loseLine g h none x.line (logLoss (lossLine lossMEM h x.line) m))
      else failFill h e.waiters m

/-- The READ of a window line whose half is in its safe state brings nothing; the piece stays in the window. -/
def pageDropped (h : Half) (l : LineAddr) (m : Mach) : Mach :=
  modHalf h (fun hs => { hs with resOut := hs.resOut.map fun x => if x.win == l then { x with back := false } else x }) m

/-- What a READ brings, or its failure: to the fill, to the group line that waits for it, or to the image load. A half in its safe state
discards the data of fills (Table 14.8). -/
def readOver (g : Regs) (c : Half) (x : RdCmd) (ok : Bool) (d : Line) (m : Mach) : Mach :=
  match x.why with
  | .image n => imageArrive g n ok d m
  | .fill => if (halfAt m c).safe then dropMiss c x.line m else fillArrive g c x ok d m
  | .page => if (halfAt m c).safe then pageDropped c x.line m else pageArrive g c x.line ok m

/-- A READ response frees its tag. -/
def readResponse (g : Regs) (c : Half) (x : RdCmd) (ok : Bool) (d : Line) (m : Mach) : Mach :=
  readOver g c x ok d (modChan c (fun ch => { ch with readO := ch.readO.erase x }) m)

/-- A response of a controller that has departed or never joined is discarded and enters the violation log (R110, R453), which names no SRC
and no OPC for it: both are free (log 97). -/
def discardResponse (m : Mach) : Mach :=
  let v := Config.freeWord m.freeCtr
  logVio (vioMessage (v.extractLsb' 0 4) (v.extractLsb' 4 6) 0) (spend m)

/-- A response of the memory controller. One that answers no command changes nothing (R88, log 9). -/
def memResponse {α : Type} (c : Half) (find : MemChan → Option α) (take : Regs → α → Mach → Mach) (s : State) :
    Host.Outcome State Fault Refusal :=
  run (fun g m =>
    if !clocked m c then raiseDemand c m
    else if !chanJoined m c then discardResponse m
    else match find (chanAt m c) with
      | none => m
      | some x => take g x m) s

/-- MEM_READ_RESPONSE (R88). -/
def execMemReadResponse (c : Half) (tag : BitVec 9) (ok : Bool) (d : Line) (s : State) : Host.Outcome State Fault Refusal :=
  memResponse c (fun ch => ch.readO.find? fun x => x.tag == tag) (fun g x => readResponse g c x ok d) s

/-! ## WRITE and ATOMIC responses (R88, R91, R148, R151, R226) -/

/-- The requests that a WRITE's response, or the XRSP of an XWB, lets go on: maintenance acts again, a write is settled and completes, a
PLACE is delivered. -/
def wroteBack (h : Half) (r : Req) (m : Mach) : Mach :=
  match r.op with
  | .cln => if r.given.isSome then complete r .done 0 m else goAll h .data [r] m
  | .clnInv | .xUnique | .xUpgrade | .unpin => goAll h .data [r] m
  | .inv => complete r .done 0 m
  | .place => goAll h .data [r] m
  | _ => complete (settleReport r m).1 .done (r.given.getD 0) (settleReport r m).2

/-- The requests of a writeback that failed: the line is lost (R91, Table 14.3). One that had not acted yet meets the lost line. -/
def wroteLost (h : Half) (cause : BitVec 4) (r : Req) (m : Mach) : Mach :=
  if r.given.isNone && lostData r.op then meetsLost h r m
  else match r.op with
  | .cln | .clnInv | .xUnique | .xUpgrade | .unpin | .inv => goAll h .data [{ r with given := none }] m
  | _ => if r.given.isNone then goAll h .data [r] m else failData h cause r m

/-- The victim entry of a WRITE has its response: its line is clean unless it changed since. Its tag entry is written. -/
def vbWritten (g : Regs) (h : Half) (l : LineAddr) (slot : Nat) (secs : BitVec 4) (m : Mach) : Mach :=
  let bit := lineBit l
  let upd := fun (e : VbEntry) =>
    if e.slot != slot then e
    else
      let e := { e with sent := e.sent &&& ~~~bit }
      if frameHas e.frame l && e.unsent &&& bit == 0 then
        let st := e.frame.lines[lineIx l]
        { e with frame := { e.frame with lines := e.frame.lines.set (lineIx l).val { st with dirty := st.dirty &&& ~~~secs } (lineIx l).isLt } }
      else e
  let changes := (halfAt m h).vb.any fun e => e.slot == slot && (upd e).frame != e.frame
  let m := modHalf h (fun hs => { hs with vb := hs.vb.map upd }) m
  if changes then noteWrite g .victim h (512 + slot) m else m

/-- Writebacks of the line that R151 held back are sent. -/
def sendHeldBack (g : Regs) (h : Half) (l : LineAddr) (m : Mach) : Mach :=
  ((halfAt m h).vb.filter fun e => e.set == setIx l && e.unsent.getLsbD (lineIx l).val && frameHas e.frame l).foldl
    (fun m e => writeBackVb g h e.slot l m) m

/-- The victim entry of a WRITE that failed: none is outstanding for the line, which stays dirty. -/
def vbUnsent (h : Half) (l : LineAddr) (slot : Nat) (m : Mach) : Mach :=
  modHalf h (fun hs => { hs with vb := hs.vb.map fun e => if e.slot == slot then { e with sent := e.sent &&& ~~~lineBit l } else e }) m

/-- A WRITE that failed for a cause: its line is lost (R91, R111), and what waited for it ends or goes on. The line's own entry comes behind
those of requests (R450). -/
def writeFailed (g : Regs) (h : Half) (cause own : BitVec 4) (x : WrCmd) (m : Mach) : Mach :=
  let m := match x.vb with | some slot => vbUnsent h x.line slot m | none => m
  let m := sendHeldBack g h x.line (loseLine g h none x.line m)
  logLoss (lossLine cause h x.line) (x.waiters.foldl (fun m r => wroteLost h own r m) m)

/-- A WRITE that succeeded: a request that waited for it without having acted acts now. -/
def writeDone (g : Regs) (h : Half) (x : WrCmd) (m : Mach) : Mach :=
  let m := sendHeldBack g h x.line (match x.vb with | some slot => vbWritten g h x.line slot x.smask m | none => m)
  x.waiters.foldl (fun m r => if r.given.isNone then goAll h .data [r] m else wroteBack h r m) m

/-- A WRITE response. -/
def writeResponse (g : Regs) (h : Half) (x : WrCmd) (ok : Bool) (m : Mach) : Mach :=
  let m := modChan h (fun ch => { ch with writeO := ch.writeO.erase x }) m
  if ok then writeDone g h x m else writeFailed g h lossWRITE lossLOST x m

/-- MEM_WRITE_RESPONSE (R88). -/
def execMemWriteResponse (c : Half) (tag : BitVec 9) (ok : Bool) (s : State) : Host.Outcome State Fault Refusal :=
  memResponse c (fun ch => ch.writeO.find? fun x => x.tag == tag) (fun g x => writeResponse g c x ok) s

/-- An ATOMIC response: the old value completes the request (R226), or ERR_DATA (R90). -/
def atomicResponse (h : Half) (x : AtCmd) (ok : Bool) (old : BitVec 64) (m : Mach) : Mach :=
  let m := modChan h (fun ch => { ch with atomO := ch.atomO.erase x }) m
  if (halfAt m h).safe then m
  else if ok then complete x.req .done ((old &&& BitVec.ofNat 64 (2 ^ (8 * 2 ^ x.req.size.toNat) - 1)).setWidth 2048) m
  else failData h lossMEM x.req m

/-- MEM_ATOMIC_RESPONSE (R226). -/
def execMemAtomicResponse (c : Half) (tag : BitVec 9) (ok : Bool) (old : BitVec 64) (s : State) : Host.Outcome State Fault Refusal :=
  memResponse c (fun ch => ch.atomO.find? fun x => x.tag == tag) (fun _ x => atomicResponse c x ok old) s

/-! ## Writebacks of the range engine (R177) -/

/-- A request of the range engine is among these. -/
def ofRange (rs : List Req) : Bool := rs.any fun r => match r.origin with | .range _ => true | _ => false

/-- The WRITEs that a step caused for the engine: those queued, and those that wait in the victim buffer (R151). -/
def noteRange (h : Half) (caused : Bool) (before m : Mach) : Mach :=
  let held := fun (m : Mach) => (halfAt m h).vb.flatMap fun e =>
    (fourLines.filter fun i => e.unsent.getLsbD i.val).map fun i => lineAt e.set e.frame.tag i.val
  if caused then
    let new := ((chanAt m h).writeQ.drop (chanAt before h).writeQ.length).map (·.line)
      ++ (held m).filter fun l => !(held before).contains l
    { m with re := { m.re with writes := m.re.writes ++ new.map fun l => (h, l) } }
  else m

/-! ## FILL_INSTALL (R147, R155) -/

/-- What a line that arrives has been made by the requests that wait for it: the line, its dirty sectors, the writes that wait for the
response of their bytes, the requests that still have something to do. -/
structure Served where
  data  : Line
  dirty : BitVec 4
  ws    : List Req
  left  : List Req
  m     : Mach

/-- The request is answered from the arrived line; the others act on a resident line. -/
def answeredByFill (r : Req) : Bool :=
  isUpdate r.op || r.op == .rdNc || r.op == .rdS || r.op == .rdU || r.op == .xShared || r.op == .pref

/-- Serve a waiting request from the arrived line. With an install (`now`) its bytes are then in place, else its line is written back
at once. A PLACE goes on to its delivery. -/
def serveOne (now : Bool) (s : Served) (r : Req) : Served :=
  if isUpdate r.op then
    let (v, secs, old) := updateLine r s.data
    let s := { s with data := v, dirty := s.dirty ||| secs }
    if !now && secs != 0 then { s with ws := s.ws ++ [awaitWrite r v old] }
    else if r.op == .place then { s with left := s.left ++ [{ r with be := 0 }] }
    else
      let (r, m) := settleReport r s.m
      { s with m := complete r .done old m }
  else { s with m := if r.op == .pref then complete r .done 0 s.m else answerRead r s.data s.m }

/-- Serve the waiting requests in order until one acts on a resident line; that one and those behind it are left. -/
def serveAll (now : Bool) (rs : List Req) (d : Line) (dirty : BitVec 4) (m : Mach) : Served :=
  let s := (rs.takeWhile answeredByFill).foldl (serveOne now) ⟨d, dirty, [], [], m⟩
  { s with left := s.left ++ rs.dropWhile answeredByFill }

/-- The arrived line with all write data that waits on it (R155). -/
def writtenLine (rs : List Req) (d : Line) : Line := (rs.takeWhile answeredByFill).foldl (fun d r => (updateLine r d).1) d

/-- The install age (Table 4.8, R155, Table 5.5). -/
def installAge (g : Regs) (h : Half) (e : MissEntry) : BitVec 2 :=
  if e.prefetch then g.hc[h].pfage
  else match e.waiters.find? fun r => r.hint != 2 with
    | some r => if r.hint == 1 || (match r.origin with | .range _ => true | _ => false) then 3 else g.hc[h].nage
    | none => g.hc[h].nage

/-- The mask of a fill (Table 5.4). -/
def fillMask (g : Regs) (m : Mach) (h : Half) (e : MissEntry) : BitVec 24 :=
  if e.prefetch then (if isPackage m (lineBase e.line) then g.hc[h].pmask else g.hc[h].pmask &&& g.hc[h].xmask)
  else installMask g m h e.line e.label

/-- Requests that act on the arrived line although no frame took it. -/
def withGiven (d : Line) (r : Req) : Req :=
  match r.op with
  | .inv | .clnInv | .cln | .unpin | .xUnique | .xUpgrade | .xsnpDown | .xsnpInv => r
  | _ => { r with given := some d }

/-- A fill has brought the line of a request. -/
def markFilled (rs : List Req) : List Req := rs.map fun r => { r with filled := true }

/-- The waiting requests of a remote line go through their order point again (Table 6.6). Without an install the leading reads, or one
write, take the arrived line with them. -/
def resumeRemote (h : Half) (e : MissEntry) (d : Line) (installed : Bool) (m : Mach) : Mach :=
  let ws := markFilled e.waiters
  if installed then goAll h .order ws m
  else
    let isRead := fun (r : Req) => r.op == .rdNc || r.op == .rdS || r.op == .rdU || r.op == .pref
    match ws.takeWhile isRead, ws.dropWhile isRead with
    | [], r :: t => goAll h .order (withGiven d r :: t) m
    | lead, rest => goAll h .order (lead.map (withGiven d) ++ rest) m

/-- The line goes where its place was found, or nowhere (R147, R445); the waiting requests are answered in order. A shared permission is
held once its line is installed (Table 6.6). -/
def fillInto (g : Regs) (h : Half) (e : MissEntry) (d : Line) (dirty : BitVec 4) (p : Place) (m : Mach) : Mach :=
  let l := e.line
  let age := installAge g h e
  if e.xreq.isSome then
    if p == .nowhere then resumeRemote h e d false (if dirty == 0 then m else writeBack g h l dirty dirty d [] none m)
    else resumeRemote h e d true (putLine g h l d dirty age p (if e.xreq == some .shared then setXp g h l 1 m else m))
  else
    let s := serveAll (p != .nowhere) e.waiters d dirty m
    if p == .nowhere then
      goAll h .data (s.left.map (withGiven s.data)) (if s.dirty == 0 then s.m else writeBack g h l s.dirty s.dirty s.data s.ws none s.m)
    else goAll h .data (markFilled s.left) (putLine g h l s.data s.dirty age p s.m)

/-- The line installs where no frame holds it, with what the merge buffer still has of it, which is read first (R145, R449). A line that
CEN = 0 hides keeps its frame and its entries (R185). -/
def installFill (g : Regs) (h : Half) (e : MissEntry) (m : Mach) : Mach :=
  let l := e.line
  let kept := (locate (halfAt m h) l).isSome
  let (bad, m) := if kept then (false, m) else readMerges g h l e.waiters.isEmpty m
  let drop := fun (m : Mach) => if kept then dropMiss h l m else discardMerges h l (dropMiss h l m)
  if bad then
    match e.waiters with
    | [] => drop m
    | r :: t => t.foldl (fun m x => meetsLost h x m) (endInError (lossLine lossDATA h l) r (drop m))
  else
    let d := if kept then e.data else mergedData (halfAt m h) l e.data
    let dirty := if kept then e.dirty else e.dirty ||| mergedSectors (halfAt m h) l
    match e.waiters.find? fun r => r.op == .pin with
    | some r => goAll h .data (e.waiters.filter fun x => x.id != r.id) (pinInto g h r d dirty (drop m))
    | none =>
      let (p, m) := if e.noFill || !g.hc[h].cen then (Place.nowhere, m)
        else placeFor g h l (if e.xreq.isSome then d else writtenLine e.waiters d) (fillMask g m h e) m
      if p == .wait then m else fillInto g h e d dirty p (drop m)

/-- The line of a fill goes into the place where a refetched line stands (R145, R443), whose AGE stays as it was (DESIGN CHOICE, log 117), else
into a frame. A refetched line that no longer fits its packed frame moves out first (R139); one that CEN = 0 hides meanwhile leaves, its data
being invalid. A line lost meanwhile stays lost (R445), and a line that a fill under CEN = 0 passed by stays in place (R185, R186). -/
def installLine (g : Regs) (h : Half) (e : MissEntry) (m : Mach) : Mach :=
  let l := e.line
  let stage := if e.xreq.isSome then Stage.order else Stage.data
  match locate (halfAt m h) l with
  | none => installFill g h e m
  | some p =>
    if e.noFill then installFill g h e m
    else if (lineOfLoc (halfAt m h) l p).lost then goAll h stage (markFilled e.waiters) (dropMiss h l m)
    else if (lookup g m h l).isNone then installFill g h e (removeLine g h l m)
    else if overwriteFits g m h l p e.data then
      goAll h stage (markFilled e.waiters) (drainLine g h l (overwriteLine g h l p e.data e.dirty (dropMiss h l m)))
    else startMove h l e.label none m

/-- FILL_INSTALL (R147): the tags are read, then the line goes to its place. -/
def execFillInstall (h : Half) (l : LineAddr) (s : State) : Host.Outcome State Fault Refusal :=
  run (fun g m =>
    match missOf (halfAt m h) l with
    | none => m
    | some e => if !clocked m h || !e.arrived then m else noteRange h (ofRange e.waiters) m (installLine g h e (instGrant h e.waiters (readLookup g h l m)))) s

/-! ## VICTIM_RECALL (R150) -/

/-- The victim entry of a line that is due a recall. -/
def recallDue (hs : HalfSt) (l : LineAddr) : Option VbEntry :=
  hs.vb.find? fun e => e.set == setIx l && frameHas e.frame l && e.recalled.isSome

/-- Change what waits in a victim entry, and its recall. -/
def endRecall (h : Half) (slot : Nat) (m : Mach) : Mach := modVb h slot (fun e => { e with recalled := none, waiters := [] }) m

/-- The requests to a line of the entry are served from its copy and their writes go back at once (R150). A copy that outgrows a packed
frame does not stay. -/
def serveCopy (g : Regs) (h : Half) (slot : Nat) (l : LineAddr) (rs : List Req) (m : Mach) : Mach :=
  let (ok, m) := if rs.all coversLine then (true, m) else readSectors g h none l (.vb slot) 0xF m
  if !ok then goAll h .data rs m
  else
    let st := lineOfLoc (halfAt m h) l (.vb slot)
    let s := serveAll false rs st.data st.dirty m
    let m := s.m
    let rest := goAll h .data (s.left.map (withGiven s.data))
    if s.ws.isEmpty then rest m
    else
      let pkg := isPackage m (lineBase l)
      let keeps := overwriteFits g m h l (.vb slot) s.data
      let m := if keeps then
          modVb h slot (fun e => { e with sent := if pkg then e.sent ||| lineBit l else e.sent, unsent := e.unsent &&& ~~~lineBit l })
            (modLineSt g h l (.vb slot) allWords (fun _ => freshLine g h s.data (if pkg then s.dirty else 0) (rawLine g l)) m)
        else removeLine g h l m
      rest (writeBack g h l s.dirty s.dirty s.data s.ws (if keeps && pkg then some slot else none) m)

/-- No way is eligible: the entry stays, and its waiting requests are served from it (R150). On a lost line only a ZERO is (Table 14.3). -/
def recallAbandoned (g : Regs) (h : Half) (e : VbEntry) (m : Mach) : Mach :=
  ((e.waiters.map fun r => lineOf r.addr).eraseDups).foldl (fun m l =>
    let rs := e.waiters.filter fun r => lineOf r.addr == l
    if writePending m h l then rs.foldl (fun m r => waitWrite h l r m) m
    else if lineLost (halfAt m h) l then
      let zs := rs.filter fun r => r.op == .zero
      goAll h .data (rs.filter fun r => r.op != .zero) (if zs.isEmpty then m else serveCopy g h e.slot l zs m)
    else serveCopy g h e.slot l rs m) (endRecall h e.slot m)

/-- The lines of a recalled packed frame that gained an agent or a group meanwhile leave it (R139), and a group line leaves a floor way
(R169). -/
def recallMoves (g : Regs) (h : Half) (label : Option (BitVec 12)) (set : BitVec 13) (w : Nat) (m : Mach) : Mach :=
  let fr := frameAt (halfAt m h) set w
  (linesOf (halfAt m h) set w).foldl (fun m l =>
    let d := dirOf (halfAt m h) l
    if inGroup (halfAt m h) l then
      (if fr.packed || decide (w < Config.floorWays) then startMove h l (groupLabel (halfAt m h) l) none m else setHold g h (needsHold (halfAt m h) l) l m)
    else if fr.packed && d.agents != 0 then startMove h l label none m
    else m) m

/-- The frame goes into a free way with AGE 0 and its DIRTY bits. Its place stays taken while a WRITE of it is outstanding (R149). -/
def recallInto (g : Regs) (h : Half) (label : Option (BitVec 12)) (e : VbEntry) (w : Nat) (m : Mach) : Mach :=
  let m := if e.sent == 0 then modHalf h (fun hs => { hs with vb := hs.vb.filter fun x => x.slot != e.slot }) m
    else modVb h e.slot (fun x => { x with frame := Frame.free, unsent := 0, recalled := none, waiters := [] }) m
  let m := putFrame g h (lineAt e.set e.frame.tag 0) (.frame w) { e.frame with age := 0 } allWords m
  goAll h .data e.waiters (recallMoves g h label e.set w m)

/-- A way is made free for the recall, whose own place in the victim buffer may take the frame that leaves it; else the recall waits. -/
def recallFrame (g : Regs) (h : Half) (l : LineAddr) (label : Option (BitVec 12)) (e : VbEntry) (m : Mach) : Mach :=
  let mask := installMask g m h l label
  match chooseWay g m h e.set mask with
  | none => recallAbandoned g h e m
  | some (w, _) =>
    if isFree (frameAt (halfAt m h) e.set w) then recallInto g h label e w m
    else
      let m := emptyFrame g h e.set w m
      match chooseWay g m h e.set mask with
      | none => m
      | some (v, k) =>
        let room := vbRoom { halfAt m h with vb := (halfAt m h).vb.filter fun x => x.slot != e.slot || e.sent != 0 }
        if v != w || frameBusy (halfAt m h) e.set w || !room then m
        else
          let m := addAges g h e.set mask k m
          let fr := { frameAt (halfAt m h) e.set w with hold := false, pinned := false }
          if isFree fr then recallInto g h label e w m
          else if e.sent != 0 || vbRoom (halfAt m h) then recallInto g h label e w (evictFrame g h e.set w m)
          else
            -- the two frames change places
            let m := recallInto g h label e w (putFrame g h l (.frame w) Frame.free [] m)
            evictInto g h e.set e.slot fr m

/-- A recall reads the frame it takes back (R439). Without CEN nothing is installed (R184). -/
def recallNow (g : Regs) (h : Half) (l : LineAddr) (e : VbEntry) (m : Mach) : Mach :=
  let m := checkWords g h l (.vb e.slot) allWords m
  match (halfAt m h).vb.find? fun x => x.slot == e.slot with
  | none => m
  | some x =>
    if isFree x.frame then goAll h .data x.waiters (endRecall h x.slot m)
    else if !g.hc[h].cen then recallAbandoned g h x m
    else recallFrame g h l (x.recalled.getD none) x m

/-- VICTIM_RECALL (R150). -/
def execVictimRecall (h : Half) (l : LineAddr) (s : State) : Host.Outcome State Fault Refusal :=
  run (fun g m =>
    if !clocked m h then m
    else
      let m := readLookup g h l m
      match recallDue (halfAt m h) l with
      | none => m
      | some e => noteRange h (ofRange e.waiters) m (recallNow g h l e (instGrant h e.waiters m))) s

/-! ## Drains and moves (R139, R140, R143) -/

/-- MERGE_ENTRY_TIMEOUT (R143). -/
def execMergeEntryTimeout (h : Half) (l : LineAddr) (sec : Fin 4) (s : State) : Host.Outcome State Fault Refusal :=
  run (fun g m =>
    match mergeOf (halfAt m h) l sec.val with
    | some e => if !clocked m h || e.draining then m else startDrain g h e (readLookup g h l m)
    | none => m) s

/-- MERGE_DRAIN_END (R143): the entry frees and the requests that waited for it proceed. -/
def execMergeDrainEnd (h : Half) (l : LineAddr) (sec : Fin 4) (s : State) : Host.Outcome State Fault Refusal :=
  run (fun _ m =>
    match mergeOf (halfAt m h) l sec.val with
    | none => m
    | some e =>
      if !e.draining then m
      else goAll h .data e.waiters (modHalf h (fun hs => { hs with merge := hs.merge.filter fun x => x.slot != e.slot }) m)) s

def moveOf (hs : HalfSt) (l : LineAddr) : Option Move := hs.moves.find? fun x => x.line == l

/-- A line must leave its frame: a packed one, or the floor way of a group line (R139, R169). While CEN is 0 it stays (R185), and a lost line
stays in the frame being left (R465). -/
def mustLeave (g : Regs) (m : Mach) (h : Half) (l : LineAddr) : Bool :=
  match lookup g m h l with
  | some (.frame w) =>
    !lineLost (halfAt m h) l && (((frameAt (halfAt m h) (setIx l) w).packed && !packable g m h l)
      || (inGroup (halfAt m h) l && decide (w < Config.floorWays)))
  | _ => false

/-- No way is eligible: the line leaves without a frame (R140, R169). The write that triggered the move and the merge buffer's bytes are
merged into it, and it is written back. -/
def leaveFrame (g : Regs) (h : Half) (l : LineAddr) (p : Loc) (trigger : Option Req) (m : Mach) : Mach :=
  let (ok, m) := readSectors g h none l p 0xF m
  if !ok then goAll h .data trigger.toList m
  else
    let st := lineOfLoc (halfAt m h) l p
    let s := serveAll false trigger.toList (mergedData (halfAt m h) l st.data) (st.dirty ||| mergedSectors (halfAt m h) l) m
    let m := discardMerges h l s.m
    let back := if isPackage m (lineBase l) then s.dirty != 0 else xpUnique m h l
    let m := if back then writeBack g h l s.dirty s.dirty s.data s.ws none m else m
    goAll h .data (s.left.map (withGiven s.data)) (if lineLost (halfAt m h) l then m else removeLine g h l m)

/-- The line goes into a free way of its own, with the AGE of the frame it leaves (log 99). -/
def moveInto (g : Regs) (h : Half) (l : LineAddr) (v : Nat) (m : Mach) : Mach :=
  match locate (halfAt m h) l with
  | some (.frame w) =>
    let fr := frameAt (halfAt m h) (setIx l) w
    drainLine g h l (putFrame g h l (.frame v) (singleFrame l fr.lines[lineIx l] fr.age) allWords (removeLine g h l m))
  | _ => m

/-- The move's event: the line leaves its frame. A write that triggered it waits for its end, unless the move wrote it back. A line that is
being fetched in place leaves to its fill. While CEN is 0 nothing is installed (R184): the line leaves only with write data that must go. -/
def moveOut (g : Regs) (h : Half) (v : Move) (m : Mach) : Mach :=
  let l := v.line
  let started := fun (t : Option Req) (m : Mach) =>
    modHalf h (fun hs => { hs with moves := hs.moves.map fun x => if x.line == l then { x with started := true, trigger := t } else x }) m
  let m := drainLine g h l m
  match locate (halfAt m h) l with
  | some (.frame w) =>
    if !(frameAt (halfAt m h) (setIx l) w).packed && !mustLeave g m h l || lineLost (halfAt m h) l then started v.trigger m
    else if refetching (halfAt m h) l then started v.trigger (removeLine g h l m)
    else if !g.hc[h].cen && v.trigger.isNone && (liveMerges (halfAt m h) l).isEmpty then started none m
    else
      let m := checkWords g h l (.frame w) allWords m
      match locate (halfAt m h) l with
      | none => started v.trigger m
      | some p => match freeWay 4 g h (setIx l) (if g.hc[h].cen then moveMask g m h l v.label else 0) m with
        | (.way x, m) => started v.trigger (moveInto g h l x m)
        | (.nowhere, m) => started none (leaveFrame g h l p v.trigger m)
        | (_, m) => m
  | _ => started v.trigger m

/-- PACK_MOVE_OUT (R139). -/
def execPackMoveOut (h : Half) (l : LineAddr) (s : State) : Host.Outcome State Fault Refusal :=
  run (fun g m =>
    match moveOf (halfAt m h) l with
    | some v => if !clocked m h || v.started then m else noteRange h (v.range || ofRange v.trigger.toList) m (moveOut g h v (instGrant h (v.trigger.toList ++ v.waiters) (readLookup g h l m)))
    | none => m) s

/-- PACK_MOVE_END (R140): HOLD is set for a group line (R169, R338), and what waited for the line proceeds. A line that must still leave its
frame, because a group opened over it meanwhile, moves again. -/
def execPackMoveEnd (h : Half) (l : LineAddr) (s : State) : Host.Outcome State Fault Refusal :=
  run (fun g m =>
    match moveOf (halfAt m h) l with
    | none => m
    | some v =>
      if !v.started then m
      else if mustLeave g m h l then
        modHalf h (fun hs => { hs with moves := hs.moves.map fun x => if x.line == l then { x with started := false } else x }) m
      else
        let m := modHalf h (fun hs => { hs with moves := hs.moves.filter fun x => x.line != l }) m
        let m := if needsHold (halfAt m h) l then setHold g h true l m else m
        openingDone h (goAll h .data (v.trigger.toList ++ v.waiters) m)) s

end Sys2Proof.Machine
end

