-- ==== Sys2Proof/Machine/Messages.lean ====
section
/-!
DEFINITION. Messages of the peer and remote ports (R93, R96 to R98, R210 to R214, R246).
-/

namespace Sys2Proof.Machine

/-- Take a message of a link: its half must be clocked (R476), its credits go back, and a message of a partner that has not joined is
discarded and logged (R110, R453). -/
def message (k : Fin 3) (src : BitVec 5) (cls : Fin 4) (units : Nat) (mtype : BitVec 6) (a : Addr) (f : Regs → Mach → Mach) (s : State) :
    Host.Outcome State Fault Refusal :=
  if !clocked s.m (fin3Half k) then run (fun _ => raiseDemand (fin3Half k)) s
  else run (fun g m =>
    let m := takeMsg k cls units (if (halfAt m (fin3Half k)).pw.tail then raiseDemand (fin3Half k) m else m)
    if partJoined m k src then f g m
    else logVio (vioMessage (BitVec.ofNat 4 (4 + k.val)) mtype a) m) s

/-! ## Peer messages -/

/-- The request of a FWD, at its home slice (R96, R97). Its deadline counts from its arrival, by the class of its entry slice (R411, R426, log 94). -/
def fwdReq (x : FwdMsg) (o : Op) (id accept : Nat) : Req :=
  let r := { beatReq id (.fwd x.ch x.sslice x.sport x.beat.txn (bitAt x.beat.rsv 2)) o x.beat accept x.idx with dlc := x.dlc }
  let off := x.beat.addr.toNat % 256
  match o with
  | .wr => { r with data := x.data <<< (8 * off), be := x.be }
  | .atomR | .atomN => { r with data := x.data, be := beRange 0 64 }
  | .place | .addl | .grpContrib => { r with data := x.data <<< (8 * off), be := beRange off (2 ^ x.beat.size.toNat) }
  | _ => r

/-- A FWD is served: a counter report (R246), a Bellows prefetch (R157), or a request. -/
def fwdTake (g : Regs) (x : FwdMsg) (o : Op) (m : Mach) : Mach :=
  if bitAt x.beat.rsv 0 || bitAt x.beat.rsv 1 then
    { m with reports := m.reports ++ [⟨ctrNum x.beat.addr, x.beat.aux.toNat, bitAt x.beat.rsv 0, bitAt x.beat.rsv 1⟩] }
  else
    let (id, m) := newId m
    let r := fwdReq x o id (coreTime m x.ch)
    if o == .pref && bitAt x.beat.aux 31 then
      let q := { r with origin := .bellows, aux := 0, dlc := none }
      modHalf (reqHalf m q) (fun hs => { hs with prefQ := hs.prefQ ++ [q] }) m
    else orderAt g (reqHalf m r) r m

/-- FWD (R96). A reserved OPC is ERR_DECODE (Table 2.15), which the home answers. -/
def execFwd (x : FwdMsg) (s : State) : Host.Outcome State Fault Refusal :=
  let o := (opOfBits x.opc).getD .rdNc
  message (peerLink x.ch) x.sslice (if isLane1 o then 3 else 0) (beatsOf x.opc x.beat.size) 0 (lineBase (lineOf x.beat.addr))
    (fun g m => if (opOfBits x.opc).isSome then fwdTake g x o m else
      let (id, m) := newId m
      let r := fwdReq x o id (coreTime m x.ch)
      complete r .errDecode 0 (logRefusal (vioSrc r.origin) .errDecode x.opc r m)) s

/-- The transaction a CMPL answers (R97). -/
def cmplOf (x : CmplMsg) (m : Mach) : Option FwdOut :=
  m.coh.fwdOut.find? fun f => f.ch == x.ch && f.dst == x.sslice && f.sport == x.sport && f.int == x.int && f.txn == x.txn

/-- The completion of a forwarded transaction goes to its port or unit. -/
def cmplTake (x : CmplMsg) (f : FwdOut) (m : Mach) : Mach :=
  let read := f.req.op == .rdNc || f.req.op == .rdS || f.req.op == .rdU
  let d := if read then x.data <<< (8 * (f.req.addr.toNat % 256)) else x.data
  complete f.req x.code d { m with coh := { m.coh with fwdOut := m.coh.fwdOut.erase f } }

/-- CMPL (R97). One that answers nothing gives its credits back and changes nothing more (log 9). -/
def execCmpl (x : CmplMsg) (s : State) : Host.Outcome State Fault Refusal :=
  message (peerLink x.ch) x.sslice 2 ((x.dlen.toNat + 63) / 64) 1 0
    (fun _ m => match cmplOf x m with | some f => cmplTake x f m | none => m) s

/-- SNPF (R98). -/
def execSnpf (x : SnpfMsg) (s : State) : Host.Outcome State Fault Refusal :=
  message (peerLink x.ch) x.sslice 1 (if x.kind == .place then 4 else 0) 2 (lineBase x.line)
    (fun g => snoopLocal g ⟨x.kind, x.line, x.idx, .peer x.ch x.sslice x.stxn, x.data, x.inst, x.gen⟩) s

/-- The forwarded snoop that an SRSPF answers (R98). -/
def srspfOf (x : SrspfMsg) (m : Mach) : Option SnpfOut :=
  m.coh.snpfOut.find? fun f => f.ch == x.ch && f.dst == x.sslice && f.stxn == x.stxn && f.snp.idx == x.idx

/-- SRSPF (R98). One that answers nothing changes nothing: its index died meanwhile (R217), or no snoop of it is out (log 9). -/
def execSrspf (x : SrspfMsg) (s : State) : Host.Outcome State Fault Refusal :=
  message (peerLink x.ch) x.sslice 2 0 3 0
    (fun _ m => match srspfOf x m with
      | some f => answerSnoop f.snp x.had { m with coh := { m.coh with snpfOut := m.coh.snpfOut.erase f } }
      | none => m) s

/-! ## Remote messages -/

/-- The request of another package at this slice. -/
def remoteReq (m : Mach) (chip : BitVec 5) (rtag : BitVec 9) (o : Op) (l : LineAddr) (d : Line) : Req × Mach :=
  let (id, m) := newId m
  (⟨id, .remote chip rtag, o, false, 0, lineBase l, 8, 0, 0, 0, 0, 0, 0, 0, coreTime m (homeHalf m (lineBase l)), d, 0, none, none,
    false, false, none, none, false, false, false⟩, m)

/-- XREQ (R210). -/
def execXreq (x : XreqMsg) (s : State) : Host.Outcome State Fault Refusal :=
  message 2 x.schip 0 0 4 (lineBase x.line) (fun g m =>
    let o := match x.kind with | .shared => Op.xShared | .unique => Op.xUnique | .upgrade => Op.xUpgrade
    let (r, m) := remoteReq m x.schip x.rtag o x.line 0
    orderAt g (homeHalf m r.addr) r m) s

/-- XWB (R214): its bytes land (Table 7.3), unless the half is in its safe state. -/
def execXwb (x : XwbMsg) (s : State) : Host.Outcome State Fault Refusal :=
  message 2 x.schip 0 4 5 (lineBase x.line) (fun g m =>
    let (r, m) := remoteReq m x.schip x.rtag .xwb x.line x.data
    let h := homeHalf m r.addr
    let m := if (halfAt m h).safe then m else countArrival g x.line x.dsmask m
    xwbArrive g h r m) s

/-- XSNP (R212). -/
def execXsnp (x : XsnpMsg) (s : State) : Host.Outcome State Fault Refusal :=
  message 2 x.schip 1 0 6 (lineBase x.line) (fun g m =>
    let (r, m) := remoteReq m x.schip x.rtag (if x.inv then .xsnpInv else .xsnpDown) x.line 0
    orderAt g (homeHalf m r.addr) r m) s

/-- The answer to an XREQ of this slice (Table 6.6, R446): XP unique is held at once, XP shared once the line is installed. A line goes to
its place by FILL_INSTALL. A write of a whole line needs no more. -/
def fillAnswer (g : Regs) (h : Half) (l : LineAddr) (kind : XKind) (code : Code) (line : Option Line) (m : Mach) : Mach :=
  match missOf (halfAt m h) l with
  | none => m
  | some e =>
    if !isDone code then failFill h e.waiters (dropMiss h l m)
    else
      let m := if kind == .shared then m else setXp g h l 2 m
      match line with
      | none => goAll h .order (if (locate (halfAt m h) l).isSome then e.waiters else markFilled e.waiters) (dropMiss h l m)
      | some d => fillData h e d m

/-- The answer to an XWB of this slice (R213, R214). -/
def wbAnswer (h : Half) (ws : List Req) (code : Code) (m : Mach) : Mach :=
  ws.foldl (fun m r => if isDone code then wroteBack h r m else failData h lossMEM r m) m

/-- The half that a remote transaction belongs to. -/
def remHalf (w : RemWhy) : Half := match w with | .fill h _ _ => h | .wb h _ _ _ _ => h | .snp h _ _ => h

/-- The transaction that an XRSP answers (R101). -/
def xrspOf (x : XrspMsg) (m : Mach) : Option RemOut := m.coh.remOut.find? fun r => r.rtag == x.rtag && r.chip == x.schip

/-- An XRSP ends its transaction. A half in its safe state takes and discards it (Table 14.8). -/
def xrspTake (g : Regs) (x : XrspMsg) (o : RemOut) (m : Mach) : Mach :=
  let m := endRemote x.rtag m
  if (halfAt m (remHalf o.why)).safe then
    match o.why with
    | .fill h l _ => dropMiss h l m
    | _ => m
  else match o.why with
    | .fill h l k => fillAnswer g h l k x.code x.line m
    | .wb h _ ws _ _ => wbAnswer h ws x.code m
    | .snp h l _ =>
      let m := if x.line.isSome then countArrival g l x.dsmask m else m
      answerChip g h l x.schip x.code x.line m

/-- XRSP (R212). One that answers nothing changes nothing (log 9). -/
def execXrsp (x : XrspMsg) (s : State) : Host.Outcome State Fault Refusal :=
  message 2 x.schip 2 (if x.line.isSome then 4 else 0) 7 0
    (fun g m => match xrspOf x m with | some o => xrspTake g x o m | none => m) s

/-! ## The counter unit (R246, R252) -/

/-- COUNTER_REPORT (R246). -/
def execCounterReport (s : State) : Host.Outcome State Fault Refusal :=
  run (fun _ m => if clocked m 0 then applyReport (rouse 0 m) else raiseDemand 0 m) s

/-- WAIT_RELEASE (R252). -/
def execWaitRelease (s : State) : Host.Outcome State Fault Refusal :=
  run (fun _ m => if clocked m 0 then releaseWaits m else m) s

end Sys2Proof.Machine
end

