-- ==== Sys2Proof/Machine/Probes.lean ====
section
/-!
DEFINITION. The measurement of the offset to another package (R521, R522).
-/

namespace Sys2Proof.Machine

/-- An entry of the offset table before any measurement. -/
def Offset.none : Offset := ⟨false, 0, 0⟩

/-- A probe request leaves for a package. -/
def sendProbe (p : BitVec 5) (m : Mach) : Mach := sendTo 2 p (.probe p false 0 0) m

/-- A measurement starts. One that a join asks for while another runs follows it. -/
def startMeasure (p : BitVec 5) (m : Mach) : Mach :=
  match m.dbg.meas with
  | some _ => { m with dbg := { m.dbg with measQ := m.dbg.measQ ++ [p] } }
  | none => sendProbe p { m with dbg := { m.dbg with meas := some ⟨p, 1, 0, none⟩ } }

/-- The next measurement asked for. -/
def nextMeasure (m : Mach) : Mach :=
  match m.dbg.meas, m.dbg.measQ with
  | none, p :: rest => startMeasure p { m with dbg := { m.dbg with measQ := rest } }
  | _, _ => m

/-- A probe is answered or lost: the next one leaves, or the entry takes the best answer. -/
def probeOver (x : Measure) (m : Mach) : Mach :=
  if x.sent < 8 then sendProbe x.pkg { m with dbg := { m.dbg with meas := some { x with sent := x.sent + 1 } } }
  else
    let upd := fun (o : Offset) => match x.best with
      | some (rtt, off) => Offset.mk true rtt.toNat off
      | none => { o with v := false }
    nextMeasure { m with dbg := { m.dbg with meas := none, offs := tabMod Offset.none m.dbg.offs x.pkg.toNat upd } }

/-- The better of two answers: the smaller rtt, the earlier probe on a tie. -/
def betterProbe (a : Option (Int × BitVec 64)) (rtt : Int) (off : BitVec 64) : Option (Int × BitVec 64) :=
  match a with
  | none => some (rtt, off)
  | some (r, o) => if rtt < r then some (rtt, off) else some (r, o)

/-- rtt and offset of an answered probe; `dt` is t3 − t2. -/
def probeResult (t1 t2 t4 : BitVec 64) (dt : BitVec 32) : Int × BitVec 64 :=
  let t3 := t2 + dt.setWidth 64
  ((t4 - t1).toInt - dt.toNat, BitVec.ofInt 64 (((t2 - t1).toInt + (t3 - t4).toInt) / 2))

/-- The package leaves: its entry is no longer valid and its measurement ends (R522, R539). -/
def endMeasure (p : BitVec 5) (m : Mach) : Mach :=
  nextMeasure { m with dbg := { m.dbg with
    offs := tabMod Offset.none m.dbg.offs p.toNat fun o => { o with v := false }
    meas := m.dbg.meas.filter fun x => x.pkg != p
    measQ := m.dbg.measQ.filter fun x => x != p } }

/-- A probe of a package that has joined is taken; another is discarded and logged (R110, R521). -/
def probeCommand (schip : BitVec 5) (f : Mach → Mach) (s : State) : Host.Outcome State Fault Refusal :=
  if !clocked s.m 0 then run (fun _ => raiseDemand 0) s
  else run (fun _ m =>
    let m := takeMsg 2 3 0 (if (halfAt m 0).pw.tail then raiseDemand 0 m else m)
    if partJoined m 2 schip then f m else logVio (vioMessage 6 8 0) m) s

/-- TS_PROBE_REQUEST (R521): answered with t2 and t3 − t2. The requester keeps its t1. -/
def execTsProbeRequest (schip : BitVec 5) (_t1 : BitVec 64) (s : State) : Host.Outcome State Fault Refusal :=
  probeCommand schip (fun m => sendTo 2 schip (.probe schip true (stampOf m 0) 0) m) s

/-- TS_PROBE_REPLY (R522). A reply that no probe waits for changes nothing. -/
def execTsProbeReply (schip : BitVec 5) (t2 : BitVec 64) (dt : BitVec 32) (s : State) : Host.Outcome State Fault Refusal :=
  probeCommand schip (fun m =>
    match m.dbg.meas with
    | some x =>
      if x.pkg != schip then m
      else
        let r := probeResult x.t1 t2 (stampOf m 0) dt
        probeOver { x with best := betterProbe x.best r.1 r.2 } m
    | none => m) s

/-- PROBE_TIMEOUT (R522). -/
def execProbeTimeout (s : State) : Host.Outcome State Fault Refusal :=
  run (fun _ m => match m.dbg.meas with | some x => probeOver x m | none => m) s

end Sys2Proof.Machine
end

