-- ==== Sys2Proof/Machine/Join.lean ====
section
/-!
DEFINITION. Joining and leaving (R102 to R112), the reclaim of departed holders (R194, R217 to R221).
-/

namespace Sys2Proof.Machine

/-! ## Words (Tables 3.7 to 3.9) -/

def capSliceOf (w : BitVec 64) : BitVec 5 := w.extractLsb' 0 5
def capChipOf (w : BitVec 64) : BitVec 5 := w.extractLsb' 5 5
def capDigestOf (w : BitVec 64) : BitVec 16 := w.extractLsb' 10 16
def capVerOf (w : BitVec 64) : BitVec 16 := w.extractLsb' 26 16

/-- DIGEST of the loaded image (word 20). -/
def ownDigest (m : Mach) : BitVec 16 := (sliceWord m 20).extractLsb' 0 16

/-- CAP of a slice, other than to an agent. -/
def ownCap (m : Mach) : BitVec 64 :=
  (ownSlice m).setWidth 64 ||| ((chipNum m).setWidth 64 <<< 5) ||| ((ownDigest m).setWidth 64 <<< 10) ||| (0x0301#64 <<< 26)

/-- The link that carries a slice-to-slice exchange. -/
def msgLink (src : HelloSrc) : Option (Fin 3 × BitVec 5) :=
  match src with
  | .peerMsg c j => some (peerLink c, j)
  | .remoteMsg p => some (2, p)
  | _ => none

/-- The half whose clocks an exchange needs. -/
def helloHalf (src : HelloSrc) : Half :=
  match src with
  | .port p => portHalf p
  | .mem c => c
  | .peer c => c
  | .remote => 0
  | .peerMsg c _ => c
  | .remoteMsg _ => 0

/-- The join state of a partner. -/
def helloOf (m : Mach) (src : HelloSrc) : Hello :=
  match src with
  | .port p => (portAt m p).hello
  | .mem c => (chanAt m c).hello
  | .peer c => (linkAt m (peerLink c)).hello
  | .remote => (linkAt m 2).hello
  | .peerMsg c j => partOf (linkAt m (peerLink c)) j
  | .remoteMsg p => partOf (linkAt m 2) p

def modHello (src : HelloSrc) (f : Hello → Hello) (m : Mach) : Mach :=
  match src with
  | .port p => modPort p (fun x => { x with hello := f x.hello }) m
  | .mem c => modChan c (fun x => { x with hello := f x.hello }) m
  | .peer c => modLink (peerLink c) (fun x => { x with hello := f x.hello }) m
  | .remote => modLink 2 (fun x => { x with hello := f x.hello }) m
  | .peerMsg c j => modLink (peerLink c) (fun x => { x with part := tabMod Hello.none x.part j.toNat f }) m
  | .remoteMsg p => modLink 2 (fun x => { x with part := tabMod Hello.none x.part p.toNat f }) m

/-- The ROLE expected of a partner, and the own ROLE (Table 3.7). -/
def roleOf (src : HelloSrc) : BitVec 4 :=
  match src with
  | .port _ => 1 | .mem _ => 2 | .peer _ => 3 | .remote => 4 | .peerMsg _ _ => 9 | .remoteMsg _ => 9

def ownRole (src : HelloSrc) : BitVec 4 := if (msgLink src).isSome then 9 else 8

/-- Send a word on an exchange: on its sideband, or as a HELLO message. To an agent CAP is `idx` alone (R107). -/
def sendWord (src : HelloSrc) (kind : BitVec 2) (reason : BitVec 4) (idx : BitVec 64) (m : Mach) : Mach :=
  let cap := match src with | .port _ => idx | _ => ownCap m
  let w := helloWord kind (ownRole src) reason cap
  match msgLink src with
  | some (k, j) => sendMsg k (.hello j w) m
  | none => emit (.hello src w) m

/-- Under FRUGAL ports 2 and 3, memory channel 1 and peer channel 1 make no hello (R34). -/
def silenced (m : Mach) (src : HelloSrc) : Bool := frugal m && helloHalf src == 1

/-- The slice sends its HELLO (R104). -/
def startHello (src : HelloSrc) (m : Mach) : Mach :=
  if silenced m src then m else sendWord src 1 0 0 (modHello src (fun x => { x with sent := true }) m)

/-! ## Dead holders -/

/-- A snoop awaited from a holder is answered for it, and its hold windows end (R217). A package that leaves stands for an answer
without its line (R221). -/
def holderGone (g : Regs) (h : Half) (x : Holder) (m : Mach) : Mach :=
  let waits := (halfAt m h).conf.filter fun c => c.pend.contains x
  let m := modHalf h (fun hs => { hs with wins := hs.wins.filter fun w => w.holder != x }) m
  match x with
  | .agent _ => { m with answers := m.answers ++ waits.map fun c => SnpAns.mk h c.line x false }
  | .chip p => waits.foldl (fun m c => answerChip g h c.line p .errData none m) m

/-- A reclaim walk starts, or a running one makes a further pass (R219). -/
def startWalk (h : Half) (m : Mach) : Mach :=
  if h == 1 && frugal m then m
  else modHalf h (fun hs => { hs with walk := if hs.walk.run then { hs.walk with again := true } else ⟨true, 0, false⟩ }) m

/-- An SNPF for an agent of this index (R220). -/
def snpfFor (idx : BitVec 6) (x : Msg) : Bool := match x with | .snpf _ _ s => s.idx == idx | _ => false

/-- Snoops that wait to be sent to an index are not sent any more (R220). -/
def unsendSnoops (idx : BitVec 6) (m : Mach) : Mach :=
  { m with
    links := m.links.map fun l => { l with sendQ := l.sendQ.filter fun x => !snpfFor idx x }
    coh := { m.coh with snpfOut := m.coh.snpfOut.filter fun f => f.snp.idx != idx } }

/-- An index is dead (R194): what waits for its agent goes on, and the walks start. -/
def killIndex (g : Regs) (idx : BitVec 6) (m : Mach) : Mach :=
  let m := unsendSnoops idx { m with coh := { m.coh with dead := m.coh.dead ||| agentBit idx } }
  bothHalves.foldl (fun m h => startWalk h (holderGone g h (.agent idx) m)) m

/-- The slices of the package joined on either channel. -/
def joinedSlices (m : Mach) : BitVec 32 :=
  (List.range 32).foldl (fun (a : BitVec 32) i =>
    if partJoined m 0 (BitVec.ofNat 5 i) || partJoined m 1 (BitVec.ofNat 5 i) then a ||| (1#32 <<< i) else a) 0

/-- The channel on which a slice is joined. -/
def channelTo (m : Mach) (j : BitVec 5) : Fin 3 := if partJoined m 0 j then 0 else 1

/-- A NOTICE word for an index (R218). -/
def noticeWord (m : Mach) (idx : BitVec 6) (ans : Bool) : BitVec 64 :=
  helloWord 0 0xB 0 (ownCap m ||| (idx.setWidth 64 <<< 42) ||| flagAt 64 ans 48)

/-- The granting slice reclaims an index package-wide (R218). Bits of slices that need not answer are set from the start. -/
def startReclaim (g : Regs) (idx : BitVec 6) (m : Mach) : Mach :=
  let js := joinedSlices m &&& ~~~(1#32 <<< (ownSlice m).toNat)
  let m := killIndex g idx m
  let m := { m with coh := { m.coh with
    reclaims := m.coh.reclaims.filter (fun r => r.idx != idx) ++ [⟨idx, ~~~(js ||| (1#32 <<< (ownSlice m).toNat))⟩] } }
  ((List.range 32).filter fun j => js.getLsbD j).foldl (fun m j =>
    let d := BitVec.ofNat 5 j
    sendMsg (channelTo m d) (.hello d (noticeWord m idx false)) m) m

/-! ## Departures (R78, R110 to R112) -/

def countDepart (m : Mach) : Mach := { m with coh := { m.coh with departs := m.coh.departs + 1 } }

/-- The port forgets the exchange and the index of its agent, which it grants again if it can (R109, R122). -/
def forgetAgent (p : PortIx) (m : Mach) : Mach :=
  modPort p (fun x => { x with hello := Hello.none, idx := none, former := x.idx.or x.former }) m

/-- The parked WAITs of a departed agent leave the counter unit; their completions are discarded (R251). -/
def expelPort (p : PortIx) (m : Mach) : Mach :=
  expelWaits (fun r => match r.origin with | .port q => q == p | _ => false) .done m

/-- The requests of a port whose WD beats have not all come: `n` beats wait for those that are not parsed yet (log 95). -/
def dueIds (n : Nat) (wd : List (Nat × Nat × Nat)) : List Nat :=
  match wd with
  | [] => []
  | (id, total, got) :: rest => if total - got ≤ n then dueIds (n - (total - got)) rest else id :: dueIds 0 rest

/-- DESIGN CHOICE (log 114). A request whose WD beats will not come, because its agent has left, ends: it never reaches its order point and
completes nowhere. The spec says nothing of it (R75, R111). -/
def dropDue (x : Port) : Port :=
  let due := dueIds x.wdIn.length x.wd
  { x with
    txns := x.txns.filter fun t => !due.contains t.req.id
    in0 := x.in0.filter fun i => !due.contains i.req.id
    in1 := x.in1.filter fun i => !due.contains i.req.id
    wd := x.wd.filter fun y => !due.contains y.1
    wdIn := if due.isEmpty then x.wdIn else x.wdIn.take ((x.wd.filter fun y => !due.contains y.1).foldl (fun n y => n + (y.2.1 - y.2.2)) 0)
    wdSkip := false }

/-- An agent leaves its port (Table 3.10). After a disable its completions stay, and its parked WAITs (R78); else the requests whose WD beats
are still due end (log 114). -/
def departAgent (g : Regs) (disabled : Bool) (p : PortIx) (m : Mach) : Mach :=
  let port := portAt m p
  let snoops := port.snoops.map (·.snoop) ++ port.deferred
  let isCmpl := fun (i : RdItem) => match i with | .place .. => false | .cmpl _ => true
  let m := forgetAgent p <| modPort p (fun x => { x with
    departed := !disabled, avail := Credits.none, owed := Credits.none, snp := [], snoops := [], deferred := []
    rd := x.rd.filter isCmpl, rdNew := x.rdNew.filter isCmpl
    rdCur := match x.rdCur with | some (.place .., _) => none | y => y }) (countDepart m)
  let m := if disabled then m else enterReady g p (modPort p dropDue (expelPort p m))
  let m := snoops.foldl (fun m s => answerSnoop s false m) m
  match port.idx with
  | some i => startReclaim g i m
  | none => m

/-- Requests that a departure fails (R111). -/
def failDeparted (h : Half) (rs : List Req) (m : Mach) : Mach :=
  rs.foldl (fun m r => match r.origin with | .remote .. => complete r .errData 0 m | _ => failData h lossDEPART r m) m

/-- A memory controller leaves (Table 3.10). -/
def departMem (g : Regs) (c : Half) (m : Mach) : Mach :=
  let ch := chanAt m c
  let m := countDepart (modChan c (fun x => { MemChan.reset with
    l4ptr := x.l4ptr, drrPtr := x.drrPtr, ptr := x.ptr, deficit := x.deficit, bucket := x.bucket, since := x.since }) m)
  let m := (ch.readO ++ ch.readQ).foldl (fun m x => readOver g c x false 0 m) m
  let m := if (halfAt m c).safe then m else failDeparted c ((ch.atomO ++ ch.atomQ).map (·.req)) m
  let m := (ch.writeO ++ ch.writeQ).foldl (fun m x => writeFailed g c lossDEPART lossDEPART x m) m
  ((halfAt m c).vb.filter fun e => e.unsent != 0).foldl (fun m e =>
    fourLines.foldl (fun (m : Mach) (i : Fin 4) =>
      if e.unsent.getLsbD i.val then writeBackVb g c e.slot (lineAt e.set e.frame.tag i.val) m else m) m) m

/-- Messages to a partner that leaves are dropped. -/
def dropQueued (k : Fin 3) (j : BitVec 5) (m : Mach) : Mach :=
  modLink k (fun l => { l with sendQ := l.sendQ.filter fun x => msgDst x != j }) m

/-- A peer slice leaves a channel (Table 3.10). It owes a reclaim no answer any more (DESIGN CHOICE, log 125). -/
def departSlice (g : Regs) (ch : Half) (j : BitVec 5) (m : Mach) : Mach :=
  let m := countDepart (dropQueued (peerLink ch) j (modHello (.peerMsg ch j) (fun _ => Hello.none) m))
  let fwds := m.coh.fwdOut.filter fun f => f.ch == ch && f.dst == j
  let snps := m.coh.snpfOut.filter fun f => f.ch == ch && f.dst == j
  let m := { m with coh := { m.coh with
    fwdOut := m.coh.fwdOut.filter fun f => !(f.ch == ch && f.dst == j)
    snpfOut := m.coh.snpfOut.filter fun f => !(f.ch == ch && f.dst == j)
    notices := m.coh.notices.filter fun n => !(n.ch == ch && n.src == j)
    reclaims := m.coh.reclaims.map fun r => { r with answered := r.answered ||| (1#32 <<< j.toNat) } } }
  let m := failDeparted ch (fwds.map (·.req)) m
  let m := snps.foldl (fun m f => answerSnoop f.snp false m) m
  ((List.range 64).filter fun i => granter m (BitVec.ofNat 6 i) == some j).foldl (fun m i => killIndex g (BitVec.ofNat 6 i) m) m

/-- A resident line of a departed package leaves, or is lost when it was dirty (Table 3.10). -/
def dropForeign (g : Regs) (h : Half) (l : LineAddr) (p : Loc) (m : Mach) : Mach :=
  let st := lineOfLoc (halfAt m h) l p
  if st.lost then m
  else if isDirty m h l st then loseLine g h none l (logLoss (lossLine lossDEPART h l) m)
  else dropResident g h l m

/-- Every line of a package that a half holds in a frame or a victim entry. -/
def linesOfChip (hs : HalfSt) (p : BitVec 5) : List (LineAddr × Loc) :=
  let fr := hs.frames.flatMap fun x =>
    (fourLines.filter fun i => x.2.lines[i].pres).map fun i =>
      (lineAt (BitVec.ofNat 13 (x.1 / Config.ways)) x.2.tag i.val, Loc.frame (x.1 % Config.ways))
  let vb := hs.vb.flatMap fun e => (fourLines.filter fun i => e.frame.lines[i].pres).map fun i => (lineAt e.set e.frame.tag i.val, Loc.vb e.slot)
  (fr ++ vb).filter fun x => ownerChip (lineBase x.1) == p

/-- A package's lines leave a half, with the copies of the local agents. An INV that finds the conflict tracker full waits for none (R201). -/
def dropChipLines (g : Regs) (h : Half) (p : BitVec 5) (m : Mach) : Mach :=
  let m := (linesOfChip (halfAt m h) p).foldl (fun m x => dropForeign g h x.1 x.2 m) m
  let held := (halfAt m h).dir.filter fun e => ownerChip (lineBase (dirLine (e.1 / Config.dirWays) e.2.tag)) == p
  held.foldl (fun m e =>
    let l := dirLine (e.1 / Config.dirWays) e.2.tag
    if lineLost (halfAt m h) l then m
    else
      let xs := holdersOf e.2
      let m := setDir g h l true DirEntry.free m
      snoopAll g h l .inv xs (trackLost h l xs m)) m

/-- An outstanding remote transaction of a departed package ends (R111, R217). -/
def failRemote (g : Regs) (p : BitVec 5) (w : RemWhy) (m : Mach) : Mach :=
  match w with
  | .fill h l _ =>
    match missOf (halfAt m h) l with
    | some e => failDeparted h e.waiters (dropMiss h l m)
    | none => m
  | .wb h _ ws _ _ => failDeparted h ws m
  | .snp h l _ => answerChip g h l p .errData none m

/-- An XWB that will not come: the line is the one memory holds (R221). -/
def endXwbWait (g : Regs) (h : Half) (p : BitVec 5) (m : Mach) : Mach :=
  ((halfAt m h).conf.filter fun c => c.waitXwb == some p).foldl (fun m c =>
    let e := dirOf (halfAt m h) c.line
    let m := logLoss (lossLine lossXLOST h c.line) (setDir g h c.line false (dropHolder (.chip p) { e with state := stS }) m)
    advanceConf g h { c with waitXwb := none } m) m

/-- A remote package leaves (Table 3.10, R221). -/
def departChip (g : Regs) (p : BitVec 5) (m : Mach) : Mach :=
  let m := endMeasure p (countDepart (dropQueued 2 p (modHello (.remoteMsg p) (fun _ => Hello.none) m)))
  let outs := m.coh.remOut.filter fun r => r.chip == p
  let waits := m.coh.remWait.filter fun r => r.1 == p
  let m := { m with coh := { m.coh with
    remOut := m.coh.remOut.filter fun r => r.chip != p
    remWait := m.coh.remWait.filter fun r => r.1 != p
    gone := m.coh.gone ||| chipBit p } }
  let m := (outs.map (·.why) ++ waits.map (·.2)).foldl (fun m w => failRemote g p w m) m
  let m := outs.foldl (fun m _ => nextRemote m) m
  bothHalves.foldl (fun m h => startWalk h (dropChipLines g h p (holderGone g h (.chip p) (endXwbWait g h p m)))) m

/-- Every partner behind a link leaves (R110): each joined slice or package counts as a departure, and the link's own partner as one
(DESIGN CHOICE, log 102). -/
def departLink (g : Regs) (k : Fin 3) (m : Mach) : Mach :=
  let js := ((linkAt m k).part.filter fun x => isJoined x.2).map fun x => BitVec.ofNat 5 x.1
  let m := js.foldl (fun m j => if k == 2 then departChip g j m else departSlice g (fin3Half k) j m) m
  let was := isJoined (linkAt m k).hello
  let m := modLink k (fun l => { l with
    hello := Hello.none, part := [], sendQ := [], hcr := Vector.replicate 4 0, dcr := Vector.replicate 4 0 }) m
  if was then countDepart m else m

/-- A joined partner leaves. -/
def depart (g : Regs) (src : HelloSrc) (m : Mach) : Mach :=
  match src with
  | .port p => departAgent g false p m
  | .mem c => departMem g c m
  | .peer c => departLink g (peerLink c) m
  | .remote => departLink g 2 m
  | .peerMsg c j => departSlice g c j m
  | .remoteMsg p => departChip g p m

/-! ## HELLO (R104, R108, R109) -/

/-- The indices that are free here: in the grant set, not held by a port, not dead. -/
def freeIndex (m : Mach) (i : Nat) : Bool :=
  mayGrant m i && !m.coh.dead.getLsbD i && !(allPorts.any fun p => (portAt m p).idx == some (BitVec.ofNat 6 i))

/-- The index a caching agent gets: the one it has, its former one, or a free choice (R109, R193, log 12). -/
def pickIndex (m : Mach) (p : PortIx) : Option (BitVec 6) :=
  match (portAt m p).idx with
  | some i => some i
  | none =>
    match (portAt m p).former.filter fun i => freeIndex m i.toNat with
    | some i => some i
    | none =>
      if (List.range 64).any (freeIndex m) then some (BitVec.ofNat 6 (pickId m.freeCtr 64 fun i => !freeIndex m i)) else none

/-- The partner is not the one R108 asks for: the CAP of a HELLO message names the source of its header (DESIGN CHOICE, log 103), in range. -/
def wrongPartner (m : Mach) (src : HelloSrc) (w : BitVec 64) : Bool :=
  match src with
  | .peerMsg _ j => capSliceOf w != j || capChipOf w != chipNum m || decide (j.toNat ≥ sliceCount m) || j == ownSlice m
  | .remoteMsg p => capChipOf w != p || capSliceOf w != ownSlice m || p == chipNum m
  | _ => false

/-- The former index of a port's agent is still being reclaimed. -/
def reclaiming (m : Mach) (p : PortIx) : Bool := (portAt m p).former.any fun i => m.coh.dead.getLsbD i.toNat

/-- The reason to refuse a HELLO (R108, Table 3.8). -/
def helloReason (g : Regs) (m : Mach) (src : HelloSrc) (w : BitVec 64) : Option (BitVec 4) :=
  let slice := (msgLink src).isSome
  let off := match src with | .port p => !g.rpEn[p] | _ => false
  let noIndex := match src with | .port p => bitAt w 0 && (pickIndex m p).isNone && !reclaiming m p | _ => false
  if wordRole w != roleOf src then some 4
  else if off then some 6
  else if slice && capDigestOf w != ownDigest m then some 1
  else if slice && (capVerOf w).extractLsb' 8 8 != 3 then some 3
  else if wrongPartner m src w || isJoined (helloOf m src) then some 2
  else if noIndex then some 5
  else none

/-- The previous state of the partner is still being reclaimed (R109). -/
def stillReclaiming (m : Mach) (src : HelloSrc) : Bool :=
  match src with
  | .port p => reclaiming m p
  | .peerMsg _ j => (List.range 64).any fun i => m.coh.dead.getLsbD i && granter m (BitVec.ofNat 6 i) == some j
  | .remoteMsg p => m.coh.gone.getLsbD p.toNat
  | _ => false

/-- Slices and packages that a joined link greets (R103). -/
def greeted (m : Mach) (k : Fin 3) : List HelloSrc :=
  if k == 2 then ((List.range 32).filter fun i => i != (chipNum m).toNat).map fun i => .remoteMsg (BitVec.ofNat 5 i)
  else ((List.range (min 32 (sliceCount m))).filter fun i => i != (ownSlice m).toNat).map fun i =>
    .peerMsg (fin3Half k) (BitVec.ofNat 5 i)

/-- The exchange is complete (R104, R126): what the partner may do from here on. A port's new agent sends no WD beats of requests that it has
not made (log 114); a completion of a former agent that comes from here on is presented to it: Table 3.10 does not say for how long
completions are discarded (DESIGN CHOICE, log 119). -/
def joinDone (src : HelloSrc) (m : Mach) : Mach :=
  let m := { m with coh := { m.coh with joins := m.coh.joins + 1 } }
  match src with
  | .port p => modPort p (fun x => { dropDue x with departed := false, avail := Credits.none, owed := ⟨64, 16, 32, 16⟩ }) m
  | .mem _ => m
  | .peer c =>
    let m := [(0 : Fin 4), 1, 2, 3].foldl (fun m c' => emit (.msgCredit (peerLink c) c' 32 64) m) m
    (greeted m (peerLink c)).foldl (fun m s => startHello s m) m
  | .remote =>
    let m := [(0 : Fin 4), 1, 2, 3].foldl (fun m c' => emit (.msgCredit 2 c' 64 128) m) m
    (greeted m 2).foldl (fun m s => startHello s m) m
  | .peerMsg .. => m
  | .remoteMsg p => startMeasure p m

/-- Mark one side of the exchange, and complete it when both sides are there. -/
def markJoin (src : HelloSrc) (f : Hello → Hello) (m : Mach) : Mach :=
  let before := isJoined (helloOf m src)
  let m := modHello src f m
  if isJoined (helloOf m src) && !before then joinDone src m else m

/-- What a controller or an agent declares (Table 3.9). -/
def takeCap (src : HelloSrc) (w : BitVec 64) (m : Mach) : Mach :=
  match src with
  | .mem c => modChan c (fun x => { x with atm := bitAt w 0, aops := w.extractLsb' 1 11 }) m
  | .port p => modPort p (fun x => { x with caching := bitAt w 0 }) m
  | _ => m

/-- A refusal or a departure with a reason is kept for LINK_STAT (R125). -/
def noteReject (role reason : BitVec 4) (m : Mach) : Mach :=
  if reason == 0 then m else { m with coh := { m.coh with rejRole := role, rejWhy := reason } }

/-- The HELLO is accepted: an index for a caching agent, and the JOIN (R104, R109). -/
def acceptHello (src : HelloSrc) (w : BitVec 64) (m : Mach) : Mach :=
  if stillReclaiming m src then modHello src (fun x => { x with waiting := some w }) m
  else
    let m := takeCap src w (modHello src (fun x => { x with waiting := none }) m)
    match src with
    | .port p =>
      if bitAt w 0 then
        match pickIndex m p with
        | some i =>
          let m := spend (modPort p (fun x => { x with idx := some i, former := none }) m)
          markJoin src (fun x => { x with joinOut := true }) (sendWord src 2 0 (i.setWidth 64 <<< 1) m)
        | none => noteReject (wordRole w) 5 (sendWord src 3 5 0 m)
      else markJoin src (fun x => { x with joinOut := true }) (sendWord src 2 0 0 (modPort p (fun x => { x with idx := none }) m))
    | _ => markJoin src (fun x => { x with joinOut := true }) (sendWord src 2 0 0 m)

/-- A HELLO is answered with JOIN or BYE (R104, R108). -/
def helloTake (g : Regs) (src : HelloSrc) (w : BitVec 64) (m : Mach) : Mach :=
  match helloReason g m src w with
  | some r => noteReject (wordRole w) r (sendWord src 3 r 0 m)
  | none => acceptHello src w m

/-- An exchange of this row can take place: the half is clocked, and for slices and packages the link is up (R103). -/
def helloCommand (src : HelloSrc) (f : Regs → Mach → Mach) (s : State) : Host.Outcome State Fault Refusal :=
  let h := helloHalf src
  if !clocked s.m h then run (fun _ => raiseDemand h) s
  else run (fun g m =>
    let m := if (halfAt m h).pw.tail then raiseDemand h m else m
    match msgLink src with
    | some (k, _) =>
      let m := takeMsg k 3 0 m
      if isJoined (linkAt m k).hello then f g m else logVio (vioMessage (BitVec.ofNat 4 (4 + k.val)) 8 0) m
    | none => if silenced m src then m else f g m) s

/-- HELLO (R108). The command acts on a word of KIND HELLO. -/
def execHello (src : HelloSrc) (w : BitVec 64) (s : State) : Host.Outcome State Fault Refusal :=
  helloCommand src (fun g m =>
    if wordKind w == 1 then helloTake g src w (modHello src (fun x => { x with heard := true }) m) else m) s

/-- The exchange of a partner can run: EN of the port (R78). -/
def enabled (g : Regs) (src : HelloSrc) : Bool := match src with | .port p => g.rpEn[p] | _ => true

/-- A JOIN completes the exchange once the own JOIN is out. -/
def joinTake (g : Regs) (src : HelloSrc) (w : BitVec 64) (m : Mach) : Mach :=
  if isJoined (helloOf m src) || wordRole w != roleOf src || !enabled g src then m
  else
    let m := match src with | .mem _ => takeCap src w m | _ => m
    markJoin src (fun x => { x with joinIn := true }) m

/-- JOIN (R104). -/
def execJoin (src : HelloSrc) (w : BitVec 64) (s : State) : Host.Outcome State Fault Refusal :=
  helloCommand src (fun g m => if wordKind w == 2 then joinTake g src w m else m) s

/-- An exchange that has not completed ends; what the port granted for it is free again (R110, R122). -/
def endExchange (src : HelloSrc) (m : Mach) : Mach :=
  match src with
  | .port p => forgetAgent p m
  | _ => modHello src (fun _ => Hello.none) m

/-- BYE (R110): a joined partner departs; one that has not joined ends the exchange. A reason other than 0 is kept for LINK_STAT in either
case (DESIGN CHOICE, log 104). -/
def execBye (src : HelloSrc) (w : BitVec 64) (s : State) : Host.Outcome State Fault Refusal :=
  helloCommand src (fun g m =>
    if wordKind w != 3 then m
    else
      let m := noteReject (wordRole w) (wordReason w) m
      if isJoined (helloOf m src) then depart g src m else endExchange src m) s

/-- The slice may greet the partner: the port is enabled, the link of a slice or package has joined (R103). -/
def mayGreet (g : Regs) (m : Mach) (src : HelloSrc) : Bool :=
  enabled g src && match msgLink src with | some (k, _) => isJoined (linkAt m k).hello && (greeted m k).contains src | none => true

/-- HELLO_REPEAT (R104): until a HELLO of the partner has been received. The first HELLO of an exchange may leave so too (log 37). -/
def execHelloRepeat (src : HelloSrc) (s : State) : Host.Outcome State Fault Refusal :=
  run (fun g m =>
    let x := helloOf m src
    if clocked m (helloHalf src) && mayGreet g m src && !isJoined x && (!x.sent || !x.heard) then startHello src m else m) s

/-! ## Reclaim (R218, R219) -/

/-- A waiting HELLO whose reclaim has finished is accepted (R109). -/
def retryHello (g : Regs) (src : HelloSrc) (m : Mach) : Mach :=
  match (helloOf m src).waiting with
  | none => m
  | some w => if stillReclaiming m src then m else helloTake g src w (modHello src (fun x => { x with waiting := none }) m)

/-- Every exchange that may wait. -/
def waitingHellos (m : Mach) : List HelloSrc :=
  (allPorts.map .port) ++ (bothHalves.flatMap fun c => (linkAt m (peerLink c)).part.map fun x => .peerMsg c (BitVec.ofNat 5 x.1))
    ++ ((linkAt m 2).part.map fun x => .remoteMsg (BitVec.ofNat 5 x.1))

def retryHellos (g : Regs) (m : Mach) : Mach := (waitingHellos m).foldl (fun m s => retryHello g s m) m

/-- Reclaims that every slice has answered are finished: their indices are free (R194, R218). -/
def finishReclaims (g : Regs) (m : Mach) : Mach :=
  let done := m.coh.reclaims.filter fun r => r.answered == BitVec.allOnes 32
  let m := { m with coh := { m.coh with
    reclaims := m.coh.reclaims.filter fun r => r.answered != BitVec.allOnes 32
    dead := done.foldl (fun d r => d &&& ~~~agentBit r.idx) m.coh.dead } }
  retryHellos g m

/-- Both walks have ended: this slice has answered for itself, notices are answered, and indices that others grant and packages are
no longer in any entry (R218, R219, log 28). -/
def walksEnded (g : Regs) (m : Mach) : Mach :=
  let ns := m.coh.notices
  let own := (m.coh.reclaims.map (·.idx)).foldl (fun (d : BitVec 64) i => d ||| agentBit i) 0
  let m := { m with coh := { m.coh with
    notices := []
    dead := m.coh.dead &&& own
    gone := 0
    reclaims := m.coh.reclaims.map fun r => { r with answered := r.answered ||| (1#32 <<< (ownSlice m).toNat) } } }
  finishReclaims g (ns.foldl (fun m n => sendTo (peerLink n.ch) n.src (.hello n.src (noticeWord m n.idx true)) m) m)

/-- One entry of a walk is read (R219, R221, R439). A line that loses its last holder may be packed (R138). -/
def walkEntry (g : Regs) (h : Half) (pos : Nat) (m : Mach) : Mach :=
  let set := pos / Config.dirWays
  let w := pos % Config.dirWays
  let m := readEntry g h set w m
  let e := dirSlot (halfAt m h) set w
  let e' := cleanEntry m.coh.dead m.coh.gone e
  if e == e' then m
  else
    let l := dirLine set e.tag
    let m := if e.state == stX && m.coh.gone.getLsbD e.ochip.toNat then logLoss (lossLine lossXLOST h l) m else m
    let m := putDir g h set w e' m
    if e'.agents == 0 && e'.chips == 0 then tryPack g h l m else m

/-- RECLAIM_WALK_STEP (R219). -/
def execReclaimWalkStep (h : Half) (s : State) : Host.Outcome State Fault Refusal :=
  run (fun g m =>
    let w := (halfAt m h).walk
    if !clocked m h || !w.run then m
    else
      let m := walkEntry g h w.pos m
      if w.pos + 1 < Config.dirSets * Config.dirWays then modHalf h (fun hs => { hs with walk := { w with pos := w.pos + 1 } }) m
      else if w.again then modHalf h (fun hs => { hs with walk := ⟨true, 0, false⟩ }) m
      else
        let m := modHalf h (fun hs => { hs with walk := ⟨false, 0, false⟩ }) m
        if bothHalves.any fun x => (halfAt m x).walk.run then m else walksEnded g m) s

/-- Departed index of a NOTICE (Table 3.9). -/
def noticeIdx (w : BitVec 64) : BitVec 6 := w.extractLsb' 42 6

/-- RECLAIM_NOTICE (R218). -/
def execReclaimNotice (ch : Half) (sslice : BitVec 5) (w : BitVec 64) (s : State) : Host.Outcome State Fault Refusal :=
  message (peerLink ch) sslice 3 0 8 0 (fun g m =>
    let m := killIndex g (noticeIdx w) m
    { m with coh := { m.coh with notices := m.coh.notices ++ [⟨noticeIdx w, sslice, ch⟩] } }) s

/-- RECLAIM_ANSWER (R218). -/
def execReclaimAnswer (ch : Half) (sslice : BitVec 5) (w : BitVec 64) (s : State) : Host.Outcome State Fault Refusal :=
  message (peerLink ch) sslice 3 0 8 0 (fun g m =>
    let upd := fun (r : Reclaim) => if r.idx == noticeIdx w then { r with answered := r.answered ||| (1#32 <<< sslice.toNat) } else r
    finishReclaims g { m with coh := { m.coh with reclaims := m.coh.reclaims.map upd } }) s

/-! ## Snoop timeout and link levels -/

/-- SNOOP_TIMEOUT (R68). -/
def execSnoopTimeout (p : PortIx) (stxn : BitVec 8) (s : State) : Host.Outcome State Fault Refusal :=
  run (fun g m =>
    if (portAt m p).snoops.any fun x => x.stxn == stxn && x.sent then departAgent g false p m else m) s

/-- A change of a link level is a demand for the halves of the channel (R478). -/
def linkDemand (k : Fin 3) (m : Mach) : Mach :=
  if clocked m (fin3Half k) && !(halfAt m (fin3Half k)).pw.tail then m else raiseDemand (fin3Half k) m

/-- LNK_UP_FALL (R110). -/
def execLnkUpFall (k : Fin 3) (s : State) : Host.Outcome State Fault Refusal :=
  run (fun g m =>
    if !(linkAt m k).up then m else departLink g k (linkDemand k (modLink k (fun l => { l with up := false }) m))) s

/-- LNK_UP_RISE (R125). -/
def execLnkUpRise (k : Fin 3) (s : State) : Host.Outcome State Fault Refusal :=
  run (fun _ m =>
    if (linkAt m k).up then m else linkDemand k (modLink k (fun l => { l with up := true }) m)) s

end Sys2Proof.Machine
end

