-- ==== Sys2Proof/Machine/RasCmds.lean ====
section
/-!
DEFINITION. What error protection does by itself (chapter 14): write-back and re-read of corrected words (R441), the vote of the structure
words (R454), remap copies (R459, R460), the Quench pass (R461, R462).
-/

namespace Sys2Proof.Machine

/-! ## The vote (R454) -/

/-- The copies of structure word i that do not hold its voted value. -/
def wrongCopies (m : Mach) (h : Half) (i : Nat) : List (Fin 3) :=
  match votedWord m h i with
  | none => []
  | some v => ([0, 1, 2] : List (Fin 3)).filter fun c => copyValue m h c i != some v

/-- Rewrite code word j of a copy: the voted value where the copy was wrong, the other words as corrected. `m0` is the state that the
vote read. -/
def rewriteCopy (m0 : Mach) (h : Half) (c : Fin 3) (j : Nat) (m : Mach) : Mach :=
  let is := (List.range 8).map fun k => 8 * j + k
  let wrong := is.filter fun i => (wrongCopies m0 h i).contains c
  if wrong.isEmpty then m
  else
    let value := fun (i : Nat) =>
      if wrong.contains i then (votedWord m0 h i).getD 0 else (copyValue m0 h c i).getD (tabGet 0 (halfAt m0 h).words[c] i)
    modHalf h (fun hs => { hs with
      words := hs.words.set c.val (is.foldl (fun t i => tabSet 0 t i (value i)) hs.words[c]) c.isLt
      votes := hs.votes + BitVec.ofNat 16 wrong.length }) (setErr .structs h (8 * c.val + j) 0 m)

/-- Every structure word of a half is voted. A word without a value is a cause of the safe state. -/
def voteHalf (g : Regs) (h : Half) (m : Mach) : Mach :=
  let copies : List (Fin 3) := [0, 1, 2]
  let m1 := (List.range 24).foldl (fun m i => (peekWord g h .structs i m).2) m
  let m2 := copies.foldl (fun m' c => (List.range 8).foldl (fun m' j => rewriteCopy m h c j m') m') m1
  match (List.range 64).find? fun i => (votedWord m h i).isNone with
  | some i => causeSafe h 1 (BitVec.ofNat 6 i) m2
  | none => m2

/-- Three equal copies without a stored error need no vote. -/
def voteNeeded (m : Mach) (h : Half) : Bool :=
  let w := (halfAt m h).words
  m.ras.errs.any (fun e => e.arr == .structs && e.half == h) || w[0] != w[1] || w[0] != w[2]

/-- STRUCT_VOTE (R454). -/
def execStructVote (h : Half) (s : State) : Host.Outcome State Fault Refusal :=
  run (fun g m => if clocked m h && voteNeeded m h then voteHalf g h m else m) s

/-! ## Reads by the half itself -/

/-- The set and the way that a frame code word belongs to, through the remap entry of a spare row. -/
def framePlace (hs : HalfSt) (i : Nat) : Option (Nat × Nat) :=
  let n := Config.sets * Config.ways * 8
  if i < n then some (i / 8 / Config.ways, i / 8 % Config.ways)
  else (tabGet ⟨false, false, 0, 0⟩ hs.remap ((i - n) / 8) |> fun e => if e.v then some (e.set.toNat, e.way.toNat) else none)

/-- A line of a frame, to name its place by. -/
def someLine (hs : HalfSt) (set way : Nat) : LineAddr := lineAt (BitVec.ofNat 13 set) (frameAt hs (BitVec.ofNat 13 set) way).tag 0

/-- An uncorrectable word of a frame, of the victim buffer or of the merge buffer acts on the lines in it (R443, R444, Table 14.2), and on the
group lines whose state it holds (R348). -/
def failFrameWord (g : Regs) (h : Half) (set way k : Nat) (m : Mach) : Mach :=
  let held := (halfAt m h).resv.filter fun x => x.way == way && x.set == set && decide (x.first ≤ k) && decide (k < x.first + x.n)
  held.foldl (fun m x => failState g h x.gid x.line m) (failWords g h none (someLine (halfAt m h) set way) (.frame way) [k] m)

def failVictimWord (g : Regs) (h : Half) (slot k : Nat) (m : Mach) : Mach :=
  match (halfAt m h).vb.find? fun e => e.slot == slot with
  | some e => failWords g h none (lineAt e.set e.frame.tag 0) (.vb slot) [k] m
  | none => m

def failMergeWord (g : Regs) (h : Half) (slot : Nat) (m : Mach) : Mach :=
  match (halfAt m h).merge.find? fun e => e.slot == slot with
  | some e => loseLine g h none e.line (logLoss (lossLine lossDATA h e.line) m)
  | none => m

/-- The Crucible words in use, by the model's numbers (log 18). -/
def crucibleUsed (m : Mach) (h : Half) : List Nat :=
  let a := anvAt m h
  (List.finRange 16).flatMap (fun n =>
    let gr := a.groups[n]
    if !gr.isOpen then [] else (if gr.seated then [] else parkWords n.val (grpSlots gr)) ++ partWords n.val gr)
  ++ (match a.ck with | some c => ckWords a.groups[grpIx c.group] | none => [])
  ++ (halfAt m h).groups.flatMap (fun x => match x.2 with
      | some gr => gr.spilled.flatMap fun y => spillWords (BitVec.ofNat 6 x.1) gr y.1 y.2
      | none => [])
  ++ (if h == 1 then [] else match m.img.load with
      | some ld => (ld.lines.filter fun x => x.1 != 0).flatMap fun x => allWords.map (imageWord x.1)
      | none => [])

/-- What owns a Crucible word fails: an Anvil group (R303), the load whose image it stages (Table 14.2), or a group line that R181 spilled
(R348). A word out of use has no owner. -/
def failCrucible (g : Regs) (h : Half) (i : Nat) (m : Mach) : Mach :=
  if !(crucibleUsed m h).contains i then m
  else if spillBase ≤ i then
    let gid := BitVec.ofNat 6 ((i - spillBase) / 4096 / 256)
    match groupAt (halfAt m h) gid with
    | some gr => failState g h gid (BitVec.ofNat 44 (gr.base.toNat / 256 + (i - spillBase) / 4096 % 256)) m
    | none => m
  else if imageWord 0 0 ≤ i then
    match m.img.load with
    | some ld => if h == 0 then cutLoad ld resMEMERR ((i - imageWord 0 0) / 8) m else m
    | none => m
  else
    let n : Fin 16 := if i < 20480 then grpIx (i / 1280) else grpIx (((anvAt m h).ck.map (·.group)).getD 0)
    let gr := agroupAt m h n
    if gr.isOpen then setAGroup h n { gr with fail := some (gr.fail.getD .errData) } m else m

/-- Read a code word and treat what it shows: R441 for a corrected word, Table 14.2 for an uncorrectable one. -/
def scanWord (g : Regs) (h : Half) (a : Arr) (i : Nat) (m : Mach) : Mach :=
  match a with
  | .tags => readTag g h (BitVec.ofNat 13 (i / 12)) (i % 12) m
  | .dir => readEntry g h (i / Config.dirWays) (i % Config.dirWays) m
  | .structs => m
  | .ctl => readControl g h a i m
  | .sliceArr => readControl g h a i m
  | _ =>
    let (bad, m) := peekWord g h a i m
    if !bad then m
    else match a with
      | .frames =>
        (match framePlace (halfAt m h) i with
         | some (set, way) => if frameWord (halfAt m h) set way (i % 8) == i then failFrameWord g h set way (i % 8) m else m
         | none => m)
      | .victim => if i < 512 then failVictimWord g h (i / 8) (i % 8) m else loseVictim h (i - 512) m
      | .merge => failMergeWord g h (i / 3) m
      | .crucible => failCrucible g h i m
      | _ => m

/-- How a read of the code word ends: 0 no error, 1 correctable, 2 uncorrectable. -/
def scanKind (m : Mach) (a : Arr) (h : Half) (i : Nat) : Nat :=
  match eccRead (errMask m a h i) with
  | .clean _ => 0
  | .corrected _ => 1
  | .bad => 2

/-! ## Write-back and re-read (R441) -/

/-- ECC_WRITEBACK: the oldest corrected word is written back, with the flips that its read let pass (R568), and read again later. An injection
into the structure copies waits for a load (R464). -/
def execEccWriteback (h : Half) (s : State) : Host.Outcome State Fault Refusal :=
  run (fun g m =>
    match (halfAt m h).wback with
    | [] => m
    | (a, i) :: rest =>
      if !clocked m h then m
      else
        let m := modHalf h (fun hs => { hs with wback := rest, recheck := hs.recheck ++ [(a, i)] }) m
        let left := eccEncode (leftOf (errMask m a h i))
        let m := if a == .structs then setErr a h i 0 m else noteWrite g a h i m
        setErr a h i (errMask m a h i ^^^ left) m) s

/-- A free remap entry, the lowest. -/
def freeRemap (hs : HalfSt) : Option Nat := (List.range 16).find? fun e => !(tabGet ⟨false, false, 0, 0⟩ hs.remap e).v

/-- A frame is hard-failing by a code word: with AUTO it takes the lowest free entry (R460). A frame that is remapped already takes none. -/
def hardFail (g : Regs) (h : Half) (i set way : Nat) (m : Mach) : Mach :=
  let hs := halfAt m h
  match freeRemap hs with
  | some e =>
    if g.rasAuto && (remapOf hs set way).isNone then
      modHalf h (fun hs => { hs with rcopy := some ⟨e, false, true, BitVec.ofNat 5 way, BitVec.ofNat 13 set, 0, hs.qn.found.contains (.frames, i)⟩ }) m
    else m
  | none => m

/-- ECC_RECHECK: the rewritten word is read again; an error makes its frame hard-failing. While a copy runs, a frame that would need one
waits. -/
def execEccRecheck (h : Half) (s : State) : Host.Outcome State Fault Refusal :=
  run (fun g m =>
    match (halfAt m h).recheck with
    | [] => m
    | (a, i) :: rest =>
      let failing := scanKind m a h i != 0
      if !clocked m h || (failing && a == .frames && (halfAt m h).rcopy.isSome) then m
      else
        let m := scanWord g h a i (modHalf h (fun hs => { hs with recheck := rest }) m)
        match a == .frames && failing, framePlace (halfAt m h) i with
        | true, some (set, way) => hardFail g h i set way m
        | _, _ => m) s

/-! ## Remap (R459) -/

/-- The code words of a frame in its own row, and in a spare row. -/
def ownRow (c : RemapCopy) (k : Nat) : Nat := (c.set.toNat * Config.ways + c.way.toNat) * 8 + k
def spareRow (c : RemapCopy) (k : Nat) : Nat := Config.sets * Config.ways * 8 + 8 * c.entry + k

/-- Copy code word k: corrected words corrected; one that fails as it is read, with its outcome. -/
def copyWord (g : Regs) (h : Half) (c : RemapCopy) (k : Nat) (m : Mach) : Mach :=
  let (src, dst) := if c.clear then (spareRow c k, ownRow c k) else (ownRow c k, spareRow c k)
  let mask := errMask m .frames h src
  let (bad, m) := peekWord g h .frames src m
  let m := noteWrite g .frames h dst m
  let m := setErr .frames h dst (errMask m .frames h dst ^^^ (if bad then mask else eccEncode (leftOf mask))) m
  if bad then failFrameWord g h c.set.toNat c.way.toNat k m else m

/-- The table with the new entry, or without the released one, is swapped in. A pass counts the remaps of the frames that it found (R462). -/
def remapSwap (h : Half) (c : RemapCopy) (m : Mach) : Mach :=
  modHalf h (fun hs => { hs with
    rcopy := none
    remap := tabSet ⟨false, false, 0, 0⟩ hs.remap c.entry (if c.clear then ⟨false, false, 0, 0⟩ else ⟨true, c.auto, c.way, c.set⟩)
    qn := if c.pass then { hs.qn with rmap := hs.qn.rmap + 1 } else hs.qn }) m

/-- REMAP_COPY (R459): one code word, and after the eighth the swap. -/
def execRemapCopy (h : Half) (s : State) : Host.Outcome State Fault Refusal :=
  run (fun g m =>
    match (halfAt m h).rcopy with
    | none => m
    | some c =>
      if !clocked m h then m
      else if c.word < 8 then copyWord g h c c.word (modHalf h (fun hs => { hs with rcopy := some { c with word := c.word + 1 } }) m)
      else remapSwap h c m) s

/-! ## The Quench pass (R461, R462) -/

/-- A code word as the pass visits it: array, number, and what QNn_FUE shows of it: ARRAY, WAY, SET or index. -/
structure Visit where
  arr : Arr
  idx : Option Nat
  fa  : BitVec 3
  way : Nat
  set : Nat

/-- Words of a set, and the visit of one of them. -/
def quenchSetSize (arrays : BitVec 6) (set : Nat) : Nat :=
  (if bitAt arrays 0 then 192 else 0) + (if bitAt arrays 1 then 12 else 0) + (if bitAt arrays 2 && set % 2 == 0 then 16 else 0)

def quenchSetVisit (hs : HalfSt) (arrays : BitVec 6) (set n : Nat) : Visit :=
  let f := if bitAt arrays 0 then 192 else 0
  let t := if bitAt arrays 1 then 12 else 0
  if n < f then
    let way := n / 8
    let base := match remapOf hs set way with
      | some e => Config.sets * Config.ways * 8 + 8 * e
      | none => (set * Config.ways + way) * 8
    ⟨.frames, some (base + n % 8), 0, way, set⟩
  else if n < f + t then ⟨.tags, some (12 * set + (n - f)), 1, 2 * (n - f), set⟩
  else ⟨.dir, some (Config.dirWays * (set / 2) + (n - f - t)), 2, n - f - t, set⟩

/-- After the last set: 576 words of the victim buffer, 16,384 of the Crucible, 1,280 of the stores and pools, by number. -/
def quenchTailSize (arrays : BitVec 6) : Nat :=
  (if bitAt arrays 3 then 576 else 0) + (if bitAt arrays 4 then 16384 else 0) + (if bitAt arrays 5 then 1280 else 0)

/-- The next Crucible word to visit, from a number on: one in use, or one that an error was stored in. The others hold no error. -/
def crucibleNext (m : Mach) (h : Half) (n : Nat) : Option Nat :=
  let ks := crucibleUsed m h ++ (m.ras.errs.filter fun e => e.arr == .crucible && e.half == h).map (·.idx)
  (ks.filter fun k => decide (n ≤ k)).foldl (fun a k => match a with | none => some k | some x => some (min x k)) none

def quenchTailVisit (m : Mach) (h : Half) (arrays : BitVec 6) (n : Nat) : Visit :=
  let v := if bitAt arrays 3 then 576 else 0
  let c := if bitAt arrays 4 then 16384 else 0
  if n < v then ⟨.victim, some n, 3, 0, n⟩
  else if n < v + c then ⟨.crucible, crucibleNext m h (halfAt m h).qn.cru, 4, 0, n - v⟩
  else ⟨.progs, some (n - v - c), 5, 0, n - v - c⟩

/-- Where the steps after the last set begin. -/
def quenchTail : Nat := 256

/-- The next code word of a pass, none when it is over. Sets without a word of the named arrays are passed. -/
def quenchNext (fuel : Nat) (g : Regs) (m : Mach) (h : Half) (set : Nat) (step : Nat) : Option (Nat × Nat × Visit) :=
  match fuel with
  | 0 => none
  | n + 1 =>
    let arrays := g.qnArrays[h]
    if step ≥ quenchTail then
      if step - quenchTail < quenchTailSize arrays then some (set, step, quenchTailVisit m h arrays (step - quenchTail)) else none
    else if step < quenchSetSize arrays set then some (set, step, quenchSetVisit (halfAt m h) arrays set step)
    else if set < (g.qnLast[h]).toNat then quenchNext n g m h (set + 1) 0
    else quenchNext n g m h set quenchTail

/-- A pass ends. -/
def endQuench (h : Half) (result : BitVec 2) (m : Mach) : Mach :=
  modHalf h (fun hs => { hs with qn := { hs.qn with busy := false, dn := true, result := result } }) m

/-- A count that stays at its largest value. -/
def satInc (x : BitVec 16) : BitVec 16 := if x == 0xFFFF then x else x + 1

/-- Count a visit, and note a correctable word whose frame the pass may remap (R462). -/
def quenchCount (v : Visit) (kind : Nat) (q : Quench) : Quench :=
  { q with
    words := q.words + 1
    cru := if v.arr == .crucible then (match v.idx with | some i => i + 1 | none => q.cru) else q.cru
    found := match v.idx with | some i => if kind == 1 then q.found ++ [(v.arr, i)] else q.found | none => q.found
    ce := if kind == 1 then satInc q.ce else q.ce
    ue := if kind == 2 then satInc q.ue else q.ue
    fueV := q.fueV || kind == 2
    fueArr := if kind == 2 && !q.fueV then v.fa else q.fueArr
    fueWay := if kind == 2 && !q.fueV then BitVec.ofNat 5 v.way else q.fueWay
    fueSet := if kind == 2 && !q.fueV then BitVec.ofNat 13 v.set else q.fueSet }

/-- One code word of a pass. -/
def quenchStep (g : Regs) (h : Half) (m : Mach) : Mach :=
  let q := (halfAt m h).qn
  match quenchNext 8200 g m h q.set.toNat q.step with
  | none => endQuench h 0 m
  | some (set, step, v) =>
    let kind := match v.idx with | some i => scanKind m v.arr h i | none => 0
    let m := modHalf h (fun hs => { hs with
      qn := quenchCount v kind { hs.qn with set := BitVec.ofNat 13 set, step := step + 1 } }) m
    let m := match v.idx with | some i => scanWord g h v.arr i m | none => m
    if (quenchNext 8200 g m h set (step + 1)).isNone then endQuench h 0 m else m

/-- QUENCH_READ (R461). A global stop pauses the pass (R535). -/
def execQuenchRead (h : Half) (s : State) : Host.Outcome State Fault Refusal :=
  run (fun g m => if (halfAt m h).qn.busy && clocked m h && !m.dbg.stopped then quenchStep g h m else m) s

/-- GO starts a pass, and one without a set completes at once (R463). -/
def startQuench (g : Regs) (h : Half) (m : Mach) : Mach :=
  let m := modHalf h (fun hs => { hs with
    qn := { Quench.idle with busy := true, set := g.qnFirst[h] }, rcopy := hs.rcopy.map fun c => { c with pass := false } }) m
  if (g.qnLast[h]).toNat < (g.qnFirst[h]).toNat then endQuench h 0 m else m

end Sys2Proof.Machine
end

