-- ==== Sys2Proof/Machine/Power.lean ====
section
/-!
DEFINITION. Power states of the halves (R474 to R481), quiet halves (R477, R535), and the resets (R482).
-/

namespace Sys2Proof.Machine

/-! ## Quiet (R477) -/

/-- Nothing of a port is outstanding but parked WAITs. -/
def portQuiet (m : Mach) (p : PortIx) : Bool :=
  let x := portAt m p
  x.in0.isEmpty && x.in1.isEmpty && x.wdIn.isEmpty && x.snp.isEmpty && x.snoops.isEmpty && x.deferred.isEmpty
    && x.txns.all fun t => m.parked.any fun r => r.id == t.req.id

/-- No memory command waits or is outstanding. -/
def chanQuiet (ch : MemChan) : Bool :=
  ch.readQ.isEmpty && ch.writeQ.isEmpty && ch.atomQ.isEmpty && ch.readO.isEmpty && ch.writeO.isEmpty && ch.atomO.isEmpty

/-- Trackers and buffers of the half are empty. -/
def buffersQuiet (hs : HalfSt) : Bool :=
  hs.miss.isEmpty && hs.missWait.isEmpty && hs.refetch.isEmpty && hs.pageWait.isEmpty && hs.merge.isEmpty && hs.conf.isEmpty && hs.opWait.isEmpty && hs.moves.isEmpty
    && hs.prefQ.isEmpty && hs.wins.isEmpty && hs.gwrites.isEmpty && hs.gaborts.isEmpty
    && hs.vb.all fun e => e.unsent == 0 && e.sent == 0 && e.waiters.isEmpty

/-- The Anvil and the sequencers of the half are idle. -/
def anvilQuiet (m : Mach) (h : Half) : Bool :=
  let a := anvAt m h
  a.q[0].isEmpty && a.q[1].isEmpty && a.mac.isNone && a.tree.isEmpty && a.drn.isNone

def seqsQuiet (m : Mach) (h : Half) : Bool :=
  (seqAt m h 0).run.isNone && (seqAt m h 1).run.isNone && (halfAt m h).iq.isEmpty

/-- Nothing on the half's peer channel, and for Half 0 on the remote port, is outstanding. -/
def linksQuiet (m : Mach) (h : Half) : Bool :=
  (linkAt m (peerLink h)).sendQ.isEmpty && m.coh.fwdOut.all (fun x => x.ch != h) && m.coh.snpfOut.all (fun x => x.ch != h && x.home != h)
    && (h == 1 || ((linkAt m 2).sendQ.isEmpty && m.coh.remOut.isEmpty && m.coh.remWait.isEmpty && m.reports.isEmpty))

/-- No engine of the half runs. -/
def enginesQuiet (m : Mach) (h : Half) : Bool :=
  let hs := halfAt m h
  !hs.sweep.run && !m.re.busy && !hs.qn.busy && hs.rcopy.isNone && !hs.walk.run && m.img.load.isNone

/-- A half is quiet (R477). -/
def quiet (m : Mach) (h : Half) : Bool :=
  (allPorts.all fun p => portHalf p != h || portQuiet m p) && chanQuiet (chanAt m h) && buffersQuiet (halfAt m h) && anvilQuiet m h
    && seqsQuiet m h && linksQuiet m h && enginesQuiet m h

/-- A request that QUIET does not wait for: a WAIT that is parked, here or at another slice, or an INVOKE, whose program is stopped. -/
def stopsWith (m : Mach) (r : Req) : Bool :=
  r.op == .invoke || (m.parked.any fun x => x.id == r.id) || (r.op == .wait && m.coh.fwdOut.any fun x => x.req.id == r.id)

/-- QUIET under the global stop (R535): what was parsed before has run to its end, apart from parked WAITs and stopped programs. The Bellows
issues nothing, and what waits of it is no request that was parsed. -/
def stopQuiet (m : Mach) : Bool :=
  let sent := { m with coh := { m.coh with fwdOut := m.coh.fwdOut.filter fun x => x.req.op != .wait && x.req.op != .invoke } }
  let held := fun (hs : HalfSt) => { hs with prefQ := [], opWait := hs.opWait.filter fun r => r.op != .invoke }
  m.dbg.stopped
    && allPorts.all (fun p => (portAt m p).txns.all (fun t => t.phase == .held || stopsWith m t.req)
      && (portAt m p).snoops.isEmpty && (portAt m p).deferred.isEmpty)
    && bothHalves.all (fun h => chanQuiet (chanAt m h) && buffersQuiet (held (halfAt m h)) && linksQuiet sent h
        && (anvAt m h).mac.isNone && (anvAt m h).tree.isEmpty && (anvAt m h).drn.isNone
        && [(0 : Half), 1].all fun k => (seqAt m h k).txns.all fun t => stopsWith m t.req)
    && m.dbg.jobs.isEmpty

/-! ## Stopping and starting (R477 to R481) -/

def modPw (h : Half) (f : Power → Power) (m : Mach) : Mach := modHalf h (fun hs => { hs with pw := f hs.pw }) m

/-- A half in STOP, its rail on and its clocks off. -/
def inStop (x : Power) : Bool := x.preq == 3 && x.pack && !x.ckreq && !x.awake && !x.tail

/-- A power event of the always-on domain. -/
def powerEvent (h : Half) (when_ : Regs → Mach → Bool) (f : Power → Power) (s : State) : Host.Outcome State Fault Refusal :=
  run (fun g m => if when_ g m then modPw h f m else m) s

/-- The start has completed step 12: power management works (Table 15.5). A start that fails leaves the halves as they are (R484). -/
def managed (m : Mach) : Bool := m.jrn.ready && !m.jrn.run

/-- STOP_IDLE_EXPIRY (R477): a quiet half lets AWAKEn fall. No half stops while HOLDCLK is 1 (R480) or before step 12 has ended (R483). -/
def execStopIdleExpiry (h : Half) (s : State) : Host.Outcome State Fault Refusal :=
  powerEvent h (fun g m => !g.holdclk && managed m && (halfAt m h).pw.awake && quiet m h) (fun x => { x with awake := false, tail := true }) s

/-- STOP_TAIL_EXPIRY (R477): no beat came in the tail, and CKREQn falls. -/
def execStopTailExpiry (h : Half) (s : State) : Host.Outcome State Fault Refusal :=
  powerEvent h (fun _ m => (halfAt m h).pw.tail) (fun x => { x with tail := false, ckreq := false, ckack := false }) s

/-- RET_ENTRY (R479): PREQn moves to retention level. -/
def execRetEntry (h : Half) (s : State) : Host.Outcome State Fault Refusal :=
  powerEvent h (fun g m => g.reten && managed m && inStop (halfAt m h).pw && !(halfAt m h).pw.demand) (fun x => { x with preq := 1, pack := false }) s

/-- What a demand does on the tick that samples it (R478, R479, R481): clocks from STOP, the rail from RET; a half on its way to RET waits
for PACKn. -/
def demandTick (x : Power) : Power :=
  if inStop x then { x with ckreq := true, demand := false }
  else if x.preq == 1 then (if x.pack then { x with preq := 3, pack := false, demand := false } else x)
  else { x with demand := false }

/-- DEMAND_SAMPLE (R478): until step 12 has ended the journal alone starts the clocks (R483, R484). -/
def execDemandSample (h : Half) (s : State) : Host.Outcome State Fault Refusal :=
  powerEvent h (fun _ m => (halfAt m h).pw.demand && managed m) demandTick s

/-- PACK_RISE (R475, R479): the rail has reached its level. At retention level the half is in RET; a wake raises CKREQn, the journal's
POWER step leaves that to its CLOCKS step, and after a failed start nothing does (R484). -/
def execPackRise (h : Half) (s : State) : Host.Outcome State Fault Refusal :=
  run (fun _ m =>
    let wake := managed m
    modPw h (fun x =>
      if x.pack || x.preq == 0 then x
      else if x.preq == 1 then { x with pack := true, inRet := true }
      else { x with pack := true, pto := false, ckreq := x.ckreq || wake }) m) s

/-- CKACK_RISE (R117, R478), in a start or once one has completed (R484). -/
def execCkackRise (h : Half) (s : State) : Host.Outcome State Fault Refusal :=
  powerEvent h (fun _ m => (m.jrn.run || m.jrn.ready) && (halfAt m h).pw.ckreq && !(halfAt m h).pw.ckack) (fun x => { x with ckack := true, ramp := true }) s

/-- PACK_TIMEOUT (R481). -/
def execPackTimeout (h : Half) (s : State) : Host.Outcome State Fault Refusal :=
  powerEvent h (fun _ m => (halfAt m h).pw.preq == 3 && !(halfAt m h).pw.pack) (fun x => { x with pto := true }) s

/-- STATEn of PWR_STAT (R490). -/
def powerState (x : Power) : BitVec 2 :=
  if x.preq == 0 then 0 else if x.awake || x.tail then 3 else if x.inRet then 1 else 2

/-! ## Resets (R482) -/

/-- The registers after block reset: those of the power and journal registers stay (R482, R489), the others take their Reset column
(R10; log 38). -/
def blockRegs (g : Regs) : Regs :=
  { Regs.reset with
    holdclk := g.holdclk, reten := g.reten, iePto := g.iePto, retidle := g.retidle, stopidle := g.stopidle
    jrnIe := g.jrnIe, jrnSteps := g.jrnSteps }

/-- What moves by itself, after block reset. TS, SYNCS and GLB_GUARD stay (R519, R520, R554), and the accesses that the management port has
taken (log 38). The link inputs are pins; the output trace and the model's counters go on. -/
def blockMach (m : Mach) : Mach :=
  { Mach.reset with
    nextId := m.nextId, freeCtr := m.freeCtr, out := m.out
    links := Vector.ofFn fun (k : Fin 3) => { Link.reset with up := (linkAt m k).up }
    jrn := { m.jrn with run := false }
    dbg := { Dbg.reset with ts := m.dbg.ts, latch := m.dbg.latch, syncs := m.dbg.syncs, tick := m.dbg.tick, lastP := m.dbg.lastP }
    mg := { Mgmt.reset with q := m.mg.q, guard := m.mg.guard, fails := m.mg.fails, last := m.mg.last } }

/-- BLOCK_RESET: BLKRST_N is asserted (R482). -/
def execBlockReset (s : State) : Host.Outcome State Fault Refusal :=
  .next { s with regs := blockRegs s.regs, m := blockMach s.m }

/-- POWER_ON_RESET: PORST_N clears everything, the always-on domain and the journal included. -/
def execPowerOnReset (s : State) : Host.Outcome State Fault Refusal :=
  .next { s with
    regs := Regs.reset
    m := { Mach.reset with
      nextId := s.m.nextId, freeCtr := s.m.freeCtr, out := s.m.out
      links := Vector.ofFn fun (k : Fin 3) => { Link.reset with up := (linkAt s.m k).up } } }

/-- PORT_RESET (R118, R482): the agent departs; the port forgets credits, transactions and hello state; at release the hello starts
again on an enabled port. A forwarded request of a transaction that is forgotten stays outstanding at its home: its CMPL is taken by the
first outstanding request of its SPORT and TXN (DESIGN CHOICE, log 111). -/
def execPortReset (p : PortIx) (s : State) : Host.Outcome State Fault Refusal :=
  run (fun g m =>
    let m := if isJoined (portAt m p).hello then departAgent g false p m else m
    let m := modPort p (fun x => { Port.reset with former := x.idx.or x.former }) m
    if g.rpEn[p] && clocked m (portHalf p) then startHello (.port p) m else m) s

end Sys2Proof.Machine
end

