-- ==== Sys2Proof/Machine/Range.lean ====
section
/-!
DEFINITION. The range engine (R176 to R183, R192) and the sweep of a change of way use (R165).
-/

namespace Sys2Proof.Machine

/-! ## The range engine -/

/-- First granule of the range. -/
def rangeBase (g : Regs) : Nat := g.reAddrH.toNat * 2 ^ 32 + g.reAddrL.toNat

/-- Lines of the range; no granule lies beyond the address space (log 31). -/
def rangeLen (g : Regs) : Nat := 4 * min g.reLen.toNat (2 ^ 42 - rangeBase g)

/-- Line `i` of the range. -/
def rangeLine (g : Regs) (i : Nat) : LineAddr := BitVec.ofNat 44 (4 * rangeBase g + i)

/-- A half of this slice homes the line. -/
def homesLine (m : Mach) (h : Half) (l : LineAddr) : Bool :=
  homeSlice m h (lineBase l) == ownSlice m && homeHalf m (lineBase l) == h

/-- The next line from `i` on that a half homes. -/
def nextHomed (fuel : Nat) (g : Regs) (m : Mach) (h : Half) (i : Nat) : Option Nat :=
  match fuel with
  | 0 => none
  | n + 1 => if homesLine m h (rangeLine g i) then some i else nextHomed n g m h (i + 1)

/-- The next line that a half visits. -/
def rangeNext (g : Regs) (m : Mach) (h : Half) : Option Nat :=
  let i := (halfAt m h).reNext
  nextHomed (rangeLen g - i) g m h i

/-- The request's operation of an OP of RE_CTL (Table 5.5). -/
def rangeOp (op : BitVec 3) : Op :=
  match op.toNat with
  | 0 => .cln | 1 => .inv | 2 => .clnInv | 3 => .zero | 4 => .pin | _ => .unpin

/-- Table 5.6. -/
def rangeSkips (g : Regs) (m : Mach) (h : Half) (o : Op) (l : LineAddr) : Bool :=
  inReservation m (lineBase l)
    || ((o == .cln || o == .pin) && lineLost (halfAt m h) l)
    || ((o == .zero || o == .pin) && inGroup (halfAt m h) l)
    || ((o == .pin || o == .unpin) && (regionOf g (lineBase l)).isNone)
    || (o == .unpin && !isPinned g m h l)

/-- The request of a visited line: no instance, no label. -/
def rangeReq (id : Nat) (h : Half) (o : Op) (l : LineAddr) : Req :=
  ⟨id, .range h, o, false, 0, lineBase l, 8, 0, 0, 0, 0, 0, 0, 0, 0, 0, 0, none, none, false, false, none, none, false, false, false⟩

/-- PIN does not start while a sweep runs in either half (R180). -/
def pinWaits (m : Mach) : Bool :=
  m.re.op == 4 && m.re.lines == 0 && m.re.skip == 0 && m.re.out.isEmpty && bothHalves.any fun h => (halfAt m h).sweep.run

/-- Visit the next homed line of a half. -/
def rangeVisit (g : Regs) (h : Half) (m : Mach) : Mach :=
  match rangeNext g m h with
  | none => m
  | some i =>
    if !clocked m h then raiseDemand h m
    else
      let l := rangeLine g i
      let o := rangeOp m.re.op
      let m := modHalf h (fun hs => { hs with reNext := i + 1 }) m
      if rangeSkips g m h o l then { m with re := { m.re with skip := m.re.skip + 1 } }
      else
        let (id, m) := newId m
        orderAt g h (rangeReq id h o l) { m with re := { m.re with out := m.re.out ++ [id] } }

/-- RE_LINE_VISIT (R177). A global stop pauses the engine (R535). -/
def execReLineVisit (h : Half) (s : State) : Host.Outcome State Fault Refusal :=
  run (fun g m => if !m.re.busy || m.re.stop || m.dbg.stopped || pinWaits m then m else rangeVisit g h m) s

/-- A WRITE of the line waits or is outstanding, or waits in the victim buffer (R151). -/
def writeDue (m : Mach) (h : Half) (l : LineAddr) : Bool :=
  writePending m h l || (halfAt m h).vb.any fun e => e.set == setIx l && frameHas e.frame l && e.unsent &&& lineBit l != 0

/-- Nothing of the operation remains: its lines are visited or it has stopped, their requests have ended, and the WRITEs it caused
have their responses. -/
def rangeOver (g : Regs) (m : Mach) : Bool :=
  m.re.out.isEmpty && m.re.writes.all (fun x => !writeDue m x.1 x.2)
    && (m.re.stop || (!pinWaits m && bothHalves.all fun h => (rangeNext g m h).isNone))

/-- The operation completes: BUSY falls and DONE rises (R183). -/
def rangeEnd (m : Mach) : Mach := { m with re := { m.re with busy := false, dn := true, writes := [] } }

/-- RE_COMPLETE (R177). -/
def execReComplete (s : State) : Host.Outcome State Fault Refusal :=
  run (fun g m => if m.re.busy && !m.dbg.stopped && rangeOver g m then rangeEnd m else m) s

/-- GO (R176, R192): ignored while an operation runs; an empty range completes at once. -/
def rangeStart (g : Regs) (op : BitVec 3) (m : Mach) : Mach :=
  if m.re.busy then m
  else
    let m := { m with re := { m.re with
      busy := true, dn := false, result := 0, op := op, stop := false, lines := 0, skip := 0, failV := false, out := [], writes := [] } }
    let m := bothHalves.foldl (fun m h => modHalf h (fun hs => { hs with reNext := 0 }) m) m
    if g.reLen == 0 then rangeEnd m else m

/-! ## The sweep (R164, R165) -/

/-- The first way from `w` on of a mask. -/
def wayFrom (ways : BitVec 24) (w : Nat) : Option Nat := (List.range Config.ways).find? fun v => decide (w ≤ v) && ways.getLsbD v

/-- The sweep goes on behind a frame. -/
def sweepAdvance (x : Sweep) (w : Nat) : Sweep :=
  match wayFrom x.ways (w + 1) with
  | some v => { x with way := v }
  | none => if x.set + 1 < Config.sets then { x with set := x.set + 1, way := 0 } else ⟨false, 0, 0, 0⟩

/-- The new use of the way evicts the frame: it is neither cache, nor Hearth with a pinned line in it. -/
def sweepEvicts (g : Regs) (h : Half) (w : Nat) (f : Frame) : Bool :=
  !isFree f && (wayUse g h w == 2 || (wayUse g h w == 1 && !f.pinned))

/-- One frame passes, its tag being read (R165, R439). One whose merge-buffer entries still drain waits, and one that the victim buffer has no room for. -/
def sweepFrame (g : Regs) (h : Half) (m : Mach) : Mach :=
  let x := (halfAt m h).sweep
  match wayFrom x.ways x.way with
  | none => modHalf h (fun hs => { hs with sweep := ⟨false, 0, 0, 0⟩ }) m
  | some w =>
    let set := BitVec.ofNat 13 x.set
    let go := fun (m : Mach) => modHalf h (fun hs => { hs with sweep := sweepAdvance x w }) m
    let m := readTag g h set (w / 2) m
    if sweepEvicts g h w (frameAt (halfAt m h) set w) then
      let m := emptyFrame g h set w m
      let m := if frameBusy (halfAt m h) set w || isFree (frameAt (halfAt m h) set w) then m else evictFrame g h set w m
      if isFree (frameAt (halfAt m h) set w) then go m else m
    else go m

/-- SWEEP_FRAME (R165). -/
def execSweepFrame (h : Half) (s : State) : Host.Outcome State Fault Refusal :=
  run (fun g m => if clocked m h && (halfAt m h).sweep.run then sweepFrame g h m else m) s

/-- A sweep starts, or starts again over the union of the changed ways (R165). One over no way is over at once. -/
def startSweep (h : Half) (ways : BitVec 24) (m : Mach) : Mach :=
  if ways == 0 && !(halfAt m h).sweep.run then m
  else modHalf h (fun hs =>
    { hs with sweep := ⟨true, 0, 0, ways ||| (if hs.sweep.run then hs.sweep.ways else 0)⟩ }) m

/-- Table 5.3 at the moment of the change: the lines of a Hearth way that becomes cache are ordinary lines with AGE 3, those of one that
becomes reservation are no longer pinned. The new uses are in `g`, the old ones in `oldUse`. -/
def unpinWays (g : Regs) (h : Half) (oldUse : Nat → Nat) (ways : BitVec 24) (m : Mach) : Mach :=
  retag g h (fun k f =>
    let w := k % Config.ways
    if ways.getLsbD w then { f with pinned := false, age := if oldUse w == 1 && wayUse g h w == 0 then 3 else f.age } else f) m

end Sys2Proof.Machine
end

