-- ==== Sys2Proof/Machine/RegRead.lean ====
section
/-!
DEFINITION. What every register of Table 18.12 reads (R563), by chapter; the domains of Table 18.1; the interrupt outputs (R120). Reserved
bits, reserved locations and paired addresses read zero (R11, R550).
-/

namespace Sys2Proof.Machine

/-- A count as a field of `w` bits at bit `i`. -/
def countAt (w n i : Nat) : BitVec 32 := fieldAt (BitVec.ofNat w n) i

/-- A flag at bit `i`. -/
def bit32 (b : Bool) (i : Nat) : BitVec 32 := flagAt 32 b i

/-- One bit per index below n. -/
def bitMap (n : Nat) (f : Nat → Bool) : BitVec 32 :=
  (List.range n).foldl (fun (a : BitVec 32) i => if f i then a ||| (1#32 <<< i) else a) 0

/-- A half by number, for offsets that carry one. -/
def halfIx (n : Nat) : Half := if n == 0 then 0 else 1

/-! ## Domains (Table 18.1) -/

/-- The halves whose clocks an access to an offset needs; none for the always-on domain. A register that describes half n alone lives
in half n; RAS_CTL, RAS_STAT and PF_CTL hold fields of both (R545). -/
def regHalves (off : Nat) : List Half :=
  let within := fun (lo hi : Nat) => decide (lo ≤ off) && decide (off ≤ hi)
  if off ≤ 0x008 then []
  else if within 0x2000 0x2FFF then [1]
  else if off == 0x3014 || off == 0x301C then [1]
  else if within 0x5100 0x51FF then [1]
  else if off == 0x6000 || off == 0x6008 || off == 0x93F0 then [0, 1]
  else if off == 0x6014 || off == 0x601C || within 0x6140 0x617F || within 0x6188 0x618F || within 0x6240 0x627F then [1]
  else if within 0x7000 0x70FF || within 0x9010 0x9020 then []
  else if within 0x9140 0x917F || within 0x9188 0x918F || off == 0x9194 || within 0x9220 0x923F || within 0x9600 0x97FF then [1]
  else if off < 0xB000 then [0]
  else []

/-- Every location whose domain is Half 1 reads zero and ignores writes under FRUGAL, and starts no half (R547). -/
def deadRegister (m : Mach) (off : Nat) : Bool := frugal m && regHalves off == [1]

/-- The fields of Half 1 in a register that both halves share: FORCE1; SAFE1, SCAUSE1, SWORD1 and RMUSE1; EN1 and CLR1 (R545). -/
def half1Bits (off : Nat) : BitVec 32 :=
  if off == 0x6000 then 0x80 else if off == 0x6008 then 0xBC3F03E0 else if off == 0x93F0 then 0xA else 0

/-- The bits of a register that are there: under FRUGAL none of Half 1's (R547). -/
def liveBits (m : Mach) (off : Nat) : BitVec 32 := if frugal m then ~~~half1Bits off else BitVec.allOnes 32

/-- The halves to clock for an access. -/
def neededHalves (m : Mach) (off : Nat) : List Half := (regHalves off).filter fun h => !(frugal m && h == 1)

/-! ## Identity and global -/

/-- The compression controls that a profile sets (R31, R158). -/
def profileCmode (p : BitVec 2) : BitVec 2 := if p == 1 then 0 else if p == 2 then 1 else 2

/-- OVR of GLB_PROFILE. A half without power is not compared (R158); before a load it reads 0, as its Reset column says (R10, log 110). -/
def overridden (g : Regs) (m : Mach) : Bool :=
  let en := g.profile != 1
  let off := fun (h : Half) =>
    let c := g.hc[h]
    c.cmode != profileCmode g.profile || c.bexp != en || c.delta != en || c.rep != en || c.zero != en
  m.img.loaded && (off 0 || (!frugal m && off 1) || g.holdclk != (g.profile == 1) || g.detEn != (g.profile == 2))

/-- GLB_TOPO: DIE and POS are the straps (R18). -/
def topoWord (m : Mach) : BitVec 32 :=
  (word m 0 16 &&& 0xF80F0700) ||| fieldAt m.jrn.die 5 ||| fieldAt m.jrn.pos 0

def glbRead (g : Regs) (m : Mach) (off : Nat) : BitVec 32 :=
  if off == 0x000 then 0x53590301
  else if off == 0x004 then countAt 3 2 24 ||| countAt 8 Config.ways 16 ||| countAt 8 64 8 ||| countAt 5 16 0
  else if off == 0x008 then fieldAt m.mg.fails 24 ||| fieldAt m.mg.last 0
  else if off == 0x010 then bit32 (overridden g m) 4 ||| fieldAt g.profile 0
  else if off == 0x018 then topoWord m
  else if off == 0x020 then bit32 g.detEn 0
  else if off == 0x028 then m.detRefn
  else if 0x100 ≤ off && off < 0x140 then word m 0 ((off - 0x100) / 4)
  else 0

/-! ## Cache control -/

/-- Frames of a half that hold pinned lines. -/
def pinnedFrames (hs : HalfSt) : Nat := (hs.frames.filter fun x => x.2.pinned).length

/-- Ways with a use. -/
def usedAs (g : Regs) (h : Half) (u : Nat) : Nat := ((List.range Config.ways).filter fun w => wayUse g h w == u).length

/-- CACHEW, HEARTHW or RESVW: zero before a load (R10, log 110). -/
def waysUsed (g : Regs) (m : Mach) (h : Half) (u : Nat) : Nat := if m.img.loaded then usedAs g h u else 0

/-- Lines of a region pinned in this slice. -/
def regionLines (g : Regs) (m : Mach) (k : Fin 16) : Nat :=
  bothHalves.foldl (fun n h =>
    (halfAt m h).frames.foldl (fun n x =>
      if !x.2.pinned then n
      else n + (fourLines.filter fun i => x.2.lines[i].pres
        && regionOf g (lineBase (lineAt (BitVec.ofNat 13 (x.1 / Config.ways)) x.2.tag i.val)) == some k).length) n) 0

/-- Stored nodes and finished sectors of a group. -/
def groupNodes (gr : Group) : Nat := gr.sectors.foldl (fun n s => n + s.2.nodes.length) 0
def groupDone (gr : Group) : Nat := (gr.sectors.filter fun s => s.2.done).length

/-- The registers of half h at 0x1100 to 0x131C of its range. -/
def hcRead (g : Regs) (m : Mach) (h : Half) (off : Nat) : BitVec 32 :=
  let c := g.hc[h]
  let hs := halfAt m h
  let sel := openGroup hs c.grpSel
  if off == 0x100 then fieldAt c.cmode 8 ||| bit32 c.bexp 3 ||| bit32 c.delta 2 ||| bit32 c.rep 1 ||| bit32 c.zero 0
  else if off == 0x104 then fieldAt c.pfage 4 ||| fieldAt c.nage 0
  else if off == 0x108 then fieldAt c.depth 4 ||| bit32 c.blwEn 0
  else if off == 0x10C then countAt 5 hs.merge.length 27 ||| countAt 7 (hs.vb.filter fun e => e.unsent != 0 || e.sent != 0).length 20
    ||| countAt 7 hs.vb.length 13 ||| countAt 10 (missCount hs) 0
  else if off == 0x200 then bit32 c.cen 0
  else if off == 0x210 then c.wuse.extractLsb' 0 32
  else if off == 0x218 then fieldAt (c.wuse.extractLsb' 32 16) 0
  else if 0x240 ≤ off && off < 0x280 then fieldAt (c.amask.toList.getD ((off - 0x240) / 4) 0) 0
  else if off == 0x280 then fieldAt c.pmask 0
  else if off == 0x284 then fieldAt c.xmask 0
  else if off == 0x290 then bit32 hs.sweep.run 31 ||| countAt 5 (waysUsed g m h 0) 26 ||| countAt 5 (waysUsed g m h 1) 21 ||| countAt 5 (waysUsed g m h 2) 16
  else if off == 0x294 then countAt 18 (pinnedFrames hs) 0
  else if off == 0x298 then countAt 18 (framesHeld hs) 0
  else if off == 0x300 then bitMap 32 fun i => (openGroup hs (BitVec.ofNat 6 i)).isSome
  else if off == 0x304 then bitMap 32 fun i => (openGroup hs (BitVec.ofNat 6 (32 + i))).isSome
  else if off == 0x308 then fieldAt c.grpSel 0
  else if off == 0x30C then (match sel with
    | some gr => fieldAt gr.op 29 ||| fieldAt gr.fmt 25 ||| fieldAt gr.nm1 17 ||| fieldAt gr.lm1 9 ||| bit32 true 8 ||| fieldAt gr.inst 0
    | none => 0)
  else if off == 0x310 then (match sel with | some gr => countAt 11 (groupDone gr) 18 ||| countAt 18 (groupNodes gr) 0 | none => 0)
  else if off == 0x31C then hs.wout
  else 0

/-- RE_FAILL and RE_FAILH and the rest of the range engine. -/
def reRead (g : Regs) (m : Mach) (off : Nat) : BitVec 32 :=
  let e := m.re
  if off == 0x1600 then g.reAddrL
  else if off == 0x1604 then fieldAt g.reAddrH 0
  else if off == 0x1608 then g.reLen
  else if off == 0x160C then bit32 g.reIe 7 ||| fieldAt g.reOp 0
  else if off == 0x1614 then bit32 e.busy 31 ||| bit32 e.dn 30 ||| fieldAt e.result 28
  else if off == 0x1618 then e.lines
  else if off == 0x161C then e.skip
  else if off == 0x1620 then e.fail.extractLsb' 0 32
  else if off == 0x1624 then bit32 e.failV 31 ||| fieldAt (e.fail.extractLsb' 32 12) 0
  else 0

/-- The slice-wide registers of the Half 0 cache range. -/
def hearthRead (g : Regs) (m : Mach) (off : Nat) : BitVec 32 :=
  if 0x1400 ≤ off && off < 0x1500 then
    let r := g.hr.toList.getD ((off - 0x1400) / 16) ⟨0, 0, false, 0, 0⟩
    let o := off % 16
    if o == 0 then r.base
    else if o == 4 then fieldAt r.size 0
    else if o == 8 then bit32 r.en 31 ||| fieldAt r.inst 24 ||| fieldAt (r.ways &&& 0xFFFFF0) 0
    else 0
  else if 0x1500 ≤ off && off < 0x1540 then countAt 20 (regionLines g m ⟨(off - 0x1500) / 4 % 16, Nat.mod_lt _ (by decide)⟩) 0
  else if off == 0x1580 then word m 0 21
  else if off == 0x1584 then word m 0 22
  else reRead g m off

/-! ## Coherence and counters -/

/-- IDX_INSTk (R565). -/
def idxWord (g : Regs) (k : Nat) : BitVec 32 :=
  (List.range 4).foldl (fun (a : BitVec 32) j =>
    let o := g.idxInst.toList.getD (4 * k + j) ⟨false, 0⟩
    a ||| bit32 o.v (8 * j + 7) ||| fieldAt o.inst (8 * j)) 0

/-- The binding entry that ARB_SEL names. -/
def selBinding (g : Regs) : Binding := tabGet Binding.off g.arb g.arbSel.toNat

def cohRead (g : Regs) (m : Mach) (off : Nat) : BitVec 32 :=
  let b := selBinding g
  if off == 0x3000 then fieldAt g.cohHold 0
  else if off == 0x3004 then fieldAt g.predMode 0
  else if off == 0x3010 || off == 0x3014 then
    let hs := halfAt m (halfIx (off - 0x3010))
    bit32 hs.walk.run 31 ||| countAt 9 hs.conf.length 22 ||| countAt 17 hs.dir.length 0
  else if off == 0x3018 || off == 0x301C then (halfAt m (halfIx (off - 0x3018))).binv
  else if off == 0x3020 then m.coh.dead.extractLsb' 0 32
  else if off == 0x3024 then m.coh.dead.extractLsb' 32 32
  else if off == 0x3028 then word m 0 23
  else if off == 0x302C then word m 0 24
  else if 0x3040 ≤ off && off < 0x3080 then idxWord g ((off - 0x3040) / 4)
  else if 0x3100 ≤ off && off < 0x3200 then
    let o := g.ctrOwn.toList.getD ((off - 0x3100) / 4) ⟨false, 0⟩
    bit32 o.v 31 ||| fieldAt o.inst 0
  else if off == 0x3200 then fieldAt g.arbSel 0
  else if off == 0x3204 then b.base.extractLsb' 0 32
  else if off == 0x3208 then fieldAt (b.base.extractLsb' 32 10) 0
  else if off == 0x320C then fieldAt b.len 0
  else if off == 0x3210 then bit32 b.en 31 ||| fieldAt b.slice 26 ||| fieldAt b.ctr 13
  else if off == 0x3220 then fieldAt g.ctrSel 0
  else if off == 0x3224 then
    countAt 13 m.parked.length 16 ||| countAt 13 (m.parked.filter fun r => ctrNum r.addr == g.ctrSel).length 0
  else 0

/-! ## Service -/

/-- Requests of a label held on all ports. -/
def heldOf (m : Mach) (l : BitVec 12) : Nat :=
  allPorts.foldl (fun n p => n + ((portAt m p).txns.filter fun t => t.phase == .held && t.req.label == l).length) 0

/-- The level of a class bucket on a channel (R435). -/
def classLevel (g : Regs) (m : Mach) (c : Half) (k : Fin 16) : BitVec 16 :=
  let d := g.cls[k]
  if d.kind != 1 || (frugal m && c == 1) then 0 else BitVec.ofInt 16 (d.cburst.toNat + tabGet 0 (chanAt m c).bucket k.val)

/-- Causes of SVC_IRQ: a count that differs from its acknowledgement, enabled (R432). -/
def svcCause (g : Regs) (m : Mach) (dl : Bool) (k : Fin 16) : Bool :=
  let a := g.mack[k]
  if dl then g.cls[k].ieDl && m.svc.dlcnt[k] != a.extractLsb' 16 16 else g.cls[k].ieSf && m.svc.sfcnt[k] != a.extractLsb' 0 16

def fin16 (n : Nat) : Fin 16 := ⟨n % 16, Nat.mod_lt _ (by decide)⟩

def svcIrq (g : Regs) (m : Mach) : BitVec 32 :=
  bitMap 32 fun i => if i < 16 then svcCause g m false (fin16 i) else svcCause g m true (fin16 (i - 16))

def svcRead (g : Regs) (m : Mach) (off : Nat) : BitVec 32 :=
  if off == 0x4000 then bit32 g.svcOrder 1 ||| bit32 g.svcReg 0
  else if off == 0x4008 then bit32 g.lblSrc 1
  else if off == 0x4010 then bit32 m.svc.copy 31 ||| fieldAt m.svc.swaps 0
  else if off == 0x4014 then fieldAt g.lblLsel 0
  else if off == 0x4018 then countAt 11 (heldOf m g.lblLsel) 17 ||| fieldAt (BitVec.ofInt 17 (levelOf m g.lblLsel)) 0
  else if 0x4100 ≤ off && off < 0x4200 then
    let d := g.cls[fin16 ((off - 0x4100) / 16)]
    let o := off % 16
    if o == 0 then fieldAt d.kind 30 ||| fieldAt d.grd 0
    else if o == 4 then fieldAt d.cburst 16 ||| fieldAt d.gwr 0
    else if o == 8 then bit32 d.ieDl 1 ||| bit32 d.ieSf 0
    else 0
  else if 0x4200 ≤ off && off < 0x4240 then
    let k := fin16 ((off - 0x4200) / 4)
    fieldAt (classLevel g m 1 k) 16 ||| fieldAt (classLevel g m 0 k) 0
  else if 0x4300 ≤ off && off < 0x4380 then
    let k := fin16 ((off - 0x4300) / 8)
    if off % 8 == 0 then fieldAt m.svc.dlcnt[k] 16 ||| fieldAt m.svc.sfcnt[k] 0 else g.mack[k]
  else if off == 0x4380 then svcIrq g m
  else if off == 0x4384 then fieldAt m.svc.mlptr 0
  else if 0x4400 ≤ off && off < 0x4480 then
    let e := tabGet MissLog.none m.svc.mlog ((off - 0x4400) / 8)
    if off % 8 == 0 then bit32 e.v 31 ||| bit32 e.kind 30 ||| bit32 e.ch 29 ||| fieldAt e.cls 24 ||| fieldAt e.inst 18 ||| fieldAt e.label 0
    else fieldAt e.optag 16 ||| fieldAt e.amount 0
  else 0

/-! ## Anvil and sequencers -/

/-- MAC and DRN of ANVn_STAT. -/
def macFlight (a : Anvil) : Bool := a.mac.isSome || !a.tree.isEmpty
def drnFlight (a : Anvil) : Bool := a.drn.isSome

/-- RRUN: from an overflow until its rerun completes (R305). -/
def rerunning (a : Anvil) : Bool :=
  (match a.mac with | some x => x.rrun || x.st == .overflow | none => false) || a.tree.any (·.rrun)

/-- ANVn_GINSTk (R324). -/
def ginstWord (a : Anvil) (k : Nat) : BitVec 32 :=
  (List.range 4).foldl (fun (w : BitVec 32) j =>
    let gr := a.groups[grpIx (4 * k + j)]
    if gr.isOpen then w ||| fieldAt gr.inst (8 * j) else w) 0

/-- ANVn_SLOTS. -/
def slotsWord (a : Anvil) : BitVec 32 :=
  (List.finRange 4).foldl (fun (w : BitVec 32) q =>
    match a.own[q] with
    | some n => w ||| bit32 true (5 * q.val + 4) ||| countAt 4 n (5 * q.val)
    | none => w) 0

/-- The Anvil registers. Before a load CRUFREE reads 0, as its Reset column says (R10, log 110). -/
def anvRead (g : Regs) (m : Mach) (h : Half) (off : Nat) : BitVec 32 :=
  let a := anvAt m h
  let grp := fun (f : AGroup → Bool) => bitMap 16 fun i => f a.groups[fin16 i]
  let sq := fun (base : Nat) (f : Half → BitVec 32) => f (halfIx ((off - base) / 4))
  if off == 0x00 then bit32 g.anvEn[h] 0
  else if off == 0x08 then bit32 (macFlight a) 31 ||| bit32 (drnFlight a) 30 ||| bit32 (rerunning a) 29
    ||| countAt 5 (a.q[0].length + a.q[1].length) 24 ||| countAt 8 (if m.img.loaded then cruFree m h else 0) 16
  else if off == 0x0C then (grp (fun x => x.isOpen && !x.seated) <<< 16) ||| grp fun x => x.isOpen
  else if off == 0x10 then slotsWord a
  else if 0x20 ≤ off && off < 0x30 then ginstWord a ((off - 0x20) / 4)
  else if off == 0x30 then a.reruns
  else if off == 0x34 then a.spills
  else if off == 0x38 then a.confl
  else if off == 0x80 then bit32 g.seqEn[seqIx h 1] 1 ||| bit32 g.seqEn[seqIx h 0] 0
  else if off == 0x88 || off == 0x8C then sq 0x88 fun k =>
    let s := seqAt m h k
    bit32 s.run.isSome 31 ||| fieldAt (seqWait g m h k) 28 ||| fieldAt (seqOptag s) 12 ||| fieldAt s.pc 0
  else if off == 0x90 || off == 0x94 then sq 0x90 fun k =>
    let s := seqAt m h k
    bit32 s.faultV 31 ||| fieldAt s.fCode 28 ||| fieldAt s.fCause 24 ||| fieldAt s.fPc 0
  else if off == 0x98 || off == 0x9C then sq 0x98 fun k => fieldAt (seqAt m h k).faults 16 ||| fieldAt (seqAt m h k).ends 0
  else if off == 0xA0 then countAt 7 (halfAt m h).iq.length 0
  else 0

/-! ## Reliability -/

/-- A remap entry before any use. -/
def Remap.none : Remap := ⟨false, false, 0, 0⟩

/-- Remap entries in use. -/
def remapUse (hs : HalfSt) : Nat := (hs.remap.filter fun e => e.2.v).length

/-- The loss log entry before any loss. -/
def LossEntry.none : LossEntry := ⟨false, 0, 0, false, 0, 0, 0⟩

/-- IRQ[0] (R452). -/
def rasIrq (g : Regs) (m : Mach) : Bool :=
  bothHalves.any (fun h => (halfAt m h).safe || (g.ieQn && (halfAt m h).qn.dn))
    || (g.ieLoss && m.ras.lossCnt != g.lossAck) || (g.ieVio && m.ras.vioCnt != g.vioAck)

def lossRead (g : Regs) (m : Mach) (off : Nat) : BitVec 32 :=
  let e := tabGet LossEntry.none m.ras.loss g.lossSel.toNat
  if off == 0x20 then m.ras.lossCnt
  else if off == 0x24 then g.lossAck
  else if off == 0x28 then fieldAt (m.ras.lossCnt.extractLsb' 0 6) 0
  else if off == 0x2C then fieldAt g.lossSel 0
  else if off == 0x30 then
    bit32 e.v 31 ||| fieldAt e.cause 27 ||| bit32 (e.half == 1) 26 ||| bit32 e.addrv 25 ||| fieldAt e.way 16 ||| fieldAt e.set 0
  else if off == 0x34 then e.line.extractLsb' 0 32
  else if off == 0x38 then fieldAt (e.line.extractLsb' 32 12) 0
  else 0

def vioRead (g : Regs) (m : Mach) (off : Nat) : BitVec 32 :=
  let e := tabGet VioEntry.none m.ras.vio g.vioSel.toNat
  if off == 0x40 then m.ras.vioCnt
  else if off == 0x44 then g.vioAck
  else if off == 0x48 then fieldAt (m.ras.vioCnt.extractLsb' 0 6) 0
  else if off == 0x4C then fieldAt g.vioSel 0
  else if off == 0x50 then
    bit32 e.v 31 ||| fieldAt e.code 28 ||| fieldAt e.src 24 ||| fieldAt e.opc 18 ||| fieldAt e.inst 12 ||| fieldAt e.label 0
  else if off == 0x54 then e.addr.extractLsb' 0 32
  else if off == 0x58 then fieldAt (e.addr.extractLsb' 32 20) 0
  else if off == 0x5C then fieldAt e.optag 0
  else 0

/-- The Quench registers of a half. -/
def qnRead (g : Regs) (m : Mach) (h : Half) (off : Nat) : BitVec 32 :=
  let q := (halfAt m h).qn
  if off == 0x00 then fieldAt g.qnLast[h] 16 ||| fieldAt g.qnFirst[h] 0
  else if off == 0x04 then fieldAt g.qnArrays[h] 0
  else if off == 0x0C then bit32 q.busy 31 ||| bit32 q.dn 30 ||| fieldAt q.result 28 ||| fieldAt q.rmap 23 ||| fieldAt q.set 0
  else if off == 0x10 then q.words
  else if off == 0x14 then fieldAt q.ce 16 ||| fieldAt q.ue 0
  else if off == 0x18 then bit32 q.fueV 31 ||| fieldAt q.fueArr 28 ||| fieldAt q.fueWay 13 ||| fieldAt q.fueSet 0
  else 0

/-- RAS_INJ. -/
def injWord (g : Regs) (m : Mach) : BitVec 32 :=
  bit32 m.ras.armed 31 ||| bit32 g.injHalf 30 ||| fieldAt g.injArray 26 ||| bit32 g.injTwo 25 ||| fieldAt g.injPosB 9 ||| fieldAt g.injPosA 0

def rasRead (g : Regs) (m : Mach) (off : Nat) : BitVec 32 :=
  let a := halfAt m 0
  let b := halfAt m 1
  if off == 0x00 then bit32 g.rasAuto 5 ||| bit32 g.ieQn 4 ||| bit32 g.ieVio 3 ||| bit32 g.ieLoss 2
  else if off == 0x08 then bit32 b.safe 31 ||| bit32 a.safe 30 ||| fieldAt b.scause 26 ||| fieldAt a.scause 22 ||| fieldAt b.sword 16
    ||| fieldAt a.sword 10 ||| countAt 5 (remapUse b) 5 ||| countAt 5 (remapUse a) 0
  else if off == 0x10 then fieldAt a.ceCnt 16 ||| fieldAt a.ueCnt 0
  else if off == 0x14 then fieldAt b.ceCnt 16 ||| fieldAt b.ueCnt 0
  else if off == 0x18 then fieldAt a.votes 0
  else if off == 0x1C then fieldAt b.votes 0
  else if off < 0x40 then lossRead g m off
  else if off < 0x60 then vioRead g m off
  else if off == 0x80 then injWord g m
  else if 0x100 ≤ off && off < 0x180 then
    let e := tabGet Remap.none (halfAt m (halfIx ((off - 0x100) / 0x40))).remap (off % 0x40 / 4)
    if e.v then bit32 e.v 31 ||| bit32 e.auto 30 ||| fieldAt e.way 16 ||| fieldAt e.set 0 else 0
  else if off == 0x180 || off == 0x188 then g.rmCmd[halfIx ((off - 0x180) / 8)] &&& 0x7C1F1FFF
  else if 0x200 ≤ off && off < 0x280 then qnRead g m (halfIx ((off - 0x200) / 0x40)) (off % 0x40)
  else 0

/-! ## Power, start, image -/

def pwrRead (g : Regs) (m : Mach) (off : Nat) : BitVec 32 :=
  let a := (halfAt m 0).pw
  let b := (halfAt m 1).pw
  let shown := fun (x : BitVec 32) => if m.img.loaded then x else 0
  if off == 0x000 then bit32 g.holdclk 31 ||| bit32 g.reten 30 ||| bit32 g.iePto 29 ||| fieldAt g.retidle 16 ||| fieldAt g.stopidle 0
  else if off == 0x008 then bit32 b.pto 9 ||| bit32 a.pto 8 ||| fieldAt (powerState b) 4 ||| fieldAt (powerState a) 0
  else if off == 0x010 then bit32 g.jrnIe 30 ||| fieldAt g.jrnSteps 0
  else if off == 0x018 then bit32 m.jrn.run 31 ||| bit32 m.jrn.ready 30 ||| bit32 m.jrn.dn 29 ||| fieldAt m.jrn.step 24 ||| fieldAt m.jrn.starts 0
  else if off == 0x100 then bit32 g.imgSlot 1
  else if off == 0x108 then bit32 m.img.load.isSome 31 ||| bit32 m.img.loaded 30 ||| bit32 m.img.lslot 29 ||| bit32 m.img.aslot 28
    ||| fieldAt m.img.result 24 ||| fieldAt m.img.line 0
  else if off == 0x10C then shown (word m 0 18)
  else if off == 0x110 then shown (word m 0 19)
  else if off == 0x114 then shown (fieldAt ((word m 0 20).extractLsb' 0 16) 16)
  else if off == 0x118 then fieldAt m.jrn.boota 0
  else 0

/-! ## Virtual instances -/

/-- A window before any write. -/
def Window.off : Window := ⟨0, 0, false, 0⟩

def viRead (g : Regs) (m : Mach) (off : Nat) : BitVec 32 :=
  let x := tabGet Instance.off g.insts g.viSel.toNat
  let w := tabGet Window.off g.windows g.viWsel.toNat
  if off == 0x00 then fieldAt g.viSel 0
  else if off == 0x04 then bit32 x.en 31 ||| bit32 x.frz 30 ||| fieldAt x.gen 0
  else if off == 0x14 then bit32 m.vi.busy 31 ||| fieldAt m.vi.cmd 28 ||| fieldAt m.vi.result 25 ||| fieldAt m.vi.inst 12 ||| fieldAt m.vi.aborts 0
  else if off == 0x18 then fieldAt g.viSaveL 8
  else if off == 0x1C then fieldAt g.viSaveH 0
  else if off == 0x20 then m.vi.saveN
  else if off == 0x40 then fieldAt g.viWsel 0
  else if off == 0x44 then fieldAt w.base 0
  else if off == 0x48 then fieldAt w.size 0
  else if off == 0x4C then bit32 w.en 31 ||| fieldAt w.inst 0
  else if off == 0x80 then bit32 g.dlEn 31 ||| bit32 g.dlAct 29 ||| fieldAt g.dlInst 0
  else if off == 0x88 then fieldAt g.dlRbase 0
  else if off == 0x8C then fieldAt g.dlPages 0
  else if off == 0x90 then fieldAt g.dlBAL 12
  else if off == 0x94 then fieldAt g.dlBAH 0
  else if off == 0x98 then fieldAt g.dlBBL 12
  else if off == 0x9C then fieldAt g.dlBBH 0
  else if off == 0xA0 then fieldAt m.vi.fails 16 ||| countAt 9 m.vi.orsOut.length 0
  else if off == 0xA4 then m.vi.ors
  else 0

/-! ## Debug -/

/-- Causes of DBG_IRQ, GS to BP in bits 4 to 0 (R538). -/
def dbgCauses (m : Mach) : BitVec 5 :=
  flagAt 5 (stopQuiet m) 4 ||| flagAt 5 ((List.finRange 8).any fun k => m.dbg.dumps[k].dn) 3
    ||| flagAt 5 (bothHalves.any fun h => (halfAt m h).trace.dn) 2 ||| flagAt 5 ((List.finRange 4).any fun k => m.seqs[k].faultV) 1
    ||| flagAt 5 ((List.finRange 4).any fun k => m.seqs[k].halted && m.seqs[k].whyBp) 0

def fin8 (n : Nat) : Fin 8 := ⟨n % 8, Nat.mod_lt _ (by decide)⟩

/-- Index of the oldest record of a trace buffer. -/
def traceFirst (t : Trace) : Nat := (t.next + 2048 - t.count) % 2048

def trcRead (g : Regs) (m : Mach) (h : Half) (off : Nat) : BitVec 32 :=
  let c := g.trc[h]
  let t := (halfAt m h).trace
  if off == 0x00 then bit32 c.om 28 ||| fieldAt c.seqs 26 ||| fieldAt c.src 16 ||| fieldAt c.toptag 0
  else if off == 0x08 then fieldAt c.post 16 ||| fieldAt c.pre 0
  else if off == 0x0C then bit32 t.act 31 ||| bit32 t.trgd 30 ||| bit32 t.dn 29 ||| fieldAt t.tptr 16 ||| countAt 11 (traceFirst t) 0
  else if off == 0x10 then t.drops
  else 0

/-- OFS_INFO. -/
def ofsWord (g : Regs) (m : Mach) : BitVec 32 :=
  let o := tabGet Offset.none m.dbg.offs g.ofsSel.toNat
  let busy := match m.dbg.meas with | some x => x.pkg == g.ofsSel | none => false
  bit32 o.v 31 ||| bit32 (busy || m.dbg.measQ.contains g.ofsSel) 30 ||| countAt 20 (min o.rtt 0xFFFFF) 0

/-- The registers of a dump trigger, its status and its count. -/
def dmpRead (g : Regs) (k : Fin 8) (off : Nat) : BitVec 32 :=
  let c := g.dmp[k]
  if off == 0x00 then fieldAt (c.src.extractLsb' 0 24) 8
  else if off == 0x04 then fieldAt (c.src.extractLsb' 24 20) 0
  else if off == 0x08 then fieldAt (c.dst.extractLsb' 0 24) 8
  else if off == 0x0C then fieldAt (c.dst.extractLsb' 24 20) 0
  else if off == 0x10 then c.step
  else if off == 0x14 then fieldAt c.len 0
  else if off == 0x18 then fieldAt c.optag 0
  else 0

/-- Link counts latched at the last stop (R544). -/
def gsLinkRead (m : Mach) (off : Nat) : BitVec 32 :=
  let k : Fin 3 := ⟨(off - 0x9A40) / 0x20 % 3, Nat.mod_lt _ (by decide)⟩
  let q : Fin 4 := ⟨off % 0x10 / 4 % 4, Nat.mod_lt _ (by decide)⟩
  if off % 0x20 < 0x10 then (linkAt m k).latchS[q] else (linkAt m k).latchR[q]

def dbgRead (g : Regs) (m : Mach) (off : Nat) : BitVec 32 :=
  if off == 0x9000 then fieldAt g.dbgIe 0
  else if off == 0x9008 then fieldAt (dbgCauses m) 0
  else if off == 0x900C then fieldAt g.mbselSrc 29 ||| bit32 g.mbselH 28 ||| fieldAt g.mbselIdx 0
  else if off == 0x9010 then g.tsNext.extractLsb' 0 32
  else if off == 0x9014 then g.tsNext.extractLsb' 32 32
  else if off == 0x9018 then bit32 m.dbg.tsArm 0
  else if off == 0x9020 then m.dbg.syncs
  else if off == 0x9030 then fieldAt g.ofsPkg 0
  else if off == 0x9038 then fieldAt g.ofsSel 0
  else if off == 0x903C then ofsWord g m
  else if 0x9100 ≤ off && off < 0x9180 then
    let n := (off - 0x9100) / 0x40
    let b := tabGet Breakpoint.off g.bps (bpKey (halfIx n) (halfIx (off % 0x40 / 0x10)) (off % 0x10 / 4))
    if off % 0x40 < 0x20 then bit32 b.en 31 ||| bit32 b.om 30 ||| fieldAt b.optag 12 ||| fieldAt b.pc 0 else 0
  else if off == 0x9190 || off == 0x9194 then
    let h := halfIx (off - 0x9190)
    let s := fun (k : Half) => seqAt m h k
    bit32 ((s 1).halted && (s 1).whyBp) 3 ||| bit32 ((s 0).halted && (s 0).whyBp) 2 ||| bit32 (s 1).halted 1 ||| bit32 (s 0).halted 0
  else if 0x9200 ≤ off && off < 0x9240 then trcRead g m (halfIx ((off - 0x9200) / 0x20)) (off % 0x20)
  else if off == 0x93F0 then fieldAt g.pfEn 0
  else if 0x9400 ≤ off && off < 0x9800 then
    let h := halfIx ((off - 0x9400) / 0x200)
    let c := profCfg g h (off % 0x200 / 8)
    if off % 8 == 0 then fieldAt c.evt 24 ||| fieldAt c.lmode 12 ||| fieldAt c.lsel 0 else fieldAt c.oval 16 ||| fieldAt c.omask 0
  else if 0x9800 ≤ off && off < 0x9900 then dmpRead g (fin8 ((off - 0x9800) / 0x20)) (off % 0x20)
  else if 0x9900 ≤ off && off < 0x9940 then
    let d := m.dbg.dumps[fin8 ((off - 0x9900) / 8)]
    if off % 8 == 0 then bit32 d.armed 31 ||| bit32 d.dn 30 ||| fieldAt d.code 27 ||| fieldAt d.lines 0 else d.count
  else if off == 0x9A00 then bit32 g.gsSync 30
  else if off == 0x9A08 then bit32 m.dbg.stopped 31 ||| bit32 m.dbg.pend 30 ||| bit32 (stopQuiet m) 29
  else if 0x9A40 ≤ off && off < 0x9AA0 then gsLinkRead m off
  else 0

/-! ## Ports -/

/-- RPIDX (R122). -/
def rpidxWord (m : Mach) : BitVec 32 :=
  allPorts.foldl (fun (a : BitVec 32) p =>
    match (portAt m p).idx with
    | some i => a ||| bit32 true (8 * p.val + 7) ||| fieldAt i (8 * p.val)
    | none => a) 0

/-- A port register: RPn_CTL and RPn_STAT (R77). -/
def rpRead (g : Regs) (m : Mach) (p : PortIx) (off : Nat) : BitVec 32 :=
  let x := portAt m p
  if off == 0x0 then bit32 (x.caching && isJoined x.hello) 1 ||| bit32 g.rpEn[p] 0
  else if off == 0x4 then bit32 (isJoined x.hello && g.rpEn[p]) 31 ||| countAt 9 (x.txns.filter fun t => t.phase == .held).length 18
    ||| countAt 7 (x.in0.length + x.in1.length) 11 ||| countAt 11 (x.txns.map (·.req.txn) ++ (unparsed x).map (·.txn)).eraseDups.length 0
  else 0

/-- The count of events that raises IRQ[3] (R126). -/
def linkIrq (g : Regs) (m : Mach) : Bool := g.linkIe && (m.coh.joins != g.ackJ || m.coh.departs != g.ackD)

def fin4 (n : Nat) : Fin 4 := ⟨n % 4, Nat.mod_lt _ (by decide)⟩

/-- The registers of the outward ports (R123 to R126). The own bits of PEER_JOINh and RMT_JOIN read 1 from the first load on, which gives the slice
and its package their numbers; before it they read 0, as their Reset column says (R10, log 109). -/
def portRead (g : Regs) (m : Mach) (off : Nat) : BitVec 32 :=
  let up := fun (k : Fin 3) => isJoined (linkAt m k).hello && (linkAt m k).up
  if 0xA000 ≤ off && off < 0xA040 then rpRead g m (fin4 ((off - 0xA000) / 16)) (off % 16)
  else if off == 0xA040 then rpidxWord m
  else if off == 0xA080 || off == 0xA090 then
    let c := chanAt m (halfIx (off - 0xA080))
    let j := isJoined c.hello
    bit32 j 31 ||| bit32 (j && c.atm) 30 ||| fieldAt (if j then c.aops else 0) 19 ||| countAt 9 c.writeO.length 10 ||| countAt 10 c.readO.length 0
  else if off == 0xA0C0 || off == 0xA0C4 then
    bitMap 32 fun i => (m.img.loaded && i == (ownSlice m).toNat) || partJoined m (peerLink (halfIx (off - 0xA0C0))) (BitVec.ofNat 5 i)
  else if off == 0xA0C8 then bitMap 32 fun i => (m.img.loaded && i == (chipNum m).toNat) || partJoined m 2 (BitVec.ofNat 5 i)
  else if off == 0xA0D0 then fieldAt m.coh.rejRole 20 ||| fieldAt m.coh.rejWhy 16 ||| bit32 (up 2) 4 ||| bit32 (up 1) 3 ||| bit32 (up 0) 2
    ||| bit32 (isJoined (chanAt m 1).hello) 1 ||| bit32 (isJoined (chanAt m 0).hello) 0
  else if off == 0xA0D4 then fieldAt m.coh.joins 16 ||| fieldAt m.coh.departs 0
  else if off == 0xA0D8 then fieldAt g.ackJ 16 ||| fieldAt g.ackD 0
  else if off == 0xA0DC then bit32 g.linkIe 0
  else 0

/-! ## Mailbox and indirect pair -/

def mbRead (g : Regs) (m : Mach) (off : Nat) : BitVec 32 :=
  let x := m.mg
  if off == 0xF000 then bit32 g.mbIe 29 ||| fieldAt g.mbSrc 0
  else if off == 0xF004 then bit32 x.valid 31 ||| bit32 x.pend 30 ||| fieldAt x.src 27 ||| fieldAt x.dsrc 24 ||| bit32 x.mh 23 ||| fieldAt x.item 0
  else if off == 0xF008 then x.lo
  else if off == 0xF00C then x.hi
  else if off == 0xF010 then fieldAt g.indAddr 2
  else if off == 0xF018 then bit32 g.indInc 0
  else 0

/-! ## The window -/

/-- What a register reads; IND_DATA is read through the pair and not here. -/
def plainRead (g : Regs) (m : Mach) (off : Nat) : BitVec 32 :=
  if off < 0x1000 then glbRead g m off
  else if off < 0x1400 then hcRead g m 0 (off - 0x1000)
  else if off < 0x2000 then hearthRead g m off
  else if off < 0x2400 then hcRead g m 1 (off - 0x2000)
  else if off < 0x3000 then 0
  else if off < 0x4000 then cohRead g m off
  else if off < 0x5000 then svcRead g m off
  else if off < 0x5200 then anvRead g m (halfIx ((off - 0x5000) / 0x100)) (off % 0x100)
  else if off < 0x6000 then 0
  else if off < 0x7000 then rasRead g m (off - 0x6000)
  else if off < 0x8000 then pwrRead g m (off - 0x7000)
  else if off < 0x9000 then viRead g m (off - 0x8000)
  else if off < 0xA000 then dbgRead g m off
  else if off < 0xB000 then portRead g m off
  else if 0xF000 ≤ off && off < 0x10000 then mbRead g m off
  else 0

/-- The word and the bit that an alias offset names (R551). -/
def aliasWord (off : Nat) : Nat := 4 * ((off - 0x80000) / 128)
def aliasBit (off : Nat) : Nat := (off - 0x80000) / 4 % 32

/-- What a register reads as the topology has it (R546, R547). -/
def liveRead (g : Regs) (m : Mach) (off : Nat) : BitVec 32 := if deadRegister m off then 0 else plainRead g m off &&& liveBits m off

/-- What the word at an offset reads: a register, or one bit of one (R546, R552). -/
def regRead (g : Regs) (m : Mach) (off : Nat) : BitVec 32 :=
  if off < 0x80000 then liveRead g m off else bit32 (bitAt (liveRead g m (aliasWord off)) (aliasBit off)) 0

/-- IRQ[3:0] (R120, R432, R452, R538, R126, R192, R490, R492, R556). -/
def irqs (g : Regs) (m : Mach) : BitVec 4 :=
  flagAt 4 (linkIrq g m || (m.re.dn && g.reIe) || (m.mg.valid && g.mbIe) || (m.jrn.dn && g.jrnIe)
    || (g.iePto && bothHalves.any fun h => (halfAt m h).pw.pto)) 3
    ||| flagAt 4 (dbgCauses m &&& g.dbgIe != 0) 2 ||| flagAt 4 (svcIrq g m != 0) 1 ||| flagAt 4 (rasIrq g m) 0

end Sys2Proof.Machine
end

