-- ==== Sys2Proof/Machine/RegCache.lean ====
section
/-!
DEFINITION. Writes to the registers of the global range and of cache control (chapters 01, 04, 05, 10): profile, determinism, compression,
way uses, masks, regions, the range engine, reduction groups. A write acts on the whole word of one register (R546); reserved bits and
read-only fields ignore it (R11).
-/

namespace Sys2Proof.Machine

/-- The registers and what moves by itself: what a register write acts on. -/
abbrev Slice := Regs × Mach

/-- A write that changes registers alone. -/
def onRegs (f : Regs → Regs) (x : Slice) : Slice := (f x.1, x.2)

/-- A write that sets something going. -/
def onMach (f : Regs → Mach → Mach) (x : Slice) : Slice := (x.1, f x.1 x.2)

/-- A field of a written word. -/
def vbits (v : BitVec 32) (lo n : Nat) : BitVec n := v.extractLsb' lo n

/-! ## Profile (R29 to R32) -/

/-- The controls at the defaults of a profile. -/
def profileRegs (p : BitVec 2) (g : Regs) : Regs :=
  let on := p != 1
  let upd := fun (c : HcRegs) => { c with cmode := profileCmode p, bexp := on, delta := on, rep := on, zero := on }
  { g with profile := p, detEn := p == 2, holdclk := p == 1, hc := g.hc.map upd }

/-- Held fast clocks are a demand for each powered half (R480). -/
def demandHeld (x : Slice) : Slice :=
  if x.1.holdclk then onMach (fun _ m => if frugal m then raiseDemand 0 m else raiseDemand 1 (raiseDemand 0 m)) x else x

/-- GLB_PROFILE (R30 to R32). -/
def writeProfile (v : BitVec 32) (x : Slice) : Slice :=
  let p := vbits v 0 2
  if frugal x.2 || p == 3 then x else demandHeld (onRegs (profileRegs p) x)

/-- The writable registers of the global range. -/
def glbWrite (off : Nat) (v : BitVec 32) (x : Slice) : Slice :=
  if off == 0x010 then writeProfile v x
  else if off == 0x020 then onRegs (fun g => { g with detEn := bitAt v 0 }) x
  else x

/-! ## One half's cache control -/

def modHc (h : Half) (f : HcRegs → HcRegs) (g : Regs) : Regs := { g with hc := g.hc.set h.val (f g.hc[h]) h.isLt }

/-- HCn_CMP (R158). -/
def putCmp (v : BitVec 32) (c : HcRegs) : HcRegs :=
  { c with cmode := if vbits v 8 2 == 3 then c.cmode else vbits v 8 2
           bexp := bitAt v 3, delta := bitAt v 2, rep := bitAt v 1, zero := bitAt v 0 }

/-- HCn_REPL (R159). -/
def putRepl (v : BitVec 32) (c : HcRegs) : HcRegs := { c with pfage := vbits v 4 2, nage := vbits v 0 2 }

/-- HCn_BLW (R160). A write leaves DEPTH as it is where its value is out of range; a load writes every field (R403). -/
def putBlw (img : Bool) (v : BitVec 32) (c : HcRegs) : HcRegs :=
  let d := vbits v 4 5
  { c with depth := if !img && (d == 0 || decide (16 < d.toNat)) then c.depth else d, blwEn := bitAt v 0 }

/-- An allocation mask: the floor ways are always in it (R168). -/
def maskOf (v : BitVec 32) : BitVec 24 := vbits v 0 24 ||| 0xF

/-- HCn_AMASKk, HCn_PMASK and HCn_XMASK (R189). -/
def putMask (off : Nat) (v : BitVec 32) (c : HcRegs) : HcRegs :=
  if off == 0x280 then { c with pmask := maskOf v }
  else if off == 0x284 then { c with xmask := maskOf v }
  else
    let k := fin16 ((off - 0x240) / 4)
    { c with amask := c.amask.set k.val (maskOf v) k.isLt }

/-- HCn_CTL (R185, R187): a half whose cache ways go off drains its merge entries into their frames, and its fills in flight install
nothing, but for those that PIN waits for (R184). -/
def writeCen (h : Half) (v : BitVec 32) (x : Slice) : Slice :=
  let off := x.1.hc[h].cen && !bitAt v 0
  let quiet := fun (e : MissEntry) => if e.waiters.any fun r => r.op == .pin then e else { e with noFill := true }
  let y := if off then onMach (fun g m =>
      let m := modHalf h (fun hs => { hs with miss := hs.miss.map quiet }) m
      ((halfAt m h).merge.filter fun e => !e.draining).foldl (fun m e => startDrain g h e m) m) x else x
  onRegs (modHc h fun c => { c with cen := bitAt v 0 }) y

/-- The use codes with the written ones in their place; the floor ways stay cache (R188). -/
def newUses (second : Bool) (v : BitVec 32) (old : BitVec 48) : BitVec 48 :=
  if second then (old &&& 0xFFFFFFFF) ||| ((vbits v 0 16).setWidth 48 <<< 32)
  else (old &&& 0xFFFF00000000) ||| ((v &&& 0xFFFFFF00).setWidth 48)

/-- A use code of way w. -/
def useCode (u : BitVec 48) (w : Nat) : BitVec 2 := u.extractLsb' (2 * w) 2

/-- The ways whose use differs. -/
def changedWays (a b : BitVec 48) : BitVec 24 :=
  (List.range 24).foldl (fun (m : BitVec 24) w => if useCode a w != useCode b w then m ||| (1#24 <<< w) else m) 0

/-- A use code is reserved (R163). -/
def reservedUse (u : BitVec 48) : Bool := (List.range 24).any fun w => useCode u w == 3

/-- A change into or out of reservation use while a group is open in the half (Table 5.3). -/
def usesRefused (m : Mach) (h : Half) (a b : BitVec 48) : Bool :=
  !(halfAt m h).groups.isEmpty
    && (List.range 24).any fun w => useCode a w != useCode b w && (useCode a w == 2 || useCode b w == 2)

/-- The ways of a half take new uses: Table 5.3 at once, and the sweep (R164, R165). -/
def changeUses (h : Half) (new : BitVec 48) (x : Slice) : Slice :=
  let old := x.1.hc[h].wuse
  let ways := changedWays old new
  onMach (fun g m => startSweep h ways (unpinWays g h (fun w => (useCode old w).toNat) ways m)) (onRegs (modHc h fun c => { c with wuse := new }) x)

/-- HCn_WUSE0 and HCn_WUSE1 (R163 to R165). -/
def writeUses (h : Half) (second : Bool) (v : BitVec 32) (x : Slice) : Slice :=
  let old := x.1.hc[h].wuse
  let new := newUses second v old
  if reservedUse new || usesRefused x.2 h old new then x else changeUses h new x

/-- GRPn_CMD (R354): a GRP_ABORT of the selected group from the management port. -/
def writeGrpCmd (h : Half) (v : BitVec 32) (x : Slice) : Slice :=
  if !bitAt v 0 then x
  else onMach (fun g m =>
    let gid := g.hc[h].grpSel
    if (openGroup (halfAt m h) gid).isNone || (halfAt m h).safe then m
    else
      let (id, m) := newId m
      orderAt g h { rangeReq id h .grpAbort 0 with origin := .bellows, aux := gid.setWidth 32 } m) x

/-- The registers of a half at 0x1100 to 0x131C of its range. -/
def hcWrite (h : Half) (off : Nat) (v : BitVec 32) (x : Slice) : Slice :=
  let put := fun (f : HcRegs → HcRegs) => onRegs (modHc h f) x
  if off == 0x100 then put (putCmp v)
  else if off == 0x104 then put (putRepl v)
  else if off == 0x108 then put (putBlw false v)
  else if off == 0x200 then writeCen h v x
  else if off == 0x210 then writeUses h false v x
  else if off == 0x218 then writeUses h true v x
  else if off % 4 == 0 && ((decide (0x240 ≤ off) && decide (off < 0x280)) || off == 0x280 || off == 0x284) then put (putMask off v)
  else if off == 0x308 then put fun c => { c with grpSel := vbits v 0 6 }
  else if off == 0x314 then writeGrpCmd h v x
  else x

/-! ## Hearth regions (R170, R171, R191) -/

def modHr (k : Fin 16) (f : Region → Region) (g : Regs) : Regs := { g with hr := g.hr.set k.val (f g.hr[k]) k.isLt }

/-- Two ranges of MiB meet. -/
def regionsMeet (a n b k : Nat) : Bool := decide (a < b + k) && decide (b < a + n)

/-- Region k would overlap another enabled region or the reservation window. -/
def regionOverlaps (g : Regs) (m : Mach) (k : Fin 16) : Bool :=
  let r := g.hr[k]
  let a := r.base.toNat
  let n := r.size.toNat
  (List.finRange 16).any (fun j => j != k && g.hr[j].en && regionsMeet a n g.hr[j].base.toNat g.hr[j].size.toNat)
    || regionsMeet a n (sliceWord m 21).toNat ((sliceWord m 22).extractLsb' 0 16).toNat

/-- HRk_CTL (R171). -/
def writeRegionCtl (k : Fin 16) (v : BitVec 32) (x : Slice) : Slice :=
  let r := x.1.hr[k]
  let want := bitAt v 31
  if r.en then
    if !want && regionLines x.1 x.2 k == 0 then onRegs (modHr k fun r => { r with en := false }) x else x
  else if want && (r.size == 0 || regionOverlaps x.1 x.2 k) then x
  else onRegs (modHr k fun r => { r with en := want, inst := vbits v 24 6, ways := vbits v 0 24 &&& 0xFFFFF0 }) x

/-- The registers of region k. -/
def regionWrite (off : Nat) (v : BitVec 32) (x : Slice) : Slice :=
  let k := fin16 ((off - 0x1400) / 16)
  let o := off % 16
  if o == 0 then onRegs (modHr k fun r => if r.en then r else { r with base := v }) x
  else if o == 4 then onRegs (modHr k fun r => if r.en then r else { r with size := vbits v 0 16 }) x
  else if o == 8 then writeRegionCtl k v x
  else x

/-! ## The range engine (R176, R178, R183, R192) -/

/-- RE_CTL: ACK, then ABORT, then GO (log 32). A write with GO and a reserved OP, or with GO while BUSY is 1, is ignored. -/
def writeReCtl (v : BitVec 32) (x : Slice) : Slice :=
  let op := vbits v 0 3
  let go := bitAt v 4
  if go && (x.2.re.busy || decide (6 ≤ op.toNat)) then x
  else
    let x := onRegs (fun g => { g with reIe := bitAt v 7, reOp := op }) x
    let x := if bitAt v 6 then onMach (fun _ m => { m with re := { m.re with dn := false } }) x else x
    let x := if bitAt v 5 then onMach (fun _ m => rangeAbort m) x else x
    if go then onMach (fun g m => rangeStart g op m) x else x

/-- The registers of the range engine. -/
def reWrite (off : Nat) (v : BitVec 32) (x : Slice) : Slice :=
  let set := fun (f : Regs → Regs) => if x.2.re.busy then x else onRegs f x
  if off == 0x1600 then set fun g => { g with reAddrL := v }
  else if off == 0x1604 then set fun g => { g with reAddrH := vbits v 0 10 }
  else if off == 0x1608 then set fun g => { g with reLen := v }
  else if off == 0x160C then writeReCtl v x
  else x

/-- The slice-wide registers of the Half 0 cache range. -/
def hearthWrite (off : Nat) (v : BitVec 32) (x : Slice) : Slice :=
  if decide (0x1400 ≤ off) && decide (off < 0x1500) then regionWrite off v x else reWrite off v x

end Sys2Proof.Machine
end

