-- ==== Sys2Proof/Machine/RegCoh.lean ====
section
/-!
DEFINITION. Writes to the registers of coherence, arrival counters and service (chapters 06, 07, 13).
-/

namespace Sys2Proof.Machine

/-! ## Coherence (R227, R228, R565) -/

/-- COH_CTL: a write leaves HOLD as it is outside 16 to 1,024 (R227); a load writes it (R403). -/
def putHoldWindow (img : Bool) (v : BitVec 32) (g : Regs) : Regs :=
  let n := vbits v 0 11
  if img || (decide (16 ≤ n.toNat) && decide (n.toNat ≤ 1024)) then { g with cohHold := n } else g

/-- COH_PRED (R228). -/
def writePred (v : BitVec 32) (x : Slice) : Slice :=
  if vbits v 0 2 == 3 then x
  else
    let x := onRegs (fun g => { g with predMode := vbits v 0 2 }) x
    if bitAt v 7 then onMach (fun _ m => bothHalves.foldl (fun m h => modHalf h (fun hs => { hs with pred := [] }) m) m) x else x

/-- An owner byte: V and INST. -/
def ownerOf (b : BitVec 8) : Owner := ⟨bitAt b 7, b.extractLsb' 0 6⟩

def setIdxInst (i : Nat) (o : Owner) (g : Regs) : Regs :=
  if h : i < 64 then { g with idxInst := g.idxInst.set i o h } else g

/-- IDX_INSTk (R565). -/
def putIdx (k : Nat) (v : BitVec 32) (g : Regs) : Regs :=
  (List.range 4).foldl (fun g j => setIdxInst (4 * k + j) (ownerOf (vbits v (8 * j) 8)) g) g

/-! ## Counters and bindings (R242, R257 to R259) -/

/-- CTR_OWNk (R257). -/
def putOwner (k : Nat) (v : BitVec 32) (g : Regs) : Regs :=
  if h : k < 64 then { g with ctrOwn := g.ctrOwn.set k ⟨bitAt v 31, vbits v 0 6⟩ h } else g

/-- Change the binding entry that ARB_SEL names. -/
def modArb (f : Binding → Binding) (g : Regs) : Regs := { g with arb := tabMod Binding.off g.arb g.arbSel.toNat f }

/-- Two ranges of granules meet. -/
def granulesMeet (a b : Binding) : Bool :=
  decide (a.base.toNat < b.base.toNat + b.len.toNat) && decide (b.base.toNat < a.base.toNat + a.len.toNat)

/-- R242 refuses to enable the entry with a counter on `slice`. -/
def bindingRefused (g : Regs) (m : Mach) (slice : BitVec 5) : Bool :=
  let b := selBinding g
  let lo := (chipNum m).toNat * 2 ^ 37
  b.len == 0 || g.arb.any (fun x => x.1 != g.arbSel.toNat && x.2.en && granulesMeet x.2 b)
    || decide (b.base.toNat < lo) || decide (lo + 2 ^ 37 < b.base.toNat + b.len.toNat) || decide (sliceCount m ≤ slice.toNat)

/-- ARB_CTL (R242, R258). -/
def writeArbCtl (v : BitVec 32) (x : Slice) : Slice :=
  let want := bitAt v 31
  let slice := vbits v 26 5
  if (selBinding x.1).en then (if want then x else onRegs (modArb fun b => { b with en := false }) x)
  else if want && bindingRefused x.1 x.2 slice then x
  else onRegs (modArb fun b => { b with en := want, slice := slice, ctr := vbits v 13 13 }) x

/-- The registers of the coherence range. -/
def cohWrite (off : Nat) (v : BitVec 32) (x : Slice) : Slice :=
  let arb := fun (f : Binding → Binding) => onRegs (modArb fun b => if b.en then b else f b) x
  if off == 0x3000 then onRegs (putHoldWindow false v) x
  else if off == 0x3004 then writePred v x
  else if decide (0x3040 ≤ off) && decide (off < 0x3080) then onRegs (putIdx ((off - 0x3040) / 4) v) x
  else if decide (0x3100 ≤ off) && decide (off < 0x3200) then onRegs (putOwner ((off - 0x3100) / 4) v) x
  else if off == 0x3200 then onRegs (fun g => { g with arbSel := vbits v 0 8 }) x
  else if off == 0x3204 then arb fun b => { b with base := (b.base &&& 0x3FF00000000) ||| v.setWidth 42 }
  else if off == 0x3208 then arb fun b => { b with base := (b.base &&& 0xFFFFFFFF) ||| ((vbits v 0 10).setWidth 42 <<< 32) }
  else if off == 0x320C then arb fun b => { b with len := vbits v 0 20 }
  else if off == 0x3210 then writeArbCtl v x
  else if off == 0x3220 then onRegs (fun g => { g with ctrSel := vbits v 0 13 }) x
  else if off == 0x3228 then (if bitAt v 0 then onMach (fun g m => updateCounter g.ctrSel Counter.zero m) x else x)
  else x

/-! ## Labels (R413, R414, R434) -/

/-- LEVEL of the labels after a swap: BURST where EN rises, 0 where the label is disabled (R414). -/
def swapLevels (old new : Tab LabelCtx) (level : Tab Int) : Tab Int :=
  (new.filter fun x => x.2.en).filterMap fun x =>
    let v : Int := if (tabGet LabelCtx.off old x.1).en then tabGet 0 level x.1 else x.2.burst.toNat
    if v == 0 then none else some (x.1, v)

/-- SWAP: the shadow becomes live, and its copy begins. -/
def swapLabels (x : Slice) : Slice :=
  let (g, m) := x
  let s := m.svc
  ({ g with live := g.shadow, shadow := g.live },
   { m with svc := { s with level := swapLevels g.live g.shadow s.level, copy := true, copyAt := 0, swaps := s.swaps + 1 } })

/-- LBL_CTL (R434): a write with SWAP while a copy runs is ignored. -/
def writeLblCtl (v : BitVec 32) (x : Slice) : Slice :=
  let swap := bitAt v 0
  if swap && x.2.svc.copy then x
  else
    let x := onRegs (fun g => { g with lblSrc := bitAt v 1 }) x
    if swap then swapLabels x else x

/-! ## Classes (R422) -/

def modCls (k : Fin 16) (f : ClassDesc → ClassDesc) (g : Regs) : Regs := { g with cls := g.cls.set k.val (f g.cls[k]) k.isLt }

/-- CLSk_D0 and CLSk_D2. -/
def putClass0 (v : BitVec 32) (c : ClassDesc) : ClassDesc :=
  { c with kind := if vbits v 30 2 == 3 then c.kind else vbits v 30 2, grd := vbits v 0 13 }
def putClass2 (v : BitVec 32) (c : ClassDesc) : ClassDesc := { c with ieDl := bitAt v 1, ieSf := bitAt v 0 }

/-- CLSk_D1: a write of 0 leaves CBURST as it is; a load writes it (R403). -/
def putClass1 (img : Bool) (v : BitVec 32) (c : ClassDesc) : ClassDesc :=
  let n := vbits v 16 15
  { c with cburst := if !img && n == 0 then c.cburst else n, gwr := vbits v 0 13 }

/-- A bucket's difference from CBURST when CBURST changes: the level stays, within the new bounds. -/
def rebase (old new : Nat) (d : Int) : Int := max (-2 * (new : Int)) (min 0 ((old : Int) + d - new))

/-- CLSk_D1, with the class buckets of both channels. -/
def writeClass1 (k : Fin 16) (v : BitVec 32) (x : Slice) : Slice :=
  let old := x.1.cls[k].cburst.toNat
  let y := onRegs (modCls k (putClass1 false v)) x
  let new := y.1.cls[k].cburst.toNat
  if old == new then y
  else onMach (fun _ m => bothHalves.foldl (fun m c => modChan c (fun ch => { ch with bucket := tabMod 0 ch.bucket k.val (rebase old new) }) m) m) y

/-- The registers of the service range. -/
def svcWrite (off : Nat) (v : BitVec 32) (x : Slice) : Slice :=
  if off == 0x4000 then onRegs (fun g => { g with svcOrder := bitAt v 1, svcReg := bitAt v 0 }) x
  else if off == 0x4008 then writeLblCtl v x
  else if off == 0x4014 then onRegs (fun g => { g with lblLsel := vbits v 0 12 }) x
  else if decide (0x4100 ≤ off) && decide (off < 0x4200) then
    let k := fin16 ((off - 0x4100) / 16)
    let o := off % 16
    if o == 0 then onRegs (modCls k (putClass0 v)) x
    else if o == 4 then writeClass1 k v x
    else if o == 8 then onRegs (modCls k (putClass2 v)) x
    else x
  else if decide (0x4300 ≤ off) && decide (off < 0x4380) && off % 8 == 4 then
    let k := fin16 ((off - 0x4300) / 8)
    onRegs (fun g => { g with mack := g.mack.set k.val v k.isLt }) x
  else x

end Sys2Proof.Machine
end

