-- ==== Sys2Proof/Machine/Vi.lean ====
section
/-!
DEFINITION. Virtual instances (chapter 16): the commands RESET, FREEZE, THAW, SAVE and RESTORE (R499 to R503) and the save record
(Table 16.3).
-/

namespace Sys2Proof.Machine

/-! ## Ending an instance's work (R500, R501) -/

/-- Change an instance entry. -/
def modInst (i : BitVec 6) (f : Instance → Instance) (g : Regs) : Regs := { g with insts := tabMod Instance.off g.insts i.toNat f }

/-- The running programs of the instance fault with cause 0x7, or leave out the closing of their groups where they have faulted already
(R376). -/
def stopPrograms (g : Regs) (i : BitVec 6) (m : Mach) : Mach :=
  bothHalves.foldl (fun m h => bothHalves.foldl (fun m k =>
    let s := seqAt m h k
    if s.run.any fun r => r.inst == i then
      (if faulted s then skipDiscards h k m else faultSeq g h k 7 .errPerm s.pc m)
    else m) m) m

/-- The instance's accumulation groups close without a result (R295). -/
def closeInstGroups (i : BitVec 6) (m : Mach) : Mach :=
  bothHalves.foldl (fun m h => (List.finRange 16).foldl (fun m n =>
    let gr := agroupAt m h n
    if gr.isOpen && gr.inst == i then closeAGroup h n (detachGroup h n m) else m) m) m

/-- Queued INVOKEs of the instance complete with ERR_PERM. -/
def expelInvokes (i : BitVec 6) (m : Mach) : Mach :=
  bothHalves.foldl (fun m h =>
    let rs := (halfAt m h).iq.filter fun r => r.inst == i
    refuseAll rs .errPerm (modHalf h (fun hs => { hs with iq := hs.iq.filter fun r => r.inst != i }) m)) m

/-- The open reduction groups of the instance in a half. -/
def instGroups (hs : HalfSt) (i : BitVec 6) : List (BitVec 6) :=
  hs.groups.filterMap fun x => match x.2 with
    | some gr => if gr.inst == i && !gr.closing then some (BitVec.ofNat 6 x.1) else none
    | none => none

/-- They close as by GRP_ABORT (R346), and are counted in ABORTS. -/
def abortInstGroups (i : BitVec 6) (m : Mach) : Mach :=
  let n := bothHalves.foldl (fun n h => n + (instGroups (halfAt m h) i).length) 0
  let m := bothHalves.foldl (fun m h => (instGroups (halfAt m h) i).foldl (fun m gid => abortGroup h gid m) m) m
  { m with vi := { m.vi with aborts := BitVec.ofNat 12 n } }

/-- What RESET and FREEZE have in common. -/
def endWork (i : BitVec 6) (m : Mach) : Mach :=
  abortInstGroups i (expelInvokes i (expelWaits (fun r => r.inst == i) .errPerm m))

/-! ## Work that remains -/

/-- The sender of the request acts for an instance. -/
def ofInstance (o : Origin) : Bool :=
  match o with
  | .port _ | .fwd .. | .seq .. | .feed .. | .drain _ | .grp .. => true
  | .logger | .save | .dump _ | .remote .. | .range _ | .bellows => false

/-- Every request in the slice that is accepted and not completed. -/
def openRequests (m : Mach) : List Req :=
  safeReqs m 0 ++ safeReqs m 1 ++ allPorts.flatMap (fun p => (portAt m p).txns.map (·.req))
    ++ (List.finRange 4).flatMap (fun k => m.seqs[k].run.toList ++ m.seqs[k].txns.map (·.req))
    ++ m.todo ++ m.unitDone.map (·.1) ++ m.coh.fwdOut.map (·.req)

/-- Anvil operations queued or in flight, as INST and GEN. -/
def anvilWork (a : Anvil) : List (BitVec 6 × BitVec 4) :=
  (a.q[0] ++ a.q[1] ++ a.mac.toList.map (·.op) ++ a.tree.map (·.op) ++ a.drn.toList.map (·.op)).map fun o => (o.inst, o.gen)

/-- Work of the instance remains; `gen` names one generation of it. -/
def workLeft (m : Mach) (i : BitVec 6) (gen : Option (BitVec 4)) : Bool :=
  let mine := fun (x : BitVec 6 × BitVec 4) => x.1 == i && (match gen with | some n => x.2 == n | none => true)
  ((openRequests m).filter fun r => ofInstance r.origin).any (fun r => mine (r.inst, r.gen))
    || bothHalves.any fun h => (anvilWork (anvAt m h)).any mine

/-! ## The save record (Table 16.3) -/

/-- Blocks of counters that the instance owns. -/
def ownedBlocks (g : Regs) (i : BitVec 6) : List Nat :=
  (List.range 64).filter fun k => let o := g.ctrOwn.toList.getD k ⟨false, 0⟩; o.v && o.inst == i

/-- Open accumulation groups of the instance in a half. -/
def ownedGroups (m : Mach) (h : Half) (i : BitVec 6) : List (Fin 16) :=
  (List.finRange 16).filter fun n => (agroupAt m h n).isOpen && (agroupAt m h n).inst == i

/-- A line from elements of w bits, the first lowest. -/
def packLine (w : Nat) (xs : List Nat) : Line := BitVec.ofNat 2048 (packElems w xs)

/-- Counters 128k to 128k + 127, in eight lines. -/
def counterLines (m : Mach) (k : Nat) : List Line :=
  (List.range 8).map fun l => packLine 64 ((List.range 16).flatMap fun j =>
    let c := counterAt m (BitVec.ofNat 13 (128 * k + 16 * l + j))
    [c.landed.toNat, c.settled.toNat])

/-- Outputs of a group as rows and bands: those of a REDUCE group are its 32 rows. -/
def groupRows (gr : AGroup) : Nat := if grpFunc gr == 7 then (shapeDims (grpShape gr)).1 else 32
def groupBands (gr : AGroup) : Nat := if grpFunc gr == 7 then shapeBands (grpShape gr) else 1

/-- The slot key of the output in row i and column j of a band. -/
def outKey (gr : AGroup) (i j b : Nat) : Nat :=
  if grpFunc gr == 7 then
    let (ci, cj, role) := outPlace (grpShape gr) i j b
    4 * (32 * ci + cj) + (roleSlots gr.w0).getD role 0
  else 4 * (32 * i + j) + ((slotList (grpSlots gr)).head?).getD 0

/-- The bit of a band and a row pair. -/
def partBit (gr : AGroup) (i b : Nat) : Nat := b * (groupRows gr / 2) + i / 2

/-- The bits of bytes 16 to 19. -/
def partBits (gr : AGroup) : BitVec 32 :=
  (List.range (groupBands gr)).foldl (fun (a : BitVec 32) b =>
    (List.range (groupRows gr)).foldl (fun (a : BitVec 32) i =>
      if (tabGet none gr.part (outKey gr i 0 b)).isSome then a ||| (1#32 <<< partBit gr i b) else a) a) 0

/-- The row and the band of the output in a slot key. -/
def keyOut (gr : AGroup) (k : Nat) : Nat × Nat :=
  if grpFunc gr == 7 then
    let (row, _, band) := placeOut (grpShape gr) (k / 128) (k / 4 % 32) ((roleSlots gr.w0).idxOf (k % 4))
    (row, band)
  else (k / 128, 0)

/-- The park area: 4 KiB per slot, cell after cell (log 18). -/
def parkLines (gr : AGroup) : List Line :=
  (slotList (grpSlots gr)).flatMap fun q => (List.range 16).map fun l =>
    packLine 32 ((List.range 64).map fun c => (tabGet 0 gr.park (4 * (64 * l + c) + q)).toNat)

/-- The spill area: 6 bytes per value, slot after slot (log 18). -/
def spillLines (gr : AGroup) : List Line :=
  if grpSpill gr == 0 then []
  else
    let qs := slotList (grpSlots gr)
    let x := packElems 48 (qs.flatMap fun q => (List.range 1024).map fun c => ((tabGet none gr.part (4 * c + q)).getD 0).toNat)
    (List.range (24 * qs.length)).map fun l => BitVec.ofNat 2048 (x / 2 ^ (2048 * l))

/-- A group's header and its units. -/
def groupRecord (gr : AGroup) : List Line :=
  let units := unitsOf gr.w0 gr.w2
  let code : BitVec 3 := match gr.fail with | some c => c.bits | none => 0
  let flags := (if gr.ovf then 1 else 0) + if gr.wrap then 2 else 0
  let head := packLine 32 [gr.w0.toNat, gr.w2.toNat, gr.k % 2 ^ 32, gr.s % 256 + code.toNat * 2 ^ 8 + units * 2 ^ 16 + flags * 2 ^ 24, (partBits gr).toNat]
  let body := parkLines gr ++ spillLines gr
  head :: (body ++ List.replicate (8 * units - body.length) 0)

/-- The record after its header. -/
def recordBody (g : Regs) (m : Mach) (i : BitVec 6) : List Line :=
  (ownedBlocks g i).flatMap (counterLines m)
    ++ bothHalves.flatMap fun h => (ownedGroups m h i).flatMap fun n => groupRecord (agroupAt m h n)

/-- Numbers as a mask. -/
def maskOfNats (ks : List Nat) : Nat := ks.foldl (fun a k => a + 2 ^ k) 0

def bytesOfLines (ls : List Line) : List (BitVec 8) := ls.flatMap fun l => bytesOf l 0 256

/-- The header. -/
def recordHeader (g : Regs) (m : Mach) (i : BitVec 6) (body : List Line) : Line :=
  let len := 256 * (1 + body.length)
  let groups := fun (h : Half) => maskOfNats ((ownedGroups m h i).map (·.val))
  let first := packElems 32 [0x45564153, 1 + (ownSlice m).toNat * 2 ^ 16 + i.toNat * 2 ^ 24, (sliceWord m 18).toNat, len,
    maskOfNats (ownedBlocks g i) % 2 ^ 32, maskOfNats (ownedBlocks g i) / 2 ^ 32, groups 0 + groups 1 * 2 ^ 16,
    (crc32c (bytesOfLines body)).toNat]
  BitVec.ofNat 2048 (first + (crc32c (bytesOf (BitVec.ofNat 256 first) 0 32)).toNat * 2 ^ 256)

/-- Lines as a table. -/
def linesTab (ls : List Line) : Tab Line := (ls.zipIdx.map fun x => (x.2, x.1)).filter fun x => x.2 != 0

/-! ## SAVE and RESTORE (R502, R503) -/

/-- The command ends. -/
def viEnd (result : BitVec 3) (m : Mach) : Mach := { m with vi := { m.vi with busy := false, result := result, job := none } }

/-- A record starts to move. -/
def viStart (g : Regs) (j : ViCmd) (m : Mach) : Mach := viIssue 64 g { m with vi := { m.vi with job := some j } }

/-- SAVE: the range is checked, then the seated groups park and the record is written. -/
def startSave (g : Regs) (i : BitVec 6) (m : Mach) : Mach :=
  let size := 256 * (1 + (recordBody g m i).length)
  if !recordFits g m i size then viEnd 4 m
  else
    let m := bothHalves.foldl (fun m h => (ownedGroups m h i).foldl (fun m n =>
      if (agroupAt m h n).seated then parkGroup g h n m else m) m) m
    let body := recordBody g m i
    viStart g ⟨4, i, 0, [], linesTab (recordHeader g m i body :: body), 1 + body.length, 0, none⟩ m

/-- RESTORE reads the header first. -/
def startRestore (g : Regs) (i : BitVec 6) (m : Mach) : Mach :=
  if !recordFits g m i 256 then viEnd 4 m else viStart g ⟨5, i, 0, [], [], 1, 0, none⟩ m

/-- A group of a record: its half and number, its header line, and the line after which its units stand. -/
structure SavedGroup where
  half : Half
  num  : Fin 16
  line : Nat

/-- The groups of a record from line n on, in order. -/
def savedGroups (ls : Tab Line) (n : Nat) (gs : List (Half × Fin 16)) : List SavedGroup :=
  match gs with
  | [] => []
  | (h, k) :: r => ⟨h, k, n⟩ :: savedGroups ls (n + 1 + 8 * ((imgLine ls n).extractLsb' 112 8).toNat) r

/-- Units of a saved group. -/
def savedUnits (ls : Tab Line) (x : SavedGroup) : Nat := ((imgLine ls x.line).extractLsb' 112 8).toNat

/-- What a header lists. -/
def savedBlocks (l0 : Line) : List Nat := (List.range 64).filter fun k => l0.getLsbD (128 + k)
def savedNames (l0 : Line) : List (Half × Fin 16) :=
  bothHalves.flatMap fun h => ((List.finRange 16).filter fun n => l0.getLsbD (192 + 16 * h.val + n.val)).map fun n => (h, n)

def recordGroups (ls : Tab Line) : List SavedGroup :=
  savedGroups ls (1 + 8 * (savedBlocks (imgLine ls 0)).length) (savedNames (imgLine ls 0))

/-- MAGIC, FMTVER, HCRC and ICRC of a record. -/
def recordSound (ls : Tab Line) : Bool :=
  let l0 := imgLine ls 0
  let len := recordLen l0
  let body := (bytesOfLines ((List.range (recordLines len - 1)).map fun i => imgLine ls (i + 1))).take (len - 256)
  l0.extractLsb' 0 32 == 0x45564153 && l0.extractLsb' 32 16 == 1 && l0.extractLsb' 256 32 == crc32c (bytesOf l0 0 32)
    && l0.extractLsb' 224 32 == crc32c body

/-- The slice can take the record (R503). -/
def recordMatches (g : Regs) (m : Mach) (i : BitVec 6) (ls : Tab Line) : Bool :=
  let l0 := imgLine ls 0
  let gs := recordGroups ls
  let blocks := savedBlocks l0
  l0.extractLsb' 48 8 == (ownSlice m).setWidth 8
    && blocks.all (fun k => (ownedBlocks g i).contains k && !(m.parked.any fun r => (ctrNum r.addr).toNat / 128 == k))
    && gs.all (fun x => !(agroupAt m x.half x.num).isOpen && !(frugal m && x.half == 1))
    && bothHalves.all fun h => decide ((gs.filter fun x => x.half == h).foldl (fun n x => n + savedUnits ls x) 0 ≤ cruFree m h)

/-- 32-bit word at a byte offset past line n of a record. -/
def recordWord (ls : Tab Line) (n off : Nat) : BitVec 32 := imgWord ls (256 * n + off)

/-- 48-bit value i of a spill area that begins at a byte offset past line n. -/
def recordSpill (ls : Tab Line) (n off i : Nat) : BitVec 48 :=
  let b := 256 * n + off + 6 * i
  let byte := fun (k : Nat) => ((imgLine ls ((b + k) / 256)).extractLsb' (8 * ((b + k) % 256)) 8).toNat
  BitVec.ofNat 48 (packElems 8 ((List.range 6).map byte))

/-- A saved group as it opens: parked, with the fields and the Crucible contents of its record. -/
def openSaved (i : BitVec 6) (ls : Tab Line) (x : SavedGroup) : AGroup :=
  let w := fun (o : Nat) => recordWord ls x.line o
  let info := w 12
  let code := info.extractLsb' 8 3
  let gr : AGroup := { AGroup.closed with
    isOpen := true, inst := i, w0 := w 0, w2 := w 4, k := (w 8).toNat, s := (info.extractLsb' 0 8).toNat
    fail := if code == 0 then none else some (Code.ofBits code), ovf := bitAt info 24, wrap := bitAt info 25, seated := false }
  let qs := slotList (grpSlots gr)
  let park := (List.range 4096).filterMap fun k =>
    if !qs.contains (k % 4) then none
    else
      let v := recordWord ls (x.line + 1) (4096 * (qs.idxOf (k % 4)) + 4 * (k / 4))
      if v == 0 then none else some (k, v)
  let bits := w 16
  let parts := (List.range 4096).filterMap fun k =>
    let (row, band) := keyOut gr k
    if grpSpill gr != 0 && qs.contains (k % 4) && bits.getLsbD (partBit gr row band) then
      some (k, some (recordSpill ls (x.line + 1) (4096 * qs.length) (1024 * qs.idxOf (k % 4) + k / 4)))
    else none
  { gr with park := park, part := if bits == 0 then [] else parts }

/-- A saved group opens in its half. -/
def installGroup (g : Regs) (i : BitVec 6) (ls : Tab Line) (x : SavedGroup) (m : Mach) : Mach :=
  let gr := openSaved i ls x
  cruWrite g x.half (parkWords x.num.val (grpSlots gr) ++ partWords x.num.val gr) (setAGroup x.half x.num gr m)

/-- The counters of a saved block. -/
def installBlock (ls : Tab Line) (place block : Nat) (m : Mach) : Mach :=
  (List.range 128).foldl (fun m j =>
    let v := fun (o : Nat) => recordWord ls (1 + 8 * place) (16 * j + o)
    updateCounter (BitVec.ofNat 13 (128 * block + j)) ⟨v 4 ++ v 0, v 12 ++ v 8⟩ m) m

/-- A record is installed. -/
def installRecord (g : Regs) (i : BitVec 6) (ls : Tab Line) (m : Mach) : Mach :=
  let m := (savedBlocks (imgLine ls 0)).zipIdx.foldl (fun m x => installBlock ls x.2 x.1 m) m
  (recordGroups ls).foldl (fun m x => installGroup g i ls x m) m

/-- Every line has moved, or the command has failed and nothing is in flight. -/
def viMoved (j : ViCmd) : Bool := j.await.isEmpty && (j.fail.isSome || decide (j.len ≤ j.next))

/-- A save or restore ends. VI_SAVEN takes the length of a record that was written or read whole. -/
def endRecord (g : Regs) (j : ViCmd) (m : Mach) : Mach :=
  let m' := { m with vi := { m.vi with saveN := BitVec.ofNat 32 (recordLen (imgLine j.lines 0)) } }
  match j.fail with
  | some r => viEnd r m
  | none =>
    if j.cmd == 4 then viEnd 0 m'
    else if !recordSound j.lines then viEnd 2 m'
    else if !recordMatches g m j.inst j.lines then viEnd 3 m'
    else viEnd 0 (installRecord g j.inst j.lines m')

/-! ## The commands (R499) -/

/-- The state that a command requires (Table 16.2). -/
def viReady (x : Instance) (cmd : BitVec 3) : Bool := x.en && (if cmd == 1 || cmd == 2 then !x.frz else x.frz)

/-- A command whose end waits for the instance's work. -/
def viWait (cmd : BitVec 3) (i : BitVec 6) (gen : BitVec 4) (m : Mach) : Mach :=
  { m with vi := { m.vi with job := some ⟨cmd, i, gen, [], [], 0, 0, none⟩ } }

/-- What a command does on an instance in the state that it requires. -/
def viEffect (cmd : BitVec 3) (i : BitVec 6) (x : Slice) : Slice :=
  let gen := (instOf x.1 i).gen
  let next := onRegs (modInst i fun e => { e with gen := e.gen + 1, frz := false }) x
  if cmd == 1 then onMach (fun g m => viWait 1 i gen (endWork i (closeInstGroups i (stopPrograms g i m)))) next
  else if cmd == 2 then onMach (fun _ m => viWait 2 i gen (endWork i m)) (onRegs (modInst i fun e => { e with frz := true }) x)
  else if cmd == 3 then onMach (fun _ m => viEnd 0 m) next
  else if cmd == 4 then onMach (fun g m => startSave g i m) x
  else onMach (fun g m => startRestore g i m) x

/-- A write to VI_CMD: ignored while BUSY and with a reserved CMD (R499). -/
def writeViCmd (v : BitVec 32) (x : Slice) : Slice :=
  let cmd := vbits v 0 3
  let i := x.1.viSel
  if x.2.vi.busy || cmd == 0 || decide (5 < cmd.toNat) then x
  else
    let ok := viReady (instOf x.1 i) cmd
    let x := onMach (fun _ m => { m with vi := { m.vi with busy := ok, cmd := cmd, inst := i, result := if ok then 0 else 1 } }) x
    if ok then viEffect cmd i x else x

/-- The end of a command's work (Table 16.2). -/
def viStep (g : Regs) (m : Mach) : Mach :=
  match m.vi.job with
  | none => m
  | some j =>
    if j.cmd == 1 then (if workLeft m j.inst (some j.gen) then m else viEnd 0 m)
    else if j.cmd == 2 then (if workLeft m j.inst none then m else viEnd 0 m)
    else if viMoved j then endRecord g j m
    else m

/-- VI_CMD_DONE (R499). -/
def execViCmdDone (s : State) : Host.Outcome State Fault Refusal := run viStep s

end Sys2Proof.Machine
end

