-- ==== Sys2Proof/Machine/RegUnits.lean ====
section
/-!
DEFINITION. Writes to the registers of the Anvil, the sequencers, error protection, power and the start journal (chapters 09, 11, 14, 15).
-/

namespace Sys2Proof.Machine

/-! ## Anvil and sequencers (R322, R378, R379) -/

def setSeqEn (h k : Half) (v : Bool) (g : Regs) : Regs := { g with seqEn := g.seqEn.set (seqIx h k).val v (seqIx h k).isLt }

/-- EN of both sequencers of a half. -/
def putSeqEn (h : Half) (v : BitVec 32) (g : Regs) : Regs := setSeqEn h 1 (bitAt v 1) (setSeqEn h 0 (bitAt v 0) g)

/-- KILLk faults a running program with cause 0x5. -/
def killSeq (g : Regs) (h k : Half) (m : Mach) : Mach := faultSeq g h k 5 .errRefused (seqAt m h k).pc m

/-- SEQn_CTL (R378). -/
def writeSeqCtl (h : Half) (v : BitVec 32) (x : Slice) : Slice :=
  let x := onRegs (putSeqEn h v) x
  onMach (fun g m => bothHalves.foldl (fun m k => if bitAt v (4 + k.val) then killSeq g h k m else m) m) x

def setAnvEn (h : Half) (v : Bool) (g : Regs) : Regs := { g with anvEn := g.anvEn.set h.val v h.isLt }

/-- The registers of the Anvil and the sequencers of a half. -/
def anvWrite (h : Half) (off : Nat) (v : BitVec 32) (x : Slice) : Slice :=
  if off == 0x00 then onRegs (setAnvEn h (bitAt v 0)) x
  else if off == 0x80 then writeSeqCtl h v x
  else x

/-! ## Error protection (R463, R464, R466, R472, R473) -/

/-- FORCEn puts a half in its safe state; Half 1 does not exist under FRUGAL. -/
def forceSafe (v : BitVec 32) (m : Mach) : Mach :=
  let m := if bitAt v 6 then causeSafe 0 6 0 m else m
  if bitAt v 7 && !frugal m then causeSafe 1 6 0 m else m

/-- RAS_CTL (R466). -/
def writeRasCtl (v : BitVec 32) (x : Slice) : Slice :=
  onMach (fun _ m => forceSafe v m)
    (onRegs (fun g => { g with rasAuto := bitAt v 5, ieQn := bitAt v 4, ieVio := bitAt v 3, ieLoss := bitAt v 2 }) x)

/-- R464 ignores an arming write with a position beyond the code word or a reserved array. -/
def injRefused (v : BitVec 32) : Bool :=
  decide (265 < (vbits v 0 9).toNat) || (bitAt v 25 && decide (265 < (vbits v 9 9).toNat)) || bitAt v 29

/-- RAS_INJ (R464, R471). -/
def writeInj (v : BitVec 32) (x : Slice) : Slice :=
  let arm := bitAt v 31
  if arm && injRefused v then x
  else
    onMach (fun _ m => { m with ras := { m.ras with armed := arm } })
      (onRegs (fun g => { g with injHalf := bitAt v 30, injArray := vbits v 26 4, injTwo := bitAt v 25, injPosB := vbits v 9 9, injPosA := vbits v 0 9 }) x)

/-- A remap or a release that Table 14.9 ignores. -/
def remapRefused (hs : HalfSt) (v : BitVec 32) : Bool :=
  let used := (tabGet Remap.none hs.remap (vbits v 26 4).toNat).v
  hs.rcopy.isSome
    || (if bitAt v 30 then !used
        else used || decide (23 < (vbits v 16 5).toNat) || (remapOf hs (vbits v 0 13).toNat (vbits v 16 5).toNat).isSome)

/-- The copy of a remap or a release (R459). -/
def remapCopyOf (hs : HalfSt) (v : BitVec 32) : RemapCopy :=
  let n := (vbits v 26 4).toNat
  let e := tabGet Remap.none hs.remap n
  if bitAt v 30 then ⟨n, true, false, e.way, e.set, 0, false⟩
  else ⟨n, false, false, vbits v 16 5, vbits v 0 13, 0, false⟩

/-- RMn_CMD (R472). -/
def writeRemap (h : Half) (v : BitVec 32) (x : Slice) : Slice :=
  let go := bitAt v 31
  let put := fun (g : Regs) => { g with rmCmd := g.rmCmd.set h.val (v &&& 0x7C1F1FFF) h.isLt }
  if !go then onRegs put x
  else if remapRefused (halfAt x.2 h) v then x
  else onMach (fun _ m => modHalf h (fun hs => { hs with rcopy := some (remapCopyOf hs v) }) m) (onRegs put x)

/-- QNn_CTL: ACK, then ABORT of a running pass, or GO of a new one. A GO while BUSY is ignored (R463, R473). -/
def writeQuench (h : Half) (v : BitVec 32) (x : Slice) : Slice :=
  let x := onRegs (fun g => { g with qnArrays := g.qnArrays.set h.val (vbits v 0 6) h.isLt }) x
  let x := if bitAt v 8 then onMach (fun _ m => modHalf h (fun hs => { hs with qn := { hs.qn with dn := false } }) m) x else x
  if (halfAt x.2 h).qn.busy then (if bitAt v 7 then onMach (fun _ m => endQuench h 1 m) x else x)
  else if bitAt v 6 then onMach (fun g m => startQuench g h m) x else x

/-- The Quench registers of a half. -/
def qnWrite (h : Half) (off : Nat) (v : BitVec 32) (x : Slice) : Slice :=
  if off == 0x00 then
    (if (halfAt x.2 h).qn.busy then x
     else onRegs (fun g => { g with qnFirst := g.qnFirst.set h.val (vbits v 0 13) h.isLt, qnLast := g.qnLast.set h.val (vbits v 16 13) h.isLt }) x)
  else if off == 0x04 then writeQuench h v x
  else x

/-- The registers of the reliability range. -/
def rasWrite (off : Nat) (v : BitVec 32) (x : Slice) : Slice :=
  if off == 0x00 then writeRasCtl v x
  else if off == 0x24 then onRegs (fun g => { g with lossAck := v }) x
  else if off == 0x2C then onRegs (fun g => { g with lossSel := vbits v 0 6 }) x
  else if off == 0x44 then onRegs (fun g => { g with vioAck := v }) x
  else if off == 0x4C then onRegs (fun g => { g with vioSel := vbits v 0 6 }) x
  else if off == 0x80 then writeInj v x
  else if off == 0x180 || off == 0x188 then writeRemap (halfIx ((off - 0x180) / 8)) v x
  else if decide (0x200 ≤ off) && decide (off < 0x280) then qnWrite (halfIx ((off - 0x200) / 0x40)) (off % 0x40) v x
  else x

/-! ## Power and the journal (R480, R489, R491) -/

/-- The fields of PWR_CTL: a write leaves RETIDLE and STOPIDLE as they are where out of range; a load writes all fields (R403, R489). -/
def putPower (img : Bool) (v : BitVec 32) (g : Regs) : Regs :=
  let r := vbits v 16 10
  let s := vbits v 0 16
  { g with
    holdclk := bitAt v 31, reten := bitAt v 30, iePto := bitAt v 29, retidle := if !img && r == 0 then g.retidle else r
    stopidle := if !img && decide (s.toNat < 16) then g.stopidle else s }

/-- PWR_CTL. -/
def writePower (v : BitVec 32) (x : Slice) : Slice := demandHeld (onRegs (putPower false v) x)

/-- A record that a write with CLR names (R491). -/
def clearRec (r : JrnRec) : JrnRec := { r with state := 0, att := 0, fails := 0 }

/-- JRN_CTL (R491, R492): CLR is ignored while RUN is 1. -/
def writeJrnCtl (v : BitVec 32) (x : Slice) : Slice :=
  let steps := vbits v 0 12
  let clr := fun (j : Jrn) => { j with dn := false, recs := j.recs.mapFinIdx fun i r _ => if steps.getLsbD i then clearRec r else r }
  if bitAt v 31 && x.2.jrn.run then x
  else
    let x := onRegs (fun g => { g with jrnIe := bitAt v 30, jrnSteps := steps }) x
    if bitAt v 31 then onMach (fun _ m => { m with jrn := clr m.jrn }) x else x

/-! ## Loading (R396, R400, R401, R407) -/

/-- The conditions of R400 on a slice that is not in a safe state. -/
def reloadIdle (g : Regs) (m : Mach) : Bool :=
  allPorts.all (fun p => !g.rpEn[p])
    && bothHalves.all (fun h => (halfAt m h).groups.isEmpty && (List.finRange 16).all (fun n => !(agroupAt m h n).isOpen)
      && (seqAt m h 0).run.isNone && (seqAt m h 1).run.isNone && (halfAt m h).iq.isEmpty)
    && !m.re.busy

/-- A reload in the safe state first ends programs, INVOKEs and groups (R401). -/
def reloadSafe (g : Regs) (m : Mach) : Mach :=
  let m := bothHalves.foldl (fun m h => bothHalves.foldl (fun m k => killSeq g h k m) m) m
  let m := bothHalves.foldl (fun m h => completeAll (halfAt m h).iq .errSafe 0 (modHalf h (fun hs => { hs with iq := [] }) m)) m
  let m := bothHalves.foldl (fun m h => (halfAt m h).groups.foldl (fun m x => closeGroup g h (BitVec.ofNat 6 x.1) m) m) m
  bothHalves.foldl (fun m h => (List.finRange 16).foldl (fun m n => if (agroupAt m h n).isOpen then closeAGroup h n m else m) m) m

/-- A load ends in failure; where no line is named, LINE is free. -/
def loadFailed (code : Nat) (line : Option Nat) (m : Mach) : Mach :=
  let l := match line with | some n => BitVec.ofNat 11 n | none => (Config.freeWord m.freeCtr).setWidth 11
  let m := if line.isNone then spend m else m
  { m with img := { m.img with result := BitVec.ofNat 4 code, line := l, load := none } }

/-- A load ends without reading a line. -/
def loadFails (slot : Bool) (code : Nat) (m : Mach) : Mach :=
  loadFailed code none { m with img := { m.img with aslot := slot } }

/-- A load of a slot starts (R396 steps 1 and 2, R400, R401). -/
def startLoad (g : Regs) (slot : Bool) (m : Mach) : Mach :=
  let safe := (halfAt m 0).safe || (halfAt m 1).safe
  if m.img.loaded && !safe && !reloadIdle g m then loadFails slot resNOTIDLE m
  else
    let m := if m.img.loaded && safe then reloadSafe g m else m
    if !chanJoined m 0 then loadFails slot resNOCHAN m
    else askImage slot [0] { m with img := { m.img with aslot := slot, load := some ⟨slot, [], 1, none⟩ } }

/-- IMG_CTL (R407): a write with LOAD is ignored while BUSY is 1. -/
def writeImgCtl (v : BitVec 32) (x : Slice) : Slice :=
  let go := bitAt v 0
  if go && x.2.img.load.isSome then x
  else
    let x := onRegs (fun g => { g with imgSlot := bitAt v 1 }) x
    if go then onMach (fun g m => startLoad g (bitAt v 1) m) x else x

/-- The registers of the power and start range. -/
def pwrWrite (off : Nat) (v : BitVec 32) (x : Slice) : Slice :=
  if off == 0x000 then writePower v x
  else if off == 0x010 then writeJrnCtl v x
  else if off == 0x100 then writeImgCtl v x
  else x

end Sys2Proof.Machine
end

