-- ==== Sys2Proof/Machine/RegHost.lean ====
section
/-!
DEFINITION. Writes to the registers of virtual instances, debug, the ports, the mailbox and the indirect pair (chapters 16, 17, 02, 03, 18).
-/

namespace Sys2Proof.Machine

/-! ## Virtual instances (R497, R504, R507, R510, R513 to R516) -/

/-- VI_CTL (R504). -/
def writeViCtl (v : BitVec 32) (x : Slice) : Slice :=
  let i := x.1.viSel
  let e := instOf x.1 i
  if bitAt v 31 then (if e.en then x else onRegs (modInst i fun e => { e with en := true, frz := false }) x)
  else if e.en && e.frz && !x.2.vi.busy then
    onMach (fun _ m => closeInstGroups i m) (onRegs (modInst i fun e => { e with en := false, frz := false }) x)
  else x

/-- Change the window that VI_WSEL names. -/
def modWindow (f : Window → Window) (g : Regs) : Regs := { g with windows := tabMod Window.off g.windows g.viWsel.toNat f }

/-- R497 refuses to enable the window. -/
def windowRefused (m : Mach) (w : Window) : Bool :=
  let a := w.base.toNat * 2 ^ 21
  let n := w.size.toNat * 2 ^ 21
  w.size == 0 || decide (2 ^ 52 < a + n) || meetsReserved m a n

/-- VI_WCTL (R497, R515). -/
def writeViWctl (v : BitVec 32) (x : Slice) : Slice :=
  let w := tabGet Window.off x.1.windows x.1.viWsel.toNat
  let en := bitAt v 31
  if en && windowRefused x.2 w then x
  else onRegs (modWindow fun w => { w with en := en, inst := if w.en then w.inst else vbits v 0 6 }) x

/-- DL_CTL (R507, R510): a write that sets EN on a package of more than 8 slices is ignored. SWITCH flips ACT and empties the filter. -/
def writeDlCtl (v : BitVec 32) (x : Slice) : Slice :=
  let en := bitAt v 31
  if en && !x.1.dlEn && decide (8 < sliceCount x.2) then x
  else
    let x := onRegs (fun g => { g with dlEn := en, dlInst := vbits v 0 6 }) x
    if bitAt v 30 then onMach (fun _ m => { m with vi := { m.vi with filter := [] } }) (onRegs (fun g => { g with dlAct := !g.dlAct }) x) else x

/-- The registers of the instance range. -/
def viWrite (off : Nat) (v : BitVec 32) (x : Slice) : Slice :=
  let dl := fun (f : Regs → Regs) => if x.1.dlEn then x else onRegs f x
  if off == 0x00 then onRegs (fun g => { g with viSel := vbits v 0 6 }) x
  else if off == 0x04 then writeViCtl v x
  else if off == 0x0C then writeViCmd v x
  else if off == 0x18 then onRegs (fun g => { g with viSaveL := vbits v 8 24 }) x
  else if off == 0x1C then onRegs (fun g => { g with viSaveH := vbits v 0 20 }) x
  else if off == 0x40 then onRegs (fun g => { g with viWsel := vbits v 0 8 }) x
  else if off == 0x44 then onRegs (modWindow fun w => if w.en then w else { w with base := vbits v 0 31 }) x
  else if off == 0x48 then onRegs (modWindow fun w => if w.en then w else { w with size := vbits v 0 20 }) x
  else if off == 0x4C then writeViWctl v x
  else if off == 0x80 then writeDlCtl v x
  else if off == 0x88 then dl fun g => { g with dlRbase := vbits v 0 22 }
  else if off == 0x8C then dl fun g => { g with dlPages := vbits v 0 25 }
  else if off == 0x90 then dl fun g => { g with dlBAL := vbits v 12 20 }
  else if off == 0x94 then dl fun g => { g with dlBAH := vbits v 0 20 }
  else if off == 0x98 then dl fun g => { g with dlBBL := vbits v 12 20 }
  else if off == 0x9C then dl fun g => { g with dlBBH := vbits v 0 20 }
  else x

/-! ## Timestamps and offsets (R520, R522) -/

/-- OFS_CTL: REMEAS is ignored while a measurement runs. -/
def writeOfs (v : BitVec 32) (x : Slice) : Slice :=
  let p := vbits v 0 5
  let x := onRegs (fun g => { g with ofsPkg := p }) x
  if bitAt v 31 && x.2.dbg.meas.isNone then onMach (fun _ m => startMeasure p m) x else x

/-! ## Halts (R523 to R525) -/

/-- RESUMEk and STEPk act on a halted sequencer, or take back a halt that is due. -/
def resumeSeq (g : Regs) (h k : Half) (one : Bool) (m : Mach) : Mach :=
  let s := seqAt m h k
  if s.haltDue then modSeq h k (fun s => { s with haltDue := false, oneStep := one }) m
  else if !s.halted then m
  else
    let m := modSeq h k (fun s => { s with halted := false, whyBp := false, skipBp := true, oneStep := one }) m
    traceEvent g h k 4 s.pc (seqOptag s) none m

/-- HALTk. Where a breakpoint stands at the next instruction, that is the reason (R539). A sequencer without a program halts before the first
issue of its next one (log 49); one whose program is ending, once it has ended. -/
def hostHalt (g : Regs) (h k : Half) (m : Mach) : Mach :=
  let s := seqAt m h k
  if s.halted then m
  else if s.run.isSome && s.stop.isSome then modSeq h k (fun s => { s with haltDue := true }) m
  else haltSeq g h k (s.run.isSome && !s.skipBp && breakHit g m h k) m

/-- SDBGn_CTL: RESUME and STEP, then HALT (log 32). -/
def writeSdbg (h : Half) (v : BitVec 32) (x : Slice) : Slice :=
  onMach (fun g m => bothHalves.foldl (fun m k =>
    let step := bitAt v (4 + k.val)
    let m := if bitAt v (2 + k.val) || step then resumeSeq g h k step m else m
    if bitAt v k.val then hostHalt g h k m else m) m) x

/-! ## Trace, profiling, dumps (R528, R531, R532) -/

/-- TRCn_CTL: ACK, then ARM, then TRIG (log 32). -/
def writeTrc (h : Half) (v : BitVec 32) (x : Slice) : Slice :=
  let cfg := fun (c : TraceCfg) => { c with om := bitAt v 28, seqs := vbits v 26 2, src := vbits v 16 4, toptag := vbits v 0 16 }
  let x := onRegs (fun g => { g with trc := g.trc.set h.val (cfg g.trc[h]) h.isLt }) x
  let x := if bitAt v 29 then onMach (fun _ m => modTrace h (fun t => { t with dn := false }) m) x else x
  let x := if bitAt v 31 then onMach (fun _ m => modTrace h armTrace m) x else x
  if bitAt v 30 then onMach (fun g m => hostTrigger g h m) x else x

/-- TRCn_DEPTH. -/
def putDepth (h : Half) (v : BitVec 32) (g : Regs) : Regs :=
  let c := g.trc[h]
  { g with trc := g.trc.set h.val { c with post := vbits v 16 11, pre := vbits v 0 11 } h.isLt }

/-- PF_CTL (R531). -/
def writePf (v : BitVec 32) (x : Slice) : Slice :=
  let v := v &&& liveBits x.2 0x93F0
  let x := onRegs (fun g => { g with pfEn := vbits v 0 2 }) x
  onMach (fun _ m => bothHalves.foldl (fun m h => if bitAt v (2 + h.val) then modHalf h (fun hs => { hs with prof := [] }) m else m) m) x

/-- PFn_CFGk and PFn_OPTk; entry k of half n is key 64n + k. -/
def putProf (key : Nat) (opt : Bool) (v : BitVec 32) (g : Regs) : Regs :=
  let upd := fun (c : ProfCfg) =>
    if opt then { c with oval := vbits v 16 16, omask := vbits v 0 16 } else { c with evt := vbits v 24 8, lmode := vbits v 12 2, lsel := vbits v 0 12 }
  { g with pfCfg := tabMod ProfCfg.none g.pfCfg key upd }

/-- The bytes of a dump's range. -/
def dumpBytes (c : DumpCfg) : Nat := 256 * c.len.toNat

/-- R532 refuses to arm: the source outside every enabled region, or the destination on an instance's, the slice's or foreign memory. -/
def dumpRefused (g : Regs) (m : Mach) (c : DumpCfg) : Bool :=
  let n := dumpBytes c
  let src := c.src.toNat * 256
  let dst := c.dst.toNat * 256
  let inside := (List.finRange 16).any fun k =>
    let r := g.hr[k]
    r.en && decide (r.base.toNat * 2 ^ 20 ≤ src) && decide (src + n ≤ (r.base.toNat + r.size.toNat) * 2 ^ 20)
  !inside || meetsWindow g (fun _ => true) dst n || meetsReserved m dst n || !inPackage m dst n

def modDmp (k : Fin 8) (f : DumpCfg → DumpCfg) (g : Regs) : Regs := { g with dmp := g.dmp.set k.val (f g.dmp[k]) k.isLt }

/-- DMPk_CTL: ACK, then ARM (log 32). -/
def writeDmpCtl (k : Fin 8) (v : BitVec 32) (x : Slice) : Slice :=
  if bitAt v 31 && dumpRefused x.1 x.2 x.1.dmp[k] then x
  else
    let x := onRegs (modDmp k fun c => { c with optag := vbits v 0 16 }) x
    let x := if bitAt v 30 then onMach (fun _ m => modDump k (fun d => { d with dn := false }) m) x else x
    if bitAt v 31 then onMach (fun _ m => modDump k (fun d => { d with armed := true, dn := false, count := 0 }) m) x else x

/-- The registers of a dump trigger (R543). -/
def dmpWrite (k : Fin 8) (off : Nat) (v : BitVec 32) (x : Slice) : Slice :=
  let put := fun (f : DumpCfg → DumpCfg) => if x.2.dbg.dumps[k].armed then x else onRegs (modDmp k f) x
  if off == 0x00 then put fun c => { c with src := (c.src &&& 0xFFFFF000000) ||| (vbits v 8 24).setWidth 44 }
  else if off == 0x04 then put fun c => { c with src := (c.src &&& 0xFFFFFF) ||| ((vbits v 0 20).setWidth 44 <<< 24) }
  else if off == 0x08 then put fun c => { c with dst := (c.dst &&& 0xFFFFF000000) ||| (vbits v 8 24).setWidth 44 }
  else if off == 0x0C then put fun c => { c with dst := (c.dst &&& 0xFFFFFF) ||| ((vbits v 0 20).setWidth 44 <<< 24) }
  else if off == 0x10 then put fun c => { c with step := v }
  else if off == 0x14 then put fun c => { c with len := vbits v 0 17 }
  else if off == 0x18 then writeDmpCtl k v x
  else x

/-! ## The global stop (R535 to R537) -/

/-- The stop takes effect: the link counts and the stamp are latched. -/
def stopNow (m : Mach) : Mach :=
  if m.dbg.stopped then { m with dbg := { m.dbg with pend := false } }
  else
    let now := stampOf m 0
    let latch := fun (l : Link) => { l with latchS := l.sent, latchR := l.rcvd }
    { m with links := m.links.map latch, dbg := { m.dbg with stopped := true, pend := false, stopTs := now } }

/-- GS_CTL: RESUME, then GO (log 32). -/
def writeGs (v : BitVec 32) (x : Slice) : Slice :=
  let sync := bitAt v 30
  let x := onRegs (fun g => { g with gsSync := sync }) x
  let x := if bitAt v 29 then onMach (fun _ m => { m with dbg := { m.dbg with stopped := false, pend := false } }) x else x
  if !bitAt v 31 then x
  else if sync then onMach (fun _ m => { m with dbg := { m.dbg with pend := true } }) x
  else onMach (fun _ m => stopNow m) x

/-! ## The mailbox (R555, R556, R540) -/

/-- The halves whose clocks a capture needs: Half 0 for counters, offsets and dump stamps, half H for a profiling counter. -/
def captureHalf (m : Mach) (src dsrc : BitVec 3) (h : Bool) : Option Half :=
  if src == 1 || src == 2 then some 0
  else if dsrc == 3 then (if h then (if frugal m then none else some 1) else some 0)
  else if dsrc == 2 || dsrc == 4 || dsrc == 6 then some 0
  else none

/-- The value of a capture. A reserved source has none, so it is free. -/
def captureValue (g : Regs) (m : Mach) : BitVec 64 :=
  let x := m.mg
  let i := x.item.toNat
  let free := Config.freeWord m.freeCtr
  if x.src == 1 then (counterAt m x.item).landed
  else if x.src == 2 then (counterAt m x.item).settled
  else match x.dsrc.toNat with
    | 0 => m.dbg.ts
    | 1 => m.dbg.latch
    | 2 => if i < 32 then (tabGet Offset.none m.dbg.offs i).off else free
    | 3 => if x.mh && frugal m then 0 else tabGet 0 (halfAt m (if x.mh then 1 else 0)).prof i
    | 4 => m.dbg.stopTs
    | 5 => g.tsNext
    | 6 => if i < 8 then (if m.dbg.dumps[fin8 i].dn then m.dbg.dumps[fin8 i].stamp else 0) else free
    | _ => free

/-- The capture samples its source, when its clocks run. -/
def takeSample (g : Regs) (m : Mach) : Mach :=
  let x := m.mg
  let ready := match captureHalf m x.src x.dsrc x.mh with | some h => clocked m h | none => true
  if x.pend && x.samp.isNone && ready then { spend m with mg := { x with samp := some (captureValue g m) } } else m

/-- A capture is asked for; it takes the place of one that is pending. -/
def requestCapture (src : BitVec 3) (g : Regs) (m : Mach) : Mach :=
  let dbg := src == 0
  takeSample g { m with mg := { m.mg with
    valid := false, pend := true, src := src, samp := none
    dsrc := if dbg then g.mbselSrc else 0, mh := dbg && g.mbselH
    item := if dbg then g.mbselIdx.setWidth 13 else g.ctrSel } }

/-- DBG_MBSEL (R555). -/
def writeMbsel (v : BitVec 32) (x : Slice) : Slice :=
  onMach (requestCapture 0) (onRegs (fun g => { g with mbselSrc := vbits v 29 3, mbselH := bitAt v 28, mbselIdx := vbits v 0 6 }) x)

/-- MB_CTL: ACK, then GO (R562). GO with a reserved SRC ignores the write as a whole. -/
def writeMb (v : BitVec 32) (x : Slice) : Slice :=
  let src := vbits v 0 3
  let go := bitAt v 31
  if go && decide (2 < src.toNat) then x
  else
    let x := onRegs (fun g => { g with mbIe := bitAt v 29, mbSrc := src }) x
    let x := if bitAt v 30 then onMach (fun _ m => { m with mg := { m.mg with valid := false } }) x else x
    if go then onMach (requestCapture src) x else x

/-- The registers of the mailbox and the indirect pair; IND_DATA goes to its own row. -/
def mbWrite (off : Nat) (v : BitVec 32) (x : Slice) : Slice :=
  if off == 0xF000 then writeMb v x
  else if off == 0xF010 then onRegs (fun g => { g with indAddr := vbits v 2 30 }) x
  else if off == 0xF018 then onRegs (fun g => { g with indInc := bitAt v 0 }) x
  else x

/-! ## The debug range -/

def dbgWrite (off : Nat) (v : BitVec 32) (x : Slice) : Slice :=
  if off == 0x9000 then onRegs (fun g => { g with dbgIe := vbits v 0 5 }) x
  else if off == 0x900C then writeMbsel v x
  else if off == 0x9010 then onRegs (fun g => { g with tsNext := (g.tsNext &&& 0xFFFFFFFF00000000) ||| v.setWidth 64 }) x
  else if off == 0x9014 then onRegs (fun g => { g with tsNext := (g.tsNext &&& 0xFFFFFFFF) ||| (v.setWidth 64 <<< 32) }) x
  else if off == 0x9018 then onMach (fun _ m => { m with dbg := { m.dbg with tsArm := bitAt v 0 } }) x
  else if off == 0x9030 then writeOfs v x
  else if off == 0x9038 then onRegs (fun g => { g with ofsSel := vbits v 0 5 }) x
  else if decide (0x9100 ≤ off) && decide (off < 0x9180) then
    let n := (off - 0x9100) / 0x40
    let b : Breakpoint := ⟨bitAt v 31, bitAt v 30, vbits v 12 16, vbits v 0 12⟩
    if off % 0x40 < 0x20 then
      onRegs (fun g => { g with bps := tabSet Breakpoint.off g.bps (bpKey (halfIx n) (halfIx (off % 0x40 / 0x10)) (off % 0x10 / 4)) b }) x
    else x
  else if off == 0x9180 || off == 0x9188 then writeSdbg (halfIx ((off - 0x9180) / 8)) v x
  else if off == 0x9200 || off == 0x9220 then writeTrc (halfIx ((off - 0x9200) / 0x20)) v x
  else if off == 0x9208 || off == 0x9228 then onRegs (putDepth (halfIx ((off - 0x9208) / 0x20)) v) x
  else if off == 0x93F0 then writePf v x
  else if decide (0x9400 ≤ off) && decide (off < 0x9800) then onRegs (putProf ((off - 0x9400) / 8) (off % 8 != 0) v) x
  else if decide (0x9800 ≤ off) && decide (off < 0x9900) then dmpWrite (fin8 ((off - 0x9800) / 0x20)) (off % 0x20) v x
  else if off == 0x9A00 then writeGs v x
  else x

/-! ## Ports (R77 to R79, R126) -/

/-- A port whose EN rises starts its hello exchange anew (R79); without clocks its first HELLO comes with HELLO_REPEAT (log 37). -/
def portHello (p : PortIx) (m : Mach) : Mach :=
  let m := modHello (.port p) (fun _ => Hello.none) m
  if clocked m (portHalf p) then startHello (.port p) m else m

/-- A port whose EN falls (R78): its agent departs, an exchange under way ends, and from here on its completions are presented, also where
the agent had departed before. LINK_STAT shows no reason for it (DESIGN CHOICE, log 105). -/
def portOff (g : Regs) (p : PortIx) (m : Mach) : Mach :=
  if isJoined (portAt m p).hello then departAgent g true p m
  else modPort p (fun x => { x with departed := false }) (endExchange (.port p) m)

/-- RPn_CTL (R78, R79). -/
def writePort (p : PortIx) (v : BitVec 32) (x : Slice) : Slice :=
  let old := x.1.rpEn[p]
  let new := bitAt v 0
  let x := onRegs (fun g => { g with rpEn := g.rpEn.set p.val new p.isLt }) x
  if old && !new then onMach (fun g m => portOff g p m) x
  else if !old && new then onMach (fun _ m => portHello p m) x
  else x

/-- The registers of the port range. -/
def portWrite (off : Nat) (v : BitVec 32) (x : Slice) : Slice :=
  if decide (0xA000 ≤ off) && decide (off < 0xA040) && off % 16 == 0 then writePort (fin4 ((off - 0xA000) / 16)) v x
  else if off == 0xA0D8 then onRegs (fun g => { g with ackJ := vbits v 16 16, ackD := vbits v 0 16 }) x
  else if off == 0xA0DC then onRegs (fun g => { g with linkIe := bitAt v 0 }) x
  else x

/-! ## Every register -/

/-- A write of one word of the window (R546): the whole of its effect. Reserved locations and read-only registers ignore it (R11). -/
def applyWrite (off : Nat) (v : BitVec 32) (x : Slice) : Slice :=
  if off % 4 != 0 then x
  else if off < 0x1000 then glbWrite off v x
  else if off < 0x1400 then hcWrite 0 (off - 0x1000) v x
  else if off < 0x2000 then hearthWrite off v x
  else if off < 0x2400 then hcWrite 1 (off - 0x2000) v x
  else if off < 0x3000 then x
  else if off < 0x4000 then cohWrite off v x
  else if off < 0x5000 then svcWrite off v x
  else if off < 0x5200 then anvWrite (halfIx ((off - 0x5000) / 0x100)) (off % 0x100) v x
  else if off < 0x6000 then x
  else if off < 0x7000 then rasWrite (off - 0x6000) v x
  else if off < 0x8000 then pwrWrite (off - 0x7000) v x
  else if off < 0x9000 then viWrite (off - 0x8000) v x
  else if off < 0xA000 then dbgWrite off v x
  else if off < 0xB000 then portWrite off v x
  else if decide (0xF000 ≤ off) && decide (off < 0x10000) then mbWrite off v x
  else x

end Sys2Proof.Machine
end

