-- ==== Sys2Proof/Machine/Indirect.lean ====
section
/-!
DEFINITION. The indirect space (R557 to R560, Table 18.9): what an address reads and what a write to it does.
-/

namespace Sys2Proof.Machine

/-- The half of an area whose part for half n begins at base + size × n; none outside the area. -/
def areaHalf (base size a : Nat) : Option Half :=
  if decide (base ≤ a) && decide (a < base + 2 * size) then some (halfIx ((a - base) / size)) else none

/-- The half that holds the storage of an address; none for the journal and for reserved addresses. -/
def indHalf (a : Nat) : Option Half :=
  if decide (0x40000 ≤ a) && decide (a < 0x50000) then some 0
  else (areaHalf 0x60000 0x2000 a).or ((areaHalf 0x70000 0x4000 a).or ((areaHalf 0x80000 0x4000 a).or
    ((areaHalf 0x100000 0x8000 a).or ((areaHalf 0x110000 0x2000 a).or ((areaHalf 0x120000 0x800 a).or
      ((areaHalf 0x1000000 0x400000 a).or (areaHalf 0x2000000 0x200000 a)))))))

/-- The halves to clock for an access. -/
def indHalves (m : Mach) (a : Nat) : List Half := match indHalf a with | some h => if frugal m && h == 1 then [] else [h] | none => []

/-- The storage of Half 1 under FRUGAL (R547). -/
def indDead (m : Mach) (a : Nat) : Bool := frugal m && indHalf a == some 1

/-! ## The journal (R487) -/

/-- A journal record as a word (Table 15.6). -/
def recWord (r : JrnRec) : BitVec 32 :=
  fieldAt r.state 29 ||| fieldAt r.att 25 ||| fieldAt r.fails 22 ||| bit32 r.slot 21 ||| fieldAt r.code 16 ||| fieldAt r.ticks 0

def recOf (v : BitVec 32) : JrnRec := ⟨vbits v 29 3, vbits v 25 4, vbits v 22 3, bitAt v 21, vbits v 16 4, vbits v 0 16⟩

def jrnRead (j : Jrn) (a : Nat) : BitVec 32 :=
  if a < 0x10030 then recWord (j.recs.toList.getD ((a - 0x10000) / 4) JrnRec.zero)
  else if a == 0x10040 then j.missP0
  else if a == 0x10044 then j.missP1
  else if a == 0x10048 then bit32 j.missX 0
  else if a == 0x1004C then fieldAt j.missRp 0
  else 0

def jrnWrite (a : Nat) (v : BitVec 32) (j : Jrn) : Jrn :=
  if j.run then j
  else if a < 0x10030 then { j with recs := j.recs.mapFinIdx fun i r _ => if i == (a - 0x10000) / 4 then recOf v else r }
  else if a == 0x10040 then { j with missP0 := v }
  else if a == 0x10044 then { j with missP1 := v }
  else if a == 0x10048 then { j with missX := bitAt v 0 }
  else if a == 0x1004C then { j with missRp := vbits v 0 4 }
  else j

/-! ## Labels (R410, R413) -/

def labelRead (c : LabelCtx) (w : Nat) : BitVec 32 :=
  if w == 0 then bit32 c.en 31 ||| fieldAt c.cls 24 ||| fieldAt c.inst 16 ||| fieldAt c.attr 0
  else if w == 1 then fieldAt c.burst 16 ||| fieldAt c.rate 0
  else 0

def labelPut (w : Nat) (v : BitVec 32) (c : LabelCtx) : LabelCtx :=
  if w == 0 then { c with en := bitAt v 31, cls := vbits v 24 4, inst := vbits v 16 6, attr := vbits v 0 6 }
  else if w == 1 then { c with burst := vbits v 16 16, rate := vbits v 0 13 }
  else c

/-! ## Sequencers, slots, traces, programs (R377, R392, R526, R529) -/

/-- The state view of a sequencer: zero unless it is halted. -/
def seqView (s : Seq) (w : Nat) : BitVec 32 :=
  if !s.halted then 0
  else if w < 32 then
    let r := regA s (fin16 (w / 2))
    if w % 2 == 0 then r.extractLsb' 0 32 else r.extractLsb' 32 32
  else if w < 36 then s.c[fin4 (w - 32)]
  else if w == 36 then fieldAt s.pc 0
  else 0

/-- The slot view of a half: zero while an operation is in flight. -/
def slotView (a : Anvil) (w : Nat) : BitVec 32 := if macFlight a || drnFlight a then 0 else tabGet 0 a.slots w

def traceView (t : Trace) (w : Nat) : BitVec 32 :=
  let r := tabGet 0 t.buf (w / 2)
  if w % 2 == 0 then r.extractLsb' 0 32 else r.extractLsb' 32 32

/-- A program table entry. -/
def progView (e : ProgEntry) (w : Nat) : BitVec 32 :=
  if w == 0 then fieldAt e.optag 0 else bit32 e.v1 31 ||| fieldAt e.pc1 16 ||| bit32 e.v0 15 ||| fieldAt e.pc0 0

/-! ## The views of tags and directory (R559, R560) -/

/-- Entry n of a view as it stands. -/
def viewEntry (hs : HalfSt) (isDir : Bool) (n : Nat) : BitVec 256 :=
  if isDir then dirWord (dirSlot hs (n / Config.dirWays) (n % Config.dirWays))
  else if n % 32 < Config.ways then (tagEntry (frameAt hs (BitVec.ofNat 13 (n / 32)) (n % 32))).setWidth 256
  else 0

/-- A capture reads the code word of the entry, as every read does (R439, R440). -/
def viewCheck (g : Regs) (h : Half) (isDir : Bool) (n : Nat) (m : Mach) : Mach :=
  if isDir then readEntry g h (n / Config.dirWays) (n % Config.dirWays) m
  else if n % 32 < Config.ways then readTag g h (BitVec.ofNat 13 (n / 32)) (n % 32 / 2) m
  else m

/-- A read of word w of entry n: word 0 captures the entry, another word only when the latch does not hold it. -/
def viewRead (g : Regs) (h : Half) (isDir : Bool) (n w : Nat) (m : Mach) : BitVec 32 × Mach :=
  match (halfAt m h).latch.filter fun l => l.isDir == isDir && l.entry == n && w != 0 with
  | some l => (l.val.extractLsb' (32 * w) 32, m)
  | none =>
    let m := viewCheck g h isDir n m
    let v := viewEntry (halfAt m h) isDir n
    (v.extractLsb' (32 * w) 32, modHalf h (fun hs => { hs with latch := some ⟨isDir, n, v⟩ }) m)

/-! ## The space -/

/-- Words of the areas that hold no view. -/
def indPlain (g : Regs) (m : Mach) (a : Nat) : BitVec 32 :=
  let h := (indHalf a).getD 0
  if decide (0x10000 ≤ a) && decide (a < 0x10050) then jrnRead m.jrn a
  else if decide (0x40000 ≤ a) && decide (a < 0x50000) then
    labelRead (tabGet LabelCtx.off (if g.lblSrc then g.live else g.shadow) ((a - 0x40000) / 16)) (a / 4 % 4)
  else if (areaHalf 0x60000 0x2000 a).isSome then seqView (seqAt m h (halfIx ((a - 0x60000) / 0x1000 % 2))) (a % 0x1000 / 4)
  else if (areaHalf 0x70000 0x4000 a).isSome then slotView (anvAt m h) (a % 0x4000 / 4)
  else if (areaHalf 0x80000 0x4000 a).isSome then traceView (halfAt m h).trace (a % 0x4000 / 4)
  else if (areaHalf 0x100000 0x8000 a).isSome then storeSeen g m h (halfIx ((a - 0x100000) / 0x4000 % 2)) (a % 0x4000 / 4)
  else if (areaHalf 0x110000 0x2000 a).isSome then poolSeen g m h (halfIx ((a - 0x110000) / 0x1000 % 2)) (a % 0x1000 / 4)
  else if (areaHalf 0x120000 0x800 a).isSome then progView (tabGet ProgEntry.none g.ptab (256 * h.val + a % 0x800 / 8)) (a / 4 % 2)
  else 0

/-- The code word of a program store or constant pool that an address reads (R439). -/
def indCodes (a : Nat) : List Nat :=
  if (areaHalf 0x100000 0x8000 a).isSome then [storeCode (halfIx ((a - 0x100000) / 0x4000 % 2)) (a % 0x4000 / 4)]
  else if (areaHalf 0x110000 0x2000 a).isSome then [poolCode (halfIx ((a - 0x110000) / 0x1000 % 2)) (a % 0x1000 / 4)]
  else []

/-- What an address reads; a view takes its latch, and code words are checked as they are read (log 50). -/
def indRead (g : Regs) (a : Nat) (m : Mach) : BitVec 32 × Mach :=
  if indDead m a then (0, m)
  else match areaHalf 0x1000000 0x400000 a, areaHalf 0x2000000 0x200000 a with
    | some h, _ => viewRead g h false (a % 0x400000 / 16) (a / 4 % 4) m
    | _, some h => viewRead g h true (a % 0x200000 / 32) (a / 4 % 8) m
    | none, none => (indPlain g m a, (progRead g ((indHalf a).getD 0) (indCodes a) m).2)

/-- A write of an address (R558): the journal, the shadow labels, the program stores and the constant pools take it. -/
def indWrite (a : Nat) (v : BitVec 32) (x : Slice) : Slice :=
  let h := (indHalf a).getD 0
  if indDead x.2 a then x
  else if decide (0x10000 ≤ a) && decide (a < 0x10050) then onMach (fun _ m => { m with jrn := jrnWrite a v m.jrn }) x
  else if decide (0x40000 ≤ a) && decide (a < 0x50000) then
    (if x.2.svc.copy then x
     else onRegs (fun g => { g with shadow := tabMod LabelCtx.off g.shadow ((a - 0x40000) / 16) (labelPut (a / 4 % 4) v) }) x)
  else if (areaHalf 0x100000 0x8000 a).isSome then
    let k := halfIx ((a - 0x100000) / 0x4000 % 2)
    let i := a % 0x4000 / 4
    onMach (fun g m => noteWrite g .progs h (storeCode k i) m) (onRegs (fun g => { g with store := tabSet 0 g.store (storeKey h k i) v }) x)
  else if (areaHalf 0x110000 0x2000 a).isSome then
    let k := halfIx ((a - 0x110000) / 0x1000 % 2)
    let i := a % 0x1000 / 4
    onMach (fun g m => noteWrite g .progs h (poolCode k i) m) (onRegs (fun g => { g with pool := tabSet 0 g.pool (poolKey h k i) v }) x)
  else x

end Sys2Proof.Machine
end

