-- ==== Sys2Proof/Machine/Mgmt.lean ====
section
/-!
DEFINITION. The management port (R113 to R116, R564): its guard (R548 to R550), its queue of writes and reads, the application of the access
at the front in its domain, bit aliases (R551, R552), the indirect pair (R557) and the mailbox (R555).
-/

namespace Sys2Proof.Machine

/-! ## The guard (R548, R549) -/

/-- The byte offset of a word address MADDR[19:2]. -/
def offsetOf (a : BitVec 18) : Nat := 4 * a.toNat

/-- A guarded register has a paired address (Table 18.12). -/
def isGuarded (off : Nat) : Bool :=
  let hc := off % 0x1000
  let within := fun (lo n step at_ : Nat) => decide (lo ≤ off) && decide (off < lo + n * step) && (off - lo) % step == at_
  off == 0x010 || off == 0x020 || ((off / 0x1000 == 1 || off / 0x1000 == 2) && (hc == 0x200 || hc == 0x210 || hc == 0x218 || hc == 0x314))
    || within 0x1400 16 0x10 8 || off == 0x160C || off == 0x3004 || off == 0x3210 || off == 0x3228
    || off == 0x4000 || off == 0x4008 || within 0x5000 2 0x100 0 || within 0x5000 2 0x100 0x80
    || off == 0x6000 || off == 0x6080 || within 0x6180 2 8 0 || within 0x6200 2 0x40 4
    || off == 0x7010 || off == 0x7100 || off == 0x8004 || off == 0x800C || off == 0x804C || off == 0x8080
    || off == 0x9000 || off == 0x9018 || off == 0x9030 || within 0x9180 2 8 0 || within 0x9200 2 0x20 0 || off == 0x93F0
    || within 0x9800 8 0x20 0x18 || off == 0x9A00 || within 0xA000 4 0x10 0

/-- The guarded register that owns a paired address: 4 bytes before it, in the ports' registers 8 (R77). -/
def pairOwner (off : Nat) : Option Nat :=
  let back := if decide (0xA000 ≤ off) && decide (off < 0xA040) then 8 else 4
  if decide (back ≤ off) && isGuarded (off - back) then some (off - back) else none

def modMg (f : Mgmt → Mgmt) (m : Mach) : Mach := { m with mg := f m.mg }

/-- A failure of the guard names a register. -/
def guardFail (reg : BitVec 18) (x : Mgmt) : Mgmt := { x with guard := none, fails := x.fails + 1, last := reg }

/-- The pending value is discarded and counted. -/
def dropPending (x : Mgmt) : Mgmt := match x.guard with | some p => guardFail p.addr x | none => x

def enqueue (c : Access) (x : Mgmt) : Mgmt := { x with q := x.q ++ [c] }

/-- The paired write completes the pending pair. -/
def completesPair (p : Pending) (owner : Nat) (v : BitVec 32) (mclk : Nat) : Bool :=
  offsetOf p.addr == owner && decide (p.mclk ≤ mclk) && decide (mclk ≤ p.mclk + 8) && v == ~~~p.data

/-- A write to the paired address of `owner`. -/
def takePaired (owner : Nat) (v : BitVec 32) (mclk : Nat) (x : Mgmt) : Mgmt :=
  match x.guard with
  | some p => if completesPair p owner v mclk then enqueue (.write p.addr p.data) { x with guard := none } else guardFail p.addr x
  | none => guardFail (BitVec.ofNat 18 (owner / 4)) x

/-- A taken write passes the guard. -/
def guardWrite (a : BitVec 18) (v : BitVec 32) (mclk : Nat) (x : Mgmt) : Mgmt :=
  match pairOwner (offsetOf a) with
  | some owner => takePaired owner v mclk x
  | none =>
    let x := dropPending x
    if isGuarded (offsetOf a) then { x with guard := some ⟨a, v, mclk⟩ } else enqueue (.write a v) x

/-- Queued writes and reads. -/
def queuedWrites (x : Mgmt) : Nat := (x.q.filter fun c => match c with | .write .. => true | .read _ => false).length
def queuedReads (x : Mgmt) : Nat := (x.q.filter fun c => match c with | .write .. => false | .read _ => true).length

/-- MREQ_RDY (R564); a pending value has one entry reserved. -/
def writeReady (a : BitVec 18) (x : Mgmt) : Bool :=
  (pairOwner (offsetOf a)).isSome || decide (queuedWrites x + (if x.guard.isSome then 1 else 0) < 16)
def readReady (x : Mgmt) : Bool := decide (queuedReads x < 4)

/-! ## The front of the queue -/

/-- The half that an access must find clocked; a tail is abandoned by the access (R116, R481). -/
def wakeHalves (hs : List Half) (m : Mach) : Mach :=
  hs.foldl (fun m h => rouse h m) m

/-- The offset of the register word that an access reaches. -/
def wordOff (off : Nat) : Nat := if off < 0x80000 then off else aliasWord off

/-- IND_DATA. -/
def indData : Nat := 0xF014

/-- Reads at the front return in order (R114). A read waits for its domain, and a read of IND_DATA for its own row. -/
def serveReads (fuel : Nat) (g : Regs) (m : Mach) : Mach :=
  match fuel, m.mg.q with
  | n + 1, .read a :: rest =>
    let off := offsetOf a
    let m' := wakeHalves (neededHalves m (wordOff off)) m
    if off == indData then m
    else if (neededHalves m' (wordOff off)).all (clocked m') then
      serveReads n g (emit (.mrsp a (regRead g m' off)) (modMg (fun x => { x with q := rest }) m'))
    else m'
  | _, _ => m

/-- The state after a register access: what moves comes to rest, and the reads behind the access return. -/
def rest (s : State) (x : Slice) : State := { s with regs := x.1, m := serveReads 4 x.1 (settle x.1 x.2) }

/-- The access at the front leaves the queue. -/
def popAccess (m : Mach) : Mach := modMg (fun x => { x with q := x.q.drop 1 }) m

/-- The write at the front of the queue, when `row` takes it, is applied in its domain: ignored where the register is dead (R547), waiting
while a half that it needs has no clocks (R116). -/
def frontWrite (row : Nat → BitVec 32 → Bool) (effect : Nat → BitVec 32 → Slice → Slice) (s : State) : Host.Outcome State Fault Refusal :=
  match s.m.mg.q with
  | .write a v :: _ =>
    let off := offsetOf a
    if !row off v then .next s
    else if deadRegister s.m (wordOff off) then .next (rest s (s.regs, popAccess s.m))
    else
      let hs := neededHalves s.m (wordOff off)
      let m := wakeHalves hs s.m
      if hs.all (clocked m) then .next (rest s (effect off v (s.regs, popAccess m))) else .next { s with m := m }
  | _ => .next s

/-! ## Bit aliases (R551, R552) -/

/-- An alias write: nothing at a guarded register or a paired address, else the word with one bit replaced. -/
def aliasWrite (off : Nat) (v : BitVec 32) (x : Slice) : Slice :=
  let w := aliasWord off
  let b := aliasBit off
  if isGuarded w || (pairOwner w).isSome then x
  else
    let old := plainRead x.1 x.2 w
    applyWrite w ((old &&& ~~~(1#32 <<< b)) ||| flagAt 32 (bitAt v 0) b) x

/-! ## The rows of the port -/

/-- MGMT_WRITE (R113, R114, R548, R564): a write that finds no room does not transfer, nor any access while TMODE is 1 (R121). -/
def execMgmtWrite (a : BitVec 18) (v : BitVec 32) (mclk : Nat) (s : State) : Host.Outcome State Fault Refusal :=
  if writeReady a s.m.mg && !s.m.jrn.tmode then .next { s with m := modMg (guardWrite a v mclk) s.m } else .next s

/-- MGMT_READ (R114, R564). -/
def execMgmtRead (a : BitVec 18) (s : State) : Host.Outcome State Fault Refusal :=
  if readReady s.m.mg && !s.m.jrn.tmode then .next { s with m := serveReads 4 s.regs (modMg (enqueue (.read a)) s.m) } else .next s

/-- ALIAS_WRITE (R551, R552). -/
def execAliasWrite (s : State) : Host.Outcome State Fault Refusal := frontWrite (fun off _ => decide (0x80000 ≤ off)) aliasWrite s

/-- IND_ADDR after an access (R557). -/
def stepInd (g : Regs) : Regs := if g.indInc then { g with indAddr := g.indAddr + 1 } else g

/-- The address in IND_ADDR. -/
def indOffset (g : Regs) : Nat := 4 * g.indAddr.toNat

/-- The halves of an access to IND_DATA, woken; none while one of them has no clocks. -/
def indReady (g : Regs) (m : Mach) : Mach × Bool :=
  let hs := indHalves m (indOffset g)
  let m := wakeHalves hs m
  (m, hs.all (clocked m))

/-- IND_DATA_READ (R557, R558). -/
def execIndDataRead (s : State) : Host.Outcome State Fault Refusal :=
  match s.m.mg.q with
  | .read a :: _ =>
    if offsetOf a != indData then .next s
    else
      let (m, ready) := indReady s.regs s.m
      if !ready then .next { s with m := m }
      else
        let (v, m) := indRead s.regs (indOffset s.regs) (popAccess m)
        .next (rest s (stepInd s.regs, emit (.mrsp a v) m))
  | _ => .next s

/-- IND_DATA_WRITE (R557, R558). -/
def execIndDataWrite (s : State) : Host.Outcome State Fault Refusal :=
  match s.m.mg.q with
  | .write a v :: _ =>
    if offsetOf a != indData then .next s
    else
      let (m, ready) := indReady s.regs s.m
      if !ready then .next { s with m := m }
      else
        let x := indWrite (indOffset s.regs) v (s.regs, popAccess m)
        .next (rest s (stepInd x.1, x.2))
  | _ => .next s

/-- MAILBOX_CAPTURE_DONE (R555): the sample reaches MB_LO and MB_HI, and VALID rises. -/
def execMailboxCaptureDone (s : State) : Host.Outcome State Fault Refusal :=
  let m := takeSample s.regs s.m
  match m.mg.samp with
  | some v => .next { s with m := modMg (fun x => { x with
      valid := true, pend := false, samp := none, lo := v.extractLsb' 0 32, hi := v.extractLsb' 32 32 }) m }
  | none => .next { s with m := m }

/-- CLOCK_START_DONE (R478, R479): AWAKEn rises, and a management access that waited for the half is served (R116). -/
def execClockStartDone (h : Half) (s : State) : Host.Outcome State Fault Refusal :=
  if !(halfAt s.m h).pw.ramp then .next s
  else
    let m := modPw h (fun x => { x with ramp := false, awake := true, inRet := false, demand := false }) s.m
    let m := ([0, 1, 2] : List (Fin 3)).foldl (fun m k => if fin3Half k == h then flushLink k m else m) m
    .next (rest s (s.regs, m))

end Sys2Proof.Machine
end

