-- ==== Sys2Proof/Machine/Load.lean ====
section
/-!
DEFINITION. The end of a load (chapter 12): the checks of R396 steps 4 to 6, the application of the sections in step 7, the structure words of
step 8, the ports of step 9, and what a run-time reload does to what stands (R402).
-/

namespace Sys2Proof.Machine

/-! ## The sections of an image (Table 12.3) -/

/-- The image of a load as its lines. -/
abbrev Image := Tab Line

/-- Byte offset of the first section of a type. -/
def secOff (ls : Image) (t : Nat) : Nat := match (sectionsOf (imgLine ls 0)).find? (fun x => x.kind == t) with | some x => x.off | none => 0

/-- Length of the first section of a type. -/
def secLen (ls : Image) (t : Nat) : Nat := match (sectionsOf (imgLine ls 0)).find? (fun x => x.kind == t) with | some x => x.len | none => 0

/-- Word i of a section. -/
def secWord (ls : Image) (t i : Nat) : BitVec 32 := imgWord ls (secOff ls t + 4 * i)

def typeTOPOLOGY : Nat := 1
def typeSLICE : Nat := 2
def typeCONTROL : Nat := 3
def typePARTITION : Nat := 4
def typeREGIONS : Nat := 5
def typeBINDINGS : Nat := 6
def typeLABELS : Nat := 7
def typeCLASSES : Nat := 8
def typePROGRAMS : Nat := 9
def typeANNOTATION : Nat := 10

/-- Slice count S of the TOPOLOGY section. -/
def imgSlices (ls : Image) : Nat := ((secWord ls typeTOPOLOGY 1).extractLsb' 0 6).toNat

/-- DIES and PERDIE of the TOPOLOGY section. -/
def imgDies (ls : Image) : Nat := ((secWord ls typeTOPOLOGY 0).extractLsb' 16 4).toNat
def imgPerDie (ls : Image) : Nat := ((secWord ls typeTOPOLOGY 0).extractLsb' 8 3).toNat

/-- The image names FRUGAL. -/
def imgFrugal (ls : Image) : Bool := (secWord ls typeCONTROL 0).extractLsb' 0 2 == 3

/-- The length of a section of types 1 to 9 is that of its records. -/
def lenOk (ls : Image) (t : Nat) : Bool :=
  let n := secLen ls t
  if t == typeSLICE then n == 512 * imgSlices ls
  else if t == typePARTITION then n % 128 == 0 && decide (128 ≤ n) && decide (n ≤ 8192)
  else if t == typeBINDINGS then n == 4096
  else if t == typeLABELS then n == 65536
  else if t == typePROGRAMS then n == 86016
  else n == 256

/-! ## The checks of steps 4 to 6 -/

/-- ICRC (R386). -/
def icrcOk (ls : Image) : Bool :=
  let l0 := imgLine ls 0
  let bs := (List.range (hdrLen l0 / 256 - 1)).flatMap fun n => bytesOf (imgLine ls (n + 1)) 0 256
  crc32c bs == hdrIcrc l0

/-- DIGEST (R388). -/
def imgDigest (ls : Image) : BitVec 16 :=
  let words := (List.range 16).map (fun k => secWord ls typeTOPOLOGY (4 + k)) ++ [hdrImgVer (imgLine ls 0)]
  (crc32c (words.flatMap fun w => bytesOf w 0 4)).extractLsb' 0 16

/-- The section types and lengths, which stand in line 0 (R390, Table 12.5). -/
def sectionsOk (ls : Image) : Bool :=
  let ss := sectionsOf (imgLine ls 0)
  let types := (List.range 9).map (· + 1)
  types.all (fun t => (ss.filter fun x => x.kind == t).length == 1 && lenOk ls t)
    && ss.all (fun x => decide (1 ≤ x.kind) && decide (x.kind ≤ typeANNOTATION))

/-- DIES × PERDIE equals S (R396 step 4); words 0 and 1 of TOPOLOGY stand in its first line. -/
def diesOk (ls : Image) : Bool := imgDies ls * imgPerDie ls == imgSlices ls

/-- The PARTITION record that half h of slice s takes (R393). -/
def partRecord (ls : Image) (s : Nat) (h : Half) : Option Nat :=
  (List.range (secLen ls typePARTITION / 128)).find? fun r =>
    (secWord ls typePARTITION (32 * r)).getLsbD s && (secWord ls typePARTITION (32 * r + 1)).extractLsb' 0 1 == BitVec.ofNat 1 h.val

/-- Slice number of the slice with these straps (R396 step 5). -/
def imgOwn (ls : Image) (j : Jrn) : Nat := j.die.toNat * imgPerDie ls + j.pos.toNat

/-- Step 5 of R396. -/
def sliceOk (ls : Image) (j : Jrn) : Bool :=
  decide (j.die.toNat < imgDies ls) && decide (j.pos.toNat < imgPerDie ls) && (partRecord ls (imgOwn ls j) 0).isSome
    && (imgFrugal ls || (partRecord ls (imgOwn ls j) 1).isSome)

/-- The bits of a word of a section that its register's table reserves, or that must be zero (R390); `i` counts the words of a record. -/
def reservedBits (t i : Nat) : BitVec 32 :=
  if t == typeTOPOLOGY then
    (if i == 0 then 0x07F0F8FF else if i == 1 then 0xFFFFFFC0 else if i == 2 then 0 else if i == 3 then 0xFFFF0000
     else if i < 20 then 0xE0E0E0E0 else if i < 36 then 0x60606060 else if i < 52 then 0x40404040 else 0xFFFFFFFF)
  else if t == typeSLICE then (if i < 2 then 0 else if i < 6 then 0xFFFFFFFC else if i < 64 then 0xFFFFFFFF else 0x7FFFFFC0)
  else if t == typeCONTROL then
    (if i == 0 then 0xFFFFFFEC else if i == 1 then 0xFFFFFFFE else if i == 2 then 0xFFFFF800 else if i == 3 then 0xFFFFFF7C
     else if i < 6 then 0xFFFFFFFE else if i < 8 then 0xFFFFFFCC else if i == 8 then 0 else if i == 9 then 0x1C000000 else 0xFFFFFFFF)
  else if t == typePARTITION then
    (if i == 0 then 0 else if i < 3 then 0xFFFFFFFE else if i == 3 then 0xFFFFFCF0 else if i == 4 then 0xFFFFFFCC
     else if i == 5 then 0xFFFFFE0E else if i == 6 then 0 else if i == 7 then 0xFFFF0000 else if i < 26 then 0xFF000000 else 0xFFFFFFFF)
  else if t == typeREGIONS then (if i == 0 then 0 else if i == 1 then 0xFFFF0000 else if i == 2 then 0x4000000F else 0xFFFFFFFF)
  else if t == typeBINDINGS then (if i == 0 then 0 else if i == 1 then 0xFFFFFC00 else if i == 2 then 0xFFF00000 else 0x00001FFF)
  else if t == typeLABELS then (if i == 0 then 0x70C0FFC0 else if i == 1 then 0x0000E000 else 0xFFFFFFFF)
  else if t == typeCLASSES then (if i == 0 then 0x3FFFE000 else if i == 1 then 0x8000E000 else if i == 2 then 0xFFFFFFFC else 0xFFFFFFFF)
  else if t == typePROGRAMS then (if i == 0 then 0xFFFF0000 else 0x70007000)
  else 0

/-- A field of the word holds a value that its register's table reserves. -/
def reservedValue (t i : Nat) (v : BitVec 32) : Bool :=
  let codes := fun (lo n : Nat) => (List.range n).any fun k => v.extractLsb' (2 * (lo + k)) 2 == 3
  (t == typeCONTROL && i == 3 && codes 0 1)
    || (t == typePARTITION && ((i == 3 && codes 4 1) || (i == 6 && codes 4 12) || (i == 7 && codes 0 8)))
    || (t == typeCLASSES && i == 0 && codes 15 1)

/-- Words of one record of a section; of PROGRAMS, of one program table entry. -/
def recordWords (t : Nat) : Nat :=
  if t == typeTOPOLOGY || t == typeCONTROL then 64 else if t == typeSLICE then 128 else if t == typePARTITION then 32
  else if t == typePROGRAMS then 2 else 4

/-- Words that step 6 checks: all but the program stores and pools, which hold no register. -/
def checkedWords (ls : Image) (t : Nat) : Nat := if t == typePROGRAMS then 1024 else secLen ls t / 4

/-- Word i of a section fails step 6. -/
def wordFails (ls : Image) (t i : Nat) : Bool :=
  let k := i % recordWords t
  let v := secWord ls t i
  (v &&& reservedBits t k) != 0 || reservedValue t k v

/-- The image line of the first word that fails step 6, by section type. -/
def fieldFailure (ls : Image) : Option Nat :=
  ((List.range 9).map (· + 1)).findSome? fun t =>
    ((List.range (checkedWords ls t)).find? (wordFails ls t)).map fun i => (secOff ls t + 4 * i) / 256

/-! ## Structure words (Table 12.4) -/

/-- Word i of the structure words that the image gives this slice. -/
def structWord (ls : Image) (j : Jrn) (i : Nat) : BitVec 32 :=
  let topo := secWord ls typeTOPOLOGY
  if i < 16 then topo (4 + i)
  else if i == 16 then topo 0 ||| (j.die.setWidth 32 <<< 5) ||| j.pos.setWidth 32
  else if i == 17 then (topo 1 &&& 0x3F) ||| flagAt 32 (imgFrugal ls) 31
  else if i == 18 then hdrImgVer (imgLine ls 0)
  else if i == 19 then hdrIcrc (imgLine ls 0)
  else if i == 20 then (imgDigest ls).setWidth 32
  else if i == 21 then topo 2
  else if i == 22 then topo 3
  else if i < 25 then secWord ls typeSLICE (128 * imgOwn ls j + (i - 23))
  else if i < 41 then topo (20 + (i - 25))
  else 0

/-- A run-time reload would change structure words 0 to 17 or 21 to 40. -/
def topoChanges (ls : Image) (m : Mach) : Bool :=
  (List.range 41).any fun i => !(i == 18 || i == 19 || i == 20) && structWord ls m.jrn i != sliceWord m i

/-- The result of steps 4 to 6 with the line of a failure where one is named. -/
def imageFailure (ls : Image) (m : Mach) : Option (Nat × Option Nat) :=
  if !icrcOk ls then some (resICRC, none)
  else if hdrDigest (imgLine ls 0) != imgDigest ls then some (resDIGEST, none)
  else if !sectionsOk ls then some (resSECTION, some 0)
  else if !diesOk ls then some (resSECTION, some (secOff ls typeTOPOLOGY / 256))
  else if !sliceOk ls m.jrn then some (resSLICE, none)
  else match fieldFailure ls with
    | some n => some (resFIELD, some n)
    | none => if m.img.loaded && topoChanges ls m then some (resTOPO, none) else none

/-! ## Application (R396 step 7, R402) -/

/-- TOPOLOGY and the counter owners of the SLICE record; the structure words follow in step 8. -/
def applyTopology (ls : Image) (s : Nat) (x : Slice) : Slice :=
  let x := onRegs (fun g => (List.range 16).foldl (fun g k => putIdx k (secWord ls typeTOPOLOGY (36 + k)) g) g) x
  onRegs (fun g => (List.range 64).foldl (fun g k => putOwner k (secWord ls typeSLICE (128 * s + 64 + k)) g) g) x

/-- PROFILE, EN of determinism, MODE of COH_PRED and GRPn_BYTES of the CONTROL section; PROFILE takes the image's value without the controls of R31. -/
def putGlobal (p d c b : BitVec 32) (g : Regs) : Regs :=
  { g with profile := vbits p 0 2, detEn := bitAt d 0, predMode := vbits c 0 2, grpBytes := b }

/-- CONTROL; the action bits of a register hold no value. -/
def applyControl (ls : Image) (x : Slice) : Slice :=
  let w := secWord ls typeCONTROL
  onRegs (fun g => putPower true (w 9) (putSeqEn 1 (w 7) (putSeqEn 0 (w 6) (setAnvEn 1 (bitAt (w 5) 0) (setAnvEn 0 (bitAt (w 4) 0)
    (putHoldWindow true (w 2) (putGlobal (w 0) (w 1) (w 3) (w 8) g))))))) x

/-- A PARTITION record for one half. A change of way use acts as Table 5.3 gives, whatever groups are open. -/
def applyPartition (ls : Image) (r : Nat) (h : Half) (x : Slice) : Slice :=
  let w := fun (i : Nat) => secWord ls typePARTITION (32 * r + i)
  let x := writeCen h (w 2) x
  let masks := fun (c : HcRegs) => (List.range 18).foldl (fun c i => putMask (if i < 16 then 0x240 + 4 * i else 0x280 + 4 * (i - 16)) (w (8 + i)) c) c
  let x := onRegs (modHc h fun c => masks (putBlw true (w 5) (putRepl (w 4) (putCmp (w 3) c)))) x
  changeUses h (newUses true (w 7) (newUses false (w 6) x.1.hc[h].wuse)) x

/-- A region entry as the image gives it. -/
def imgRegion (ls : Image) (k : Fin 16) : Region :=
  let w := fun (i : Nat) => secWord ls typeREGIONS (4 * k.val + i)
  ⟨w 0, vbits (w 1) 0 16, bitAt (w 2) 31, vbits (w 2) 24 6, vbits (w 2) 0 24 &&& 0xFFFFF0⟩

/-- A pinned frame holds a line of a region whose entry changes. -/
def frameChanges (g : Regs) (changed : Fin 16 → Bool) (k : Nat) (f : Frame) : Bool :=
  f.pinned && fourLines.any fun i => f.lines[i].pres
    && ((regionOf g (lineBase (lineAt (BitVec.ofNat 13 (k / Config.ways)) f.tag i.val))).map changed).getD false

/-- Pinned lines of the regions that change become ordinary lines with AGE 3 (R402). -/
def unpinRegions (g : Regs) (changed : Fin 16 → Bool) (m : Mach) : Mach :=
  bothHalves.foldl (fun m h => retag g h (fun k f => if frameChanges g changed k f then { f with pinned := false, age := 3 } else f) m) m

/-- REGIONS on the registers. -/
def regionRegs (ls : Image) (g : Regs) : Regs := { g with hr := Vector.ofFn fun k => imgRegion ls k }

/-- REGIONS. -/
def applyRegions (ls : Image) (x : Slice) : Slice :=
  onRegs (regionRegs ls) (onMach (fun g m => unpinRegions g (fun k => g.hr[k] != imgRegion ls k) m) x)

/-- A sparse table from a function, in canonical form. -/
def tabOf {α : Type} [DecidableEq α] (d : α) (n : Nat) (f : Nat → α) : Tab α :=
  (List.range n).filterMap fun k => let v := f k; if v = d then none else some (k, v)

/-- A binding as the image gives it. -/
def imgBinding (ls : Image) (k : Nat) : Binding :=
  let w := fun (i : Nat) => secWord ls typeBINDINGS (4 * k + i)
  ⟨(w 0).setWidth 42 ||| ((vbits (w 1) 0 10).setWidth 42 <<< 32), vbits (w 2) 0 20, vbits (w 3) 26 5, vbits (w 3) 13 13, bitAt (w 3) 31⟩

/-- A label context as the image gives it. -/
def imgLabel (ls : Image) (k : Nat) : LabelCtx :=
  let w := fun (i : Nat) => secWord ls typeLABELS (4 * k + i)
  ⟨bitAt (w 0) 31, vbits (w 0) 24 4, vbits (w 0) 16 6, vbits (w 0) 0 6, vbits (w 1) 16 16, vbits (w 1) 0 13⟩

/-- A class descriptor as the image gives it. -/
def imgClass (ls : Image) (k : Fin 16) (c : ClassDesc) : ClassDesc :=
  let w := fun (i : Nat) => secWord ls typeCLASSES (4 * k.val + i)
  putClass2 (w 2) (putClass1 true (w 1) (putClass0 (w 0) c))

/-- BINDINGS, LABELS and CLASSES on the registers; a load fills both label tables (R413). -/
def serviceRegs (ls : Image) (g : Regs) : Regs :=
  let labels := tabOf LabelCtx.off 4096 (imgLabel ls)
  { g with arb := tabOf Binding.off 256 (imgBinding ls), live := labels, shadow := labels, cls := Vector.ofFn fun k => imgClass ls k g.cls[k] }

/-- BINDINGS, LABELS and CLASSES: every bucket is full (R414, R424). -/
def applyService (ls : Image) (x : Slice) : Slice :=
  onMach (fun g m =>
    let m := { m with svc := { m.svc with level := swapLevels [] g.live [] } }
    bothHalves.foldl (fun m c => modChan c (fun ch => { ch with bucket := [] }) m) m) (onRegs (serviceRegs ls) x)

/-- An entry of the program tables as the image gives it (R392). -/
def imgProg (ls : Image) (k : Nat) : ProgEntry :=
  let w0 := secWord ls typePROGRAMS (2 * k)
  let w1 := secWord ls typePROGRAMS (2 * k + 1)
  ⟨vbits w0 0 16, bitAt w1 15, vbits w1 0 12, bitAt w1 31, vbits w1 16 12⟩

/-- PROGRAMS on the registers: 1,024 table words, 16,384 store words, 4,096 pool words. -/
def programRegs (ls : Image) (g : Regs) : Regs :=
  { g with
    ptab := tabOf ProgEntry.none 512 (imgProg ls)
    store := tabOf 0 16384 fun i => secWord ls typePROGRAMS (1024 + i)
    pool := tabOf 0 4096 fun i => secWord ls typePROGRAMS (17408 + i) }

/-- PROGRAMS. -/
def applyPrograms (ls : Image) (x : Slice) : Slice :=
  onMach (fun g m => bothHalves.foldl (fun m h => (List.range 1280).foldl (fun m i => noteWrite g .progs h i m) m) m)
    (onRegs (programRegs ls) x)

/-- Step 8: three copies of every structure word in both halves, under FRUGAL loaded at run time in Half 0 alone (R34); an armed injection takes
one of them (R464). -/
def applyStructs (ls : Image) (x : Slice) : Slice :=
  let words := tabOf 0 64 (structWord ls x.2.jrn)
  let put := fun (g : Regs) (m : Mach) (h : Half) =>
    (List.range 24).foldl (fun m i => noteWrite g .structs h i m) (modHalf h (fun hs => { hs with words := Vector.replicate 3 words }) m)
  onMach (fun g m => (if m.img.loaded && frugal m then [0] else bothHalves).foldl (put g) m) x

/-- Each half leaves its safe state (R401, R457). -/
def leaveSafe (x : Slice) : Slice :=
  onMach (fun _ m => bothHalves.foldl (fun m h => modHalf h (fun hs => { hs with safe := false, safeDue := none, scause := 0, sword := 0 }) m) m) x

/-- Step 9: RP0_CTL to RP3_CTL. -/
def applyPort (ls : Image) (s : Nat) (x : Slice) (p : PortIx) : Slice := writePort p (secWord ls typeSLICE (128 * s + 2 + p.val)) x

def applyPorts (ls : Image) (s : Nat) (x : Slice) : Slice := allPorts.foldl (applyPort ls s) x

/-- The PARTITION record of a half, if the image gives one. -/
def applyHalf (ls : Image) (s : Nat) (x : Slice) (h : Half) : Slice := match partRecord ls s h with | some r => applyPartition ls r h x | none => x

/-- Every capture facility is off after a load (R517): the breakpoints and the profiling counters here, the rest in `captureOff`. -/
def captureRegs (g : Regs) : Regs :=
  { g with bps := (g.bps.map fun x => (x.1, { x.2 with en := false })).filter fun x => x.2 != Breakpoint.off, pfEn := 0 }

/-- Steps 7 to 9. -/
def applyImage (ls : Image) (x : Slice) : Slice :=
  let s := imgOwn ls x.2.jrn
  let x := bothHalves.foldl (applyHalf ls s) (applyControl ls (applyTopology ls s x))
  let x := applyPrograms ls (applyService ls (applyRegions ls x))
  onRegs captureRegs <| applyPorts ls s (demandHeld (leaveSafe (applyStructs ls x)))

/-! ## The end of a load -/

/-- Trace, dump triggers and the global stop are off after a load (R517). -/
def captureOff (m : Mach) : Mach :=
  let m := bothHalves.foldl (fun m h => modTrace h (fun t => { t with act := false }) m) m
  { m with dbg := { m.dbg with dumps := m.dbg.dumps.map fun d => { d with armed := false }, stopped := false, pend := false } }

/-- The load has completed. -/
def loadDone (ld : Load) (m : Mach) : Mach :=
  { captureOff m with img := { m.img with loaded := true, lslot := ld.slot, result := 0, line := 0, load := none } }

/-- The staged lines are read (R396, Table 14.2): the first line with an uncorrectable code word. -/
def readStaged (g : Regs) (ls : Image) (m : Mach) : Option Nat × Mach :=
  if m.ras.errs.isEmpty then (none, m)
  else ls.foldl (fun (acc : Option Nat × Mach) x =>
    if x.1 == 0 then acc
    else allWords.foldl (fun (acc : Option Nat × Mach) k =>
      let r := peekWord g 0 .crucible (imageWord x.1 k) acc.2
      (if r.1 then acc.1.or (some x.1) else acc.1, r.2)) acc) (none, m)

/-- The staged lines as the read gives them, with the flips that it lets pass (R568). -/
def stagedLines (m : Mach) (ls : Image) : Image :=
  if m.ras.errs.isEmpty then ls
  else ls.map fun x => if x.1 == 0 then x
    else (x.1, allWords.foldl (fun d k => d ^^^ ((leftOf (errMask m .crucible 0 (imageWord x.1 k))).setWidth 2048 <<< (256 * k))) x.2)

/-- What a load comes to once no line is awaited. -/
def finishLoad (ld : Load) (x : Slice) : Slice :=
  let rd := readStaged x.1 ld.lines x.2
  let ld := { ld with lines := stagedLines x.2 ld.lines }
  let x := (x.1, rd.2)
  match ld.failed.or (rd.1.map fun n => (resMEMERR, n)) with
  | some (c, n) => onMach (fun _ m => loadFailed c (some n) m) x
  | none =>
    match imageFailure ld.lines x.2 with
    | some (c, n) => onMach (fun _ m => loadFailed c n m) x
    | none => onMach (fun _ m => loadDone ld m) (applyImage ld.lines x)

/-- IMAGE_LOAD_END (R396): nothing while lines are awaited. -/
def execImageLoadEnd (s : State) : Host.Outcome State Fault Refusal :=
  match s.m.img.load with
  | some ld => if ld.await == 0 then .next (rest s (finishLoad ld (s.regs, s.m))) else .next s
  | none => .next s

end Sys2Proof.Machine
end

