-- ==== Sys2Proof/Machine/Journal.lean ====
section
/-!
DEFINITION. The start journal (R483 to R487): the twelve steps, their forms, their records and the missing maps.
-/

namespace Sys2Proof.Machine

/-! ## Records -/

def jrnRec (j : Jrn) (k : Nat) : JrnRec := j.recs.toList.getD (k - 1) JrnRec.zero

def modRec (k : Nat) (f : JrnRec → JrnRec) (j : Jrn) : Jrn := { j with recs := j.recs.mapFinIdx fun i r _ => if i == k - 1 then f r else r }

def modJrn (f : Jrn → Jrn) (m : Mach) : Mach := { m with jrn := f m.jrn }

def stRUNNING : BitVec 3 := 1
def stOK : BitVec 3 := 2
def stFAIL : BitVec 3 := 3
def stALT : BitVec 3 := 4
def stPARTIAL : BitVec 3 := 5

/-- A step runs its alternative form (R486): from FAILS, or from the step's own missing map of the last start. -/
def altForm (j : Jrn) (k : Nat) : Bool :=
  let fails := (jrnRec j k).fails.toNat
  if k == 4 then decide (2 ≤ fails)
  else if k == 7 then decide (1 ≤ fails)
  else if k == 9 then j.missP0 != 0 || j.missP1 != 0
  else if k == 10 then j.missX
  else if k == 11 then j.missRp != 0
  else false

/-- One more failure of the normal form, saturating at 7. -/
def moreFails (f : BitVec 3) : BitVec 3 := if f == 7 then 7 else f + 1

/-- A step found RUNNING was cut off by a reset: a failure of the form it was running (R486). -/
def cutOff (j : Jrn) (k : Nat) : Jrn :=
  if (jrnRec j k).state != stRUNNING then j
  else modRec k (fun r => { r with state := stFAIL, fails := if altForm j k then r.fails else moreFails r.fails }) j

/-! ## What the steps wait for -/

/-- A peer channel is in use: the package has other slices, and FRUGAL does not silence it. -/
def peerUsed (m : Mach) (ch : Half) : Bool := decide (1 < sliceCount m) && !silenced m (.peer ch)

/-- The other slices of the package that have not joined on a peer channel. -/
def missingPeers (m : Mach) (ch : Half) : BitVec 32 :=
  if !peerUsed m ch then 0
  else (List.range (min 32 (sliceCount m))).foldl (fun (b : BitVec 32) s =>
    if BitVec.ofNat 5 s == ownSlice m || partJoined m (peerLink ch) (BitVec.ofNat 5 s) then b else b ||| (1#32 <<< s)) 0

/-- The request ports with EN at 1 that have not joined. -/
def missingPorts (g : Regs) (m : Mach) : BitVec 4 :=
  allPorts.foldl (fun (b : BitVec 4) p =>
    if g.rpEn[p] && !silenced m (.port p) && !isJoined (portAt m p).hello then b ||| (1#4 <<< p.val) else b) 0

/-- What a step waits for has come (Table 15.5); the steps without such a condition end as the command says. -/
def stepMet (g : Regs) (m : Mach) (k : Nat) : Option Bool :=
  let alt := altForm m.jrn k
  let pw := fun (h : Half) => (halfAt m h).pw
  let known := fun (missing last : BitVec 32) => (if alt then missing &&& ~~~last else missing) == 0
  if k == 2 then some ((pw 0).pack && (pw 1).pack)
  else if k == 3 then some ((pw 0).awake && (pw 1).awake)
  else if k == 6 then some (chanJoined m 0 && chanJoined m 1)
  else if k == 9 then some (known (missingPeers m 0) m.jrn.missP0 && known (missingPeers m 1) m.jrn.missP1)
  else if k == 10 then some (alt || isJoined (linkAt m 2).hello)
  else if k == 11 then
    let x := missingPorts g m
    some ((if alt then x &&& ~~~m.jrn.missRp else x) == 0)
  else none

/-! ## The start of a step -/

/-- Both halves' power, by the journal. -/
def bothPw (f : Power → Power) (m : Mach) : Mach := bothHalves.foldl (fun m h => modPw h f m) m

/-- What a step sets going when it starts. -/
def stepAction (g : Regs) (k : Nat) (m : Mach) : Mach :=
  if k == 2 then bothPw (fun x => { x with preq := 3, pack := false }) m
  else if k == 3 then bothPw (fun x => { x with ckreq := true }) m
  else if k == 6 then startHello (.mem 1) (startHello (.mem 0) m)
  else if k == 7 then startLoad g (altForm m.jrn 7) m
  else if k == 9 then bothHalves.foldl (fun m ch => if peerUsed m ch then startHello (.peer ch) m else m) m
  else if k == 10 then startHello .remote m
  else m

/-- A step starts: its record reads RUNNING and counts an attempt, saturating at 15. -/
def beginStep (g : Regs) (k : Nat) (m : Mach) : Mach :=
  let att := fun (a : BitVec 4) => if a == 15 then a else a + 1
  let start := fun (j : Jrn) => modRec k (fun r => { r with state := stRUNNING, att := att r.att }) { j with step := BitVec.ofNat 4 k, second := false }
  stepAction g k (modJrn start m)

/-! ## The end of a step -/

/-- The record of a step that ends: STATE, FAILS, SLOT, CODE, TICKS. -/
def endRec (k : Nat) (st : BitVec 3) (fails : BitVec 3 → BitVec 3) (slot : Bool) (code : BitVec 4) (ticks : BitVec 16) (m : Mach) : Mach :=
  modJrn (modRec k fun r => { r with state := st, fails := fails r.fails, slot := slot, code := code, ticks := ticks }) m

/-- The start ends: DONE rises, and READY when step 12 has completed. -/
def endStart (ready : Bool) (m : Mach) : Mach := modJrn (fun j => { j with run := false, dn := true, ready := ready }) m

/-- A step succeeds, in its normal form or its alternative form. -/
def stepSucceeds (k : Nat) (ticks : BitVec 16) (m : Mach) : Mach :=
  let alt := altForm m.jrn k
  endRec k (if alt then stALT else stOK) (fun f => if alt then f else 0) false 0 ticks m

/-- A step fails and ends the start (R484). -/
def stepFails (k : Nat) (code : BitVec 4) (ticks : BitVec 16) (m : Mach) : Mach :=
  let alt := altForm m.jrn k
  endStart false (endRec k stFAIL (fun f => if alt then f else moreFails f) false code ticks m)

/-- The missing maps of a step as it ends (R485, R487). -/
def writeMaps (g : Regs) (k : Nat) (m : Mach) : Mach :=
  if k == 9 then modJrn (fun j => { j with missP0 := missingPeers m 0, missP1 := missingPeers m 1 }) m
  else if k == 10 then modJrn (fun j => { j with missX := !isJoined (linkAt m 2).hello }) m
  else if k == 11 then modJrn (fun j => { j with missRp := missingPorts g m }) m
  else m

/-- Steps 9 to 11: a partner missing at the limit leaves the step PARTIAL. -/
def endWait (g : Regs) (k : Nat) (met : Bool) (ticks : BitVec 16) (m : Mach) : Mach :=
  writeMaps g k (if met then stepSucceeds k ticks m else endRec k stPARTIAL id false 0 ticks m)

/-- A failing frame row takes the lowest free remap entry (R483, R484). -/
def remapRow (h : Half) (row : BitVec 13 × BitVec 5) (m : Mach) : Mach :=
  let hs := halfAt m h
  if (remapOf hs row.1.toNat row.2.toNat).isSome then m
  else match freeRemap hs with
    | some e => modHalf h (fun hs => { hs with remap := tabSet Remap.none hs.remap e ⟨true, false, row.2, row.1⟩ }) m
    | none => m

/-- Step 4 (R484): it fails on more failing rows in a half than entries, or on any other array. -/
def endBist (o : StepEnd) (m : Mach) : Mach :=
  let free := fun (h : Half) => 16 - ((halfAt m h).remap.filter fun e => e.2.v).length
  let code : BitVec 4 := if free 0 < o.rows0.length then 1 else if free 1 < o.rows1.length then 2 else if o.other then 3 else 0
  let m := o.rows1.foldl (fun m r => remapRow 1 r m) (o.rows0.foldl (fun m r => remapRow 0 r m) m)
  if o.ok && code == 0 then stepSucceeds 4 o.ticks m else stepFails 4 code o.ticks m

/-- Step 5 on the arrays that registers write: zero data. -/
def initRegs (g : Regs) : Regs :=
  { g with
    store := [], pool := [], ptab := [], live := [], shadow := [], arb := []
    cls := Vector.replicate 16 ⟨0, 0, 0, 0, false, false⟩, hr := Vector.replicate 16 ⟨0, 0, false, 0, 0⟩ }

/-- Step 5: every code word holds zero data with a valid code; an armed injection takes the first word of its array, but for the structure
copies, where it waits for a load (R464). -/
def initArrays (g : Regs) (m : Mach) : Mach :=
  let wipe := fun (m : Mach) (h : Half) => modHalf h (fun hs => { hs with
    frames := [], dir := [], words := Vector.replicate 3 [], wback := [], recheck := [] }) m
  let arrays : List Arr := [.frames, .tags, .dir, .victim, .merge, .crucible, .progs]
  let m := bothHalves.foldl wipe { m with ctrs := [], ras := { m.ras with errs := [] } }
  bothHalves.foldl (fun m h => arrays.foldl (fun m a => noteWrite g a h 0 m) m) m

/-- The first load of step 7 has failed: the other slot follows in the same start. CODE keeps the RESULT of the primary slot. -/
def secondLoad (g : Regs) (m : Mach) : Mach :=
  let alt := altForm m.jrn 7
  let note := fun (j : Jrn) => modRec 7 (fun r => { r with code := if alt then r.code else m.img.result }) { j with second := true }
  startLoad g (!alt) (modJrn note m)

/-- Step 7 after its last load: STATE, FAILS, SLOT and CODE of R486 and Table 15.6. Where no primary slot was tried, CODE is free. -/
def endImage (ticks : BitVec 16) (m : Mach) : Mach :=
  let alt := altForm m.jrn 7
  let good := m.img.result == 0
  let code := if alt then (if m.jrn.second then m.img.result else (Config.freeWord m.freeCtr).setWidth 4)
    else if m.jrn.second then (jrnRec m.jrn 7).code else m.img.result
  let fails := fun (f : BitVec 3) => if alt then f else if good && !m.jrn.second then 0 else moreFails f
  let m := endRec 7 (if !good then stFAIL else if alt then stALT else stOK) fails (good && m.img.lslot) code ticks (spend m)
  if good then m else endStart false m

/-- A load of step 7 passes its limit: it is given up, its RESULT free; its outstanding READs serve no later load. -/
def giveUpLoad (m : Mach) : Mach :=
  let old := fun (x : RdCmd) => match x.why with | .image n => { x with why := .image (n + 4096) } | .fill | .page => x
  let m := modChan 0 (fun ch => { ch with readQ := ch.readQ.filter fun x => !isImageRead x, readO := ch.readO.map old }) m
  let code := 1 + ((Config.freeWord m.freeCtr).setWidth 4 : BitVec 4).toNat % 13
  loadFailed code none m

/-- Half 1 as it is when OFF: its half, Anvil, sequencers, ports, memory channel and peer channel hold nothing, and no pointer and no deficit
moves (R17, R34, R474). -/
def clearHalf1 (m : Mach) : Mach :=
  let x := halfAt m 1
  let c := chanAt m 1
  let m := setHalf 1 { HalfSt.reset with ordPtr := x.ordPtr, instPtr := x.instPtr, cycle := x.cycle, sub := x.sub } m
  let m := modChan 1 (fun _ => { MemChan.reset with ptr := c.ptr, l4ptr := c.l4ptr, drrPtr := c.drrPtr, deficit := c.deficit }) m
  let m := modLink 1 (fun l => { Link.reset with up := l.up, ptr := l.ptr }) m
  let m := modAnv 1 (fun a => { Anvil.reset with turn := a.turn }) m
  let m := modSeq 1 1 (fun _ => Seq.reset) (modSeq 1 0 (fun _ => Seq.reset) m)
  let m := modPort 3 (fun _ => Port.reset) (modPort 2 (fun _ => Port.reset) m)
  { m with ras := { m.ras with errs := m.ras.errs.filter fun e => e.half == 0 } }

/-- Step 8: an image that names FRUGAL leaves Half 1 OFF: it holds no state, and its channels have no hello (R34, R123, R125, R474). -/
def stopHalf1 (m : Mach) : Mach := if frugal m then clearHalf1 m else m

/-- A step has succeeded: the next one starts. -/
def nextStep (k : Nat) (x : Slice) : Slice := onMach (fun g m => if m.jrn.run then beginStep g (k + 1) m else m) x

/-- How step k ends; none while it goes on. -/
def endStep (k : Nat) (o : StepEnd) (x : Slice) : Option Slice :=
  let ends := fun (ok : Bool) => onMach (fun _ m => if ok then stepSucceeds k o.ticks m else stepFails k 0 o.ticks m) x
  match stepMet x.1 x.2 k with
  | some met =>
    if !met && o.ok then none
    else if k < 9 then some (ends met)
    else some (onMach (fun g m => endWait g k met o.ticks m) x)
  | none =>
    if k == 1 then some (ends (o.ok && !x.2.jrn.tmode))
    else if k == 4 then some (onMach (fun _ m => endBist o m) x)
    else if k == 5 then some (if o.ok then onMach initArrays (onRegs initRegs (ends true)) else ends false)
    else if k == 7 then
      (if x.2.img.load.isSome && o.ok then none
       else
        let y := if x.2.img.load.isSome then onMach (fun _ m => giveUpLoad m) x else x
        if y.2.img.result != 0 && !y.2.jrn.second then some (onMach secondLoad y) else some (onMach (fun _ m => endImage o.ticks m) y))
    else if k == 8 then some (if o.ok then onMach (fun _ m => stopHalf1 m) (ends true) else ends false)
    else if k == 12 then some (if o.ok then onMach (fun _ m => endStart true m) (ends true) else ends false)
    else none

/-- The second load of step 7 is under way, or the start has ended: no next step. -/
def stepOver (k : Nat) (m : Mach) : Bool := m.jrn.run && (jrnRec m.jrn k).state != stRUNNING

/-- JOURNAL_STEP_END (R483 to R487). -/
def execJournalStepEnd (o : StepEnd) (s : State) : Host.Outcome State Fault Refusal :=
  let k := s.m.jrn.step.toNat
  if !s.m.jrn.run then .next s
  else match endStep k o (s.regs, s.m) with
    | none => .next s
    | some x => .next (rest s (if stepOver k x.2 then nextStep k x else x))

/-- The halves are OFF, as while BLKRST_N is asserted. -/
def bothOff (m : Mach) : Bool := (halfAt m 0).pw.preq == 0 && (halfAt m 1).pw.preq == 0

/-- JOURNAL_START (R483, R486): BLKRST_N is released, and step 1 samples the straps. -/
def execJournalStart (st : Straps) (s : State) : Host.Outcome State Fault Refusal :=
  if s.m.jrn.run || !bothOff s.m then .next s
  else run (fun g m =>
    let cut := fun (j : Jrn) => ((List.range 12).map (· + 1)).foldl cutOff j
    let sample := fun (j : Jrn) =>
      { j with run := true, ready := false, dn := false, starts := j.starts + 1, tmode := st.tmode, die := st.die, pos := st.pos, boota := st.boota }
    beginStep g 1 (modJrn (fun j => sample (cut j)) m)) s

end Sys2Proof.Machine
end

