-- ==== Sys2Proof/Machine/PortCmds.lean ====
section
/-!
DEFINITION. The commands of a request port (chapter 02): the REQ beat of each opcode, WD and SRSP beats, transfers to the agent,
credits, and the release of held requests (R419) with the label buckets (R416).
-/

namespace Sys2Proof.Machine

/-- A beat taken in the tail of a stop abandons the stop (R477). -/
def takeBeat (h : Half) (m : Mach) : Mach := if (halfAt m h).pw.tail then raiseDemand h m else m

/-! ## WD beats (R53, R54) -/

/-- A WD beat is taken. -/
def wdTake (g : Regs) (p : PortIx) (b : WdBeat) (m : Mach) : Mach :=
  let m := takeBeat (portHalf p) (modPort p (fun x => { x with
    avail := { x.avail with wd := x.avail.wd - 1 }, owed := { x.owed with wd := x.owed.wd + 1 }, wdIn := x.wdIn ++ [b] }) m)
  drainPort g p m

/-- WD_BEAT (R54). Every beat with a credit is taken (R38); one that comes before its REQ beat stands until that is parsed (log 95). -/
def execWdBeat (p : PortIx) (b : WdBeat) (s : State) : Host.Outcome State Fault Refusal :=
  let port := portAt s.m p
  if !clocked s.m (portHalf p) then run (fun _ => raiseDemand (portHalf p)) s
  else if s.regs.rpEn[p] && !isJoined port.hello then run (fun _ m => m) s
  else if s.regs.rpEn[p] && port.avail.wd == 0 then .fault .noCredit
  else run (fun g => wdTake g p b) s

/-! ## REQ beats -/

/-- A REQ beat of an agent that has not joined is discarded and logged (R110, R453). It has no MTYPE, so OPC is left open (log 8). -/
def discardReq (p : PortIx) (b : ReqBeat) (m : Mach) : Mach :=
  logVio (vioMessage (BitVec.ofNat 4 p.val) ((Config.freeWord m.freeCtr).setWidth 6) (lineBase (lineOf b.addr))) (spend m)

/-- A REQ beat is taken into the ingress buffer and parsed in its turn (R38, R43). -/
def takeReq (g : Regs) (p : PortIx) (opc : BitVec 6) (b : ReqBeat) (m : Mach) : Mach :=
  let m := takeBeat (portHalf p) (modPort p (takeReqCredit b.lane) m)
  let i := inBeat g p opc b m
  let need := beatsOf opc b.size
  drainPort g p (modPort p (fun x =>
    let x := { x with wd := if need == 0 then x.wd else x.wd ++ [(i.req.id, need, 0)] }
    if b.lane then { x with in1 := x.in1 ++ [i] } else { x with in0 := x.in0 ++ [i] }) { m with nextId := m.nextId + 1 })

/-- A REQ beat arrives. While its half takes no beats the agent holds it and raises WAKE (R476); an agent that has not joined is not
heard (R110); a beat without a credit breaks R38; a disabled port refuses every beat (R78). -/
def reqBeat (opc : BitVec 6) (p : PortIx) (b : ReqBeat) (s : State) : Host.Outcome State Fault Refusal :=
  let port := portAt s.m p
  let avail := if b.lane then port.avail.req1 else port.avail.req0
  if !clocked s.m (portHalf p) then run (fun _ => raiseDemand (portHalf p)) s
  else if s.regs.rpEn[p] && !isJoined port.hello then run (fun _ => discardReq p b) s
  else if s.regs.rpEn[p] && avail == 0 then .fault .noCredit
  else run (fun g => takeReq g p opc b) s

/-- RD_NC (R208). -/
def execRdNc (p : PortIx) (b : ReqBeat) (s : State) : Host.Outcome State Fault Refusal := reqBeat 0x00 p b s
/-- RD_S (R206). -/
def execRdS (p : PortIx) (b : ReqBeat) (s : State) : Host.Outcome State Fault Refusal := reqBeat 0x01 p b s
/-- RD_U (R206). -/
def execRdU (p : PortIx) (b : ReqBeat) (s : State) : Host.Outcome State Fault Refusal := reqBeat 0x02 p b s
/-- PREF (R49). -/
def execPref (p : PortIx) (b : ReqBeat) (s : State) : Host.Outcome State Fault Refusal := reqBeat 0x03 p b s
/-- WR (R208). -/
def execWr (p : PortIx) (b : ReqBeat) (s : State) : Host.Outcome State Fault Refusal := reqBeat 0x08 p b s
/-- PLACE (R209). -/
def execPlace (p : PortIx) (b : ReqBeat) (s : State) : Host.Outcome State Fault Refusal := reqBeat 0x0A p b s
/-- UPG (R207). -/
def execUpg (p : PortIx) (b : ReqBeat) (s : State) : Host.Outcome State Fault Refusal := reqBeat 0x0B p b s
/-- EVICT (R206). -/
def execEvict (p : PortIx) (b : ReqBeat) (s : State) : Host.Outcome State Fault Refusal := reqBeat 0x0C p b s
/-- ATOM_R (R222). -/
def execAtomR (p : PortIx) (b : ReqBeat) (s : State) : Host.Outcome State Fault Refusal := reqBeat 0x10 p b s
/-- ATOM_N (R222). -/
def execAtomN (p : PortIx) (b : ReqBeat) (s : State) : Host.Outcome State Fault Refusal := reqBeat 0x11 p b s
/-- ADDL (R208). -/
def execAddl (p : PortIx) (b : ReqBeat) (s : State) : Host.Outcome State Fault Refusal := reqBeat 0x12 p b s
/-- GRP_OPEN (R338). -/
def execGrpOpen (p : PortIx) (b : ReqBeat) (s : State) : Host.Outcome State Fault Refusal := reqBeat 0x18 p b s
/-- GRP_CONTRIB (R342). -/
def execGrpContrib (p : PortIx) (b : ReqBeat) (s : State) : Host.Outcome State Fault Refusal := reqBeat 0x19 p b s
/-- GRP_ABORT (R346). -/
def execGrpAbort (p : PortIx) (b : ReqBeat) (s : State) : Host.Outcome State Fault Refusal := reqBeat 0x1A p b s
/-- CTR_ADD (R241). -/
def execCtrAdd (p : PortIx) (b : ReqBeat) (s : State) : Host.Outcome State Fault Refusal := reqBeat 0x20 p b s
/-- CTR_READ (R241). -/
def execCtrRead (p : PortIx) (b : ReqBeat) (s : State) : Host.Outcome State Fault Refusal := reqBeat 0x21 p b s
/-- CTR_RESET (R241). -/
def execCtrReset (p : PortIx) (b : ReqBeat) (s : State) : Host.Outcome State Fault Refusal := reqBeat 0x22 p b s
/-- WAIT (R248). -/
def execWait (p : PortIx) (b : ReqBeat) (s : State) : Host.Outcome State Fault Refusal := reqBeat 0x23 p b s
/-- INVOKE (R358). -/
def execInvoke (p : PortIx) (b : ReqBeat) (s : State) : Host.Outcome State Fault Refusal := reqBeat 0x28 p b s
/-- CLN (R208). -/
def execCln (p : PortIx) (b : ReqBeat) (s : State) : Host.Outcome State Fault Refusal := reqBeat 0x30 p b s
/-- INV (R208). -/
def execInv (p : PortIx) (b : ReqBeat) (s : State) : Host.Outcome State Fault Refusal := reqBeat 0x31 p b s
/-- CLNINV (R208). -/
def execClninv (p : PortIx) (b : ReqBeat) (s : State) : Host.Outcome State Fault Refusal := reqBeat 0x32 p b s
/-- ZERO (R208). -/
def execZero (p : PortIx) (b : ReqBeat) (s : State) : Host.Outcome State Fault Refusal := reqBeat 0x33 p b s
/-- RESERVED_OPCODE (R75): the OPC is one that Table 2.6 reserves. -/
def execReservedOpcode (p : PortIx) (opc : BitVec 6) (b : ReqBeat) (s : State) : Host.Outcome State Fault Refusal := reqBeat opc p b s

/-! ## SRSP (R65, R66) -/

/-- A snoop response: it names an outstanding snoop, or it is logged. -/
def srspTake (p : PortIx) (stxn : BitVec 8) (had : Bool) (m : Mach) : Mach :=
  let m := takeBeat (portHalf p) (modPort p (fun x => { x with
    avail := { x.avail with srsp := x.avail.srsp - 1 }, owed := { x.owed with srsp := x.owed.srsp + 1 } }) m)
  match (portAt m p).snoops.find? fun x => x.stxn == stxn && x.sent with
  | none => logVio (vioMessage (BitVec.ofNat 4 p.val) 3 0) m
  | some x => answerSnoop x.snoop had (modPort p (fun y => { y with snoops := y.snoops.erase x }) m)

/-- SRSP (R65). -/
def execSrsp (p : PortIx) (stxn : BitVec 8) (had : Bool) (s : State) : Host.Outcome State Fault Refusal :=
  let port := portAt s.m p
  let heard := s.regs.rpEn[p] && isJoined port.hello
  if !clocked s.m (portHalf p) then run (fun _ => raiseDemand (portHalf p)) s
  else if heard && port.avail.srsp == 0 then .fault .noCredit
  else run (fun _ => srspTake p stxn had) s

/-! ## Transfers (R41, R57 to R63) -/

/-- The last beat of a completion has transferred: its transaction is over (R47, R69, R203). -/
def endTxn (g : Regs) (p : PortIx) (c : Cmpl) (m : Mach) : Mach :=
  let m := modPort p (fun x => { x with txns := x.txns.filter fun t => t.req.id != c.req.id }) m
  enterReady g p { m with finished := m.finished ++ [(c.req, c.code)] }

/-- The RSP beat transfers. -/
def rspTransfer (g : Regs) (p : PortIx) (m : Mach) : Mach :=
  match (portAt m p).rspCur with
  | none => m
  | some c =>
    endTxn g p c (modPort p (fun x => { x with rspCur := none }) (emit (rspBeat p c) m))

/-- An RD beat transfers: the first of two, or the last (R60). -/
def rdTransfer (g : Regs) (p : PortIx) (m : Mach) : Mach :=
  match (portAt m p).rdCur with
  | none => m
  | some (i, second) =>
    let m := emit (rdBeat p i second) m
    if twoBeats i && !second then modPort p (fun x => { x with rdCur := some (i, true) }) m
    else
      let m := modPort p (fun x => { x with rdCur := none }) m
      match i with
      | .cmpl c => endTxn g p c m
      | .place .. => m

/-- The SNP beat transfers; the RD beats of a PLACE follow it (R65). -/
def snpTransfer (p : PortIx) (m : Mach) : Mach :=
  match (portAt m p).snp with
  | [] => m
  | x :: rest =>
    let (id, m) := newId (emit (.snp p x.snoop.kind x.stxn x.snoop.line) m)
    modPort p (fun y =>
      let y := { y with snp := rest, snoops := y.snoops.map fun z => if z.stxn == x.stxn then { z with sent := true } else z }
      if x.snoop.kind == .place then { y with rdNew := insertBy rdSerial (.place id x.stxn x.snoop.inst x.snoop.gen x.snoop.data) y.rdNew }
      else y) m

/-- COMPLETION_TRANSFER (R41). -/
def execCompletionTransfer (p : PortIx) (c : Chan) (s : State) : Host.Outcome State Fault Refusal :=
  run (fun g m =>
    if !clocked m (portHalf p) then m
    else match c with
      | .rsp => rspTransfer g p m
      | .rd => rdTransfer g p m
      | .snp => snpTransfer p m) s

/-! ## Credits (R39, R40, R78) -/

/-- Return one credit of a pool that the slice owes: a lane-0 request must have left the ingress buffer, and while the hold queue is
full or the global stop stands no REQ credit returns (R40, R535). -/
def returnCredit (stopped : Bool) (c : Pool) (x : Port) : Option Port :=
  match c with
  | .req0 => if x.owed.req0 > x.in0.length && !holdFull x && !stopped then
      some { x with avail := { x.avail with req0 := x.avail.req0 + 1 }, owed := { x.owed with req0 := x.owed.req0 - 1 } } else none
  | .req1 => if x.owed.req1 > 0 && !holdFull x && !stopped then
      some { x with avail := { x.avail with req1 := x.avail.req1 + 1 }, owed := { x.owed with req1 := x.owed.req1 - 1 } } else none
  | .wd => if x.owed.wd > x.wdIn.length then
      some { x with avail := { x.avail with wd := x.avail.wd + 1 }, owed := { x.owed with wd := x.owed.wd - 1 } } else none
  | .srsp => if x.owed.srsp > 0 then
      some { x with avail := { x.avail with srsp := x.avail.srsp + 1 }, owed := { x.owed with srsp := x.owed.srsp - 1 } } else none

/-- CREDIT_RETURN (R39). -/
def execCreditReturn (p : PortIx) (c : Pool) (s : State) : Host.Outcome State Fault Refusal :=
  run (fun g m =>
    if !clocked m (portHalf p) || !g.rpEn[p] || !isJoined (portAt m p).hello then m
    else match returnCredit m.dbg.stopped c (portAt m p) with
      | none => m
      | some x => emit (.credit p c) (modPort p (fun _ => x) m)) s

/-! ## Held requests (R414, R419) -/

/-- A held request that is the oldest of its label on its port and may go (R419). -/
def releasable (g : Regs) (m : Mach) (t : Txn) : Bool :=
  let c := labelCtx g t.req.label
  !g.svcReg || !c.en || c.inst != t.req.inst || c.rate == 0 || decide (levelOf m t.req.label ≥ 1)

/-- The oldest eligible held request of a port. -/
def nextHeld (g : Regs) (m : Mach) (seen rest : List Txn) : Option Txn :=
  match rest with
  | [] => none
  | t :: r =>
    if !(seen.any fun x => x.req.label == t.req.label) && releasable g m t then some t else nextHeld g m (seen ++ [t]) r

/-- The released request is checked again (R419) and enters the pipeline, or completes with its code. EN and determinism enforcement were
judged in the cycle of acceptance: what was accepted before a change completes normally (R33, R78). -/
def releaseHeld (g : Regs) (p : PortIx) (t : Txn) (m : Mach) : Mach :=
  match parseCode g m true false false t.req with
  | some c => refuseTxn p t c (opcBits t.req.op) m
  | none =>
    let m := if regulated g t.req then deduct t.req m else m
    enterReady g p (setPhase p t.req.id .ranged m)

/-- HOLD_RELEASE (R419). A global stop releases nothing (R535). -/
def execHoldRelease (p : PortIx) (s : State) : Host.Outcome State Fault Refusal :=
  run (fun g m =>
    if m.dbg.stopped || !clocked m (portHalf p) then m
    else match nextHeld g m [] (heldOn (portAt m p)) with
      | none => m
      | some t => drainPort g p (releaseHeld g p t m)) s

/-- The labels with a refill, in one pass (R416). -/
def refillLabels (g : Regs) (level : Tab Int) : Tab Int :=
  g.live.foldl (fun t x =>
    let c := x.2
    if c.en && c.rate != 0 then
      tabMod 0 t x.1 fun v => if v < (c.burst.toNat : Int) then min (c.burst.toNat : Int) (v + c.rate.toNat) else v
    else t) level

/-- BUCKET_REFILL (R416): nothing refills while REG is 0 (R433). -/
def execBucketRefill (s : State) : Host.Outcome State Fault Refusal :=
  run (fun g m => if g.svcReg then { m with svc := { m.svc with level := refillLabels g m.svc.level } } else m) s

/-! ## The order point, the hold window, the miss tracker -/

/-- ORDER_POINT_WAIT_END (R201). -/
def execOrderPointWaitEnd (h : Half) (s : State) : Host.Outcome State Fault Refusal :=
  run (fun g m =>
    if !clocked m h then m
    else match nextWaiter g m h [] (halfAt m h).opWait with
      | none => m
      | some (r, rest) =>
        let m := modHalf h (fun hs => { hs with opWait := rest }) m
        if (halfAt m h).safe && !isCounterOp r.op then safeAnswer h r m else orderNow g h r m) s

/-- HOLD_WINDOW_END (R204): the delayed snoops are presented. -/
def execHoldWindowEnd (h : Half) (l : LineAddr) (s : State) : Host.Outcome State Fault Refusal :=
  run (fun g m =>
    let ws := (halfAt m h).wins.filter fun w => w.line == l
    let m := modHalf h (fun hs => { hs with wins := hs.wins.filter fun w => w.line != l }) m
    ws.foldl (fun m w =>
      let m := w.delayed.foldl (fun m x => snoopNow g h x.kind l x.idx x.data x.inst x.gen m) m
      w.xdelay.foldl (fun m x => xsnoopNow g h l x.1 x.2 m) m) m) s

/-- The line of a refetch that waited (R145) gets its READ. -/
def releaseRefetch (g : Regs) (h : Half) (l : LineAddr) (m : Mach) : Mach :=
  let m := modHalf h (fun hs => { hs with refetch := hs.refetch.erase l }) m
  if chanJoined m h then startRefetch g h l m else loseLine g h none l (logLoss (lossLine lossMEM h l) m)

/-- The requests of a line that waited at the lookup stage go on, in their order. -/
def releaseMisses (h : Half) (l : LineAddr) (m : Mach) : Mach :=
  let (mine, rest) := (halfAt m h).missWait.partition fun x => lineOf x.addr == l
  let stage := fun (x : Req) => if isPackage m x.addr then Stage.data else Stage.order
  let m := modHalf h (fun hs => { hs with missWait := rest }) m
  { m with again := m.again ++ mine.map fun x => ⟨h, x, stage x⟩ }

/-- A line waits for no tracker entry, and for no WRITE or ATOMIC of it (R151, R153, R226). -/
def missMayGo (m : Mach) (h : Half) (l : LineAddr) : Bool :=
  let hs := halfAt m h
  !writePending m h l && !atomicPending m h l && ((missOf hs l).isSome || decide (missCount hs < Config.missEntries))

/-- MISS_WAIT_RELEASE (R153): a refetch that waited, else the oldest request that waited for an entry, goes on. -/
def execMissWaitRelease (h : Half) (s : State) : Host.Outcome State Fault Refusal :=
  run (fun g m =>
    let hs := halfAt m h
    match hs.refetch.find? (missMayGo m h), hs.missWait.find? fun r => missMayGo m h (lineOf r.addr) && !hs.refetch.contains (lineOf r.addr) with
    | some l, _ => releaseRefetch g h l m
    | none, some r => releaseMisses h (lineOf r.addr) m
    | none, none => m) s

/-- BELLOWS_PREFETCH (R157): the oldest prefetch that has arrived is ordered. A global stop pauses the Bellows (R535). -/
def execBellowsPrefetch (h : Half) (s : State) : Host.Outcome State Fault Refusal :=
  run (fun g m =>
    if m.dbg.stopped || !clocked m h then m
    else match (halfAt m h).prefQ with
      | [] => m
      | r :: rest =>
        let m := modHalf h (fun hs => { hs with prefQ := rest }) m
        if (halfAt m h).safe then m else orderAt g h r m) s

end Sys2Proof.Machine
end

