-- ==== Sys2Proof/Machine/RegRows.lean ====
section
/-!
DEFINITION. The rows that apply the register write at the front of the management queue (R114): each takes the writes of its register that
do what the row names, and applies the whole word (R546). A write that does several things is taken by each of their rows.
-/

namespace Sys2Proof.Machine

/-! ## The writes that have a row of their own -/

/-- Offset lo + step × i + at, for i below n. -/
def within (off lo n step at_ : Nat) : Bool := decide (lo ≤ off) && decide (off < lo + n * step) && (off - lo) % step == at_

def isPortCtl (off : Nat) : Bool := within off 0xA000 4 0x10 0
def isMask (off : Nat) : Bool :=
  (off / 0x1000 == 1 || off / 0x1000 == 2) && (within (off % 0x1000) 0x240 16 4 0 || off % 0x1000 == 0x280 || off % 0x1000 == 0x284)
def isRangeGo (off : Nat) (v : BitVec 32) (op : BitVec 3) : Bool := off == 0x160C && bitAt v 4 && vbits v 0 3 == op
def isRemapGo (off : Nat) (v : BitVec 32) : Bool := (off == 0x6180 || off == 0x6188) && bitAt v 31
def isQuench (off : Nat) : Bool := off == 0x6204 || off == 0x6244
def isInstanceCmd (off : Nat) (v : BitVec 32) (cmd : BitVec 3) : Bool := off == 0x800C && vbits v 0 3 == cmd
def isHaltCtl (off : Nat) : Bool := off == 0x9180 || off == 0x9188
def isTraceCtl (off : Nat) : Bool := off == 0x9200 || off == 0x9220

def rowProfileSet (off : Nat) (_ : BitVec 32) : Bool := off == 0x010
def rowPortDisable (off : Nat) (v : BitVec 32) : Bool := isPortCtl off && !bitAt v 0
def rowPortEnable (off : Nat) (v : BitVec 32) : Bool := isPortCtl off && bitAt v 0
def rowHcCmpWrite (off : Nat) (_ : BitVec 32) : Bool := off == 0x1100 || off == 0x2100
def rowHcBlwWrite (off : Nat) (_ : BitVec 32) : Bool := off == 0x1108 || off == 0x2108
def rowCacheDisable (off : Nat) (v : BitVec 32) : Bool := (off == 0x1200 || off == 0x2200) && !bitAt v 0
def rowCacheEnable (off : Nat) (v : BitVec 32) : Bool := (off == 0x1200 || off == 0x2200) && bitAt v 0
def rowWayUseWrite (off : Nat) (_ : BitVec 32) : Bool := off == 0x1210 || off == 0x1218 || off == 0x2210 || off == 0x2218
def rowMaskWrite (off : Nat) (_ : BitVec 32) : Bool := isMask off
def rowHrCtlWrite (off : Nat) (_ : BitVec 32) : Bool := within off 0x1400 16 0x10 8
def rowReCln (off : Nat) (v : BitVec 32) : Bool := isRangeGo off v 0
def rowReInv (off : Nat) (v : BitVec 32) : Bool := isRangeGo off v 1
def rowReClninv (off : Nat) (v : BitVec 32) : Bool := isRangeGo off v 2
def rowReZero (off : Nat) (v : BitVec 32) : Bool := isRangeGo off v 3
def rowRePin (off : Nat) (v : BitVec 32) : Bool := isRangeGo off v 4
def rowReUnpin (off : Nat) (v : BitVec 32) : Bool := isRangeGo off v 5
def rowReAbort (off : Nat) (v : BitVec 32) : Bool := off == 0x160C && bitAt v 5
def rowReAck (off : Nat) (v : BitVec 32) : Bool := off == 0x160C && bitAt v 6
def rowCohCtlWrite (off : Nat) (_ : BitVec 32) : Bool := off == 0x3000
def rowCohPredMode (off : Nat) (_ : BitVec 32) : Bool := off == 0x3004
def rowCohPredRst (off : Nat) (v : BitVec 32) : Bool := off == 0x3004 && bitAt v 7
def rowIdxInstWrite (off : Nat) (_ : BitVec 32) : Bool := within off 0x3040 16 4 0
def rowCtrOwnWrite (off : Nat) (_ : BitVec 32) : Bool := within off 0x3100 64 4 0
def rowArbCtlWrite (off : Nat) (_ : BitVec 32) : Bool := off == 0x3210
def rowCtrCmdReset (off : Nat) (v : BitVec 32) : Bool := off == 0x3228 && bitAt v 0
def rowAnvCtlWrite (off : Nat) (_ : BitVec 32) : Bool := off == 0x5000 || off == 0x5100
def rowDetCtlWrite (off : Nat) (_ : BitVec 32) : Bool := off == 0x020
def rowGrpCmdAbort (off : Nat) (v : BitVec 32) : Bool := (off == 0x1314 || off == 0x2314) && bitAt v 0
def rowSeqEnable (off : Nat) (_ : BitVec 32) : Bool := off == 0x5080 || off == 0x5180
def rowSeqKill (off : Nat) (v : BitVec 32) : Bool := (off == 0x5080 || off == 0x5180) && vbits v 4 2 != 0
def rowImageLoad (off : Nat) (v : BitVec 32) : Bool := off == 0x7100 && bitAt v 0
def rowLblSwap (off : Nat) (v : BitVec 32) : Bool := off == 0x4008 && bitAt v 0
def rowSvcCtlWrite (off : Nat) (_ : BitVec 32) : Bool := off == 0x4000
def rowClassDescWrite (off : Nat) (_ : BitVec 32) : Bool := decide (0x4100 ≤ off) && decide (off < 0x4200) && off % 16 != 12
def rowRasForce (off : Nat) (v : BitVec 32) : Bool := off == 0x6000 && vbits v 6 2 != 0
def rowRasInjArm (off : Nat) (v : BitVec 32) : Bool := off == 0x6080 && bitAt v 31
def rowRasInjDisarm (off : Nat) (v : BitVec 32) : Bool := off == 0x6080 && !bitAt v 31
def rowRmRemap (off : Nat) (v : BitVec 32) : Bool := isRemapGo off v && !bitAt v 30
def rowRmRelease (off : Nat) (v : BitVec 32) : Bool := isRemapGo off v && bitAt v 30
def rowQnGo (off : Nat) (v : BitVec 32) : Bool := isQuench off && bitAt v 6
def rowQnAbort (off : Nat) (v : BitVec 32) : Bool := isQuench off && bitAt v 7
def rowQnAck (off : Nat) (v : BitVec 32) : Bool := isQuench off && bitAt v 8
def rowPwrCtlWrite (off : Nat) (_ : BitVec 32) : Bool := off == 0x7000
def rowJrnClr (off : Nat) (v : BitVec 32) : Bool := off == 0x7010 && bitAt v 31
def rowViReset (off : Nat) (v : BitVec 32) : Bool := isInstanceCmd off v 1
def rowViFreeze (off : Nat) (v : BitVec 32) : Bool := isInstanceCmd off v 2
def rowViThaw (off : Nat) (v : BitVec 32) : Bool := isInstanceCmd off v 3
def rowViSave (off : Nat) (v : BitVec 32) : Bool := isInstanceCmd off v 4
def rowViRestore (off : Nat) (v : BitVec 32) : Bool := isInstanceCmd off v 5
def rowViEnable (off : Nat) (_ : BitVec 32) : Bool := off == 0x8004
def rowViWctlWrite (off : Nat) (_ : BitVec 32) : Bool := off == 0x804C
def rowDlEnable (off : Nat) (_ : BitVec 32) : Bool := off == 0x8080
def rowDlSwitch (off : Nat) (v : BitVec 32) : Bool := off == 0x8080 && bitAt v 30
def rowTsArm (off : Nat) (v : BitVec 32) : Bool := off == 0x9018 && bitAt v 0
def rowOfsRemeasure (off : Nat) (v : BitVec 32) : Bool := off == 0x9030 && bitAt v 31
def rowSeqHalt (off : Nat) (v : BitVec 32) : Bool := isHaltCtl off && vbits v 0 2 != 0
def rowSeqResume (off : Nat) (v : BitVec 32) : Bool := isHaltCtl off && vbits v 2 2 != 0
def rowSeqStep (off : Nat) (v : BitVec 32) : Bool := isHaltCtl off && vbits v 4 2 != 0
def rowTrcArm (off : Nat) (v : BitVec 32) : Bool := isTraceCtl off && bitAt v 31
def rowTrcTrig (off : Nat) (v : BitVec 32) : Bool := isTraceCtl off && bitAt v 30
def rowTrcAck (off : Nat) (v : BitVec 32) : Bool := isTraceCtl off && bitAt v 29
def rowPfClr (off : Nat) (v : BitVec 32) : Bool := off == 0x93F0 && vbits v 2 2 != 0
def rowMbGo (off : Nat) (v : BitVec 32) : Bool := off == 0xF000 && bitAt v 31
def rowMbAck (off : Nat) (v : BitVec 32) : Bool := off == 0xF000 && bitAt v 30
def rowDbgMbselWrite (off : Nat) (_ : BitVec 32) : Bool := off == 0x900C
def rowDmpArm (off : Nat) (v : BitVec 32) : Bool := within off 0x9800 8 0x20 0x18 && bitAt v 31
def rowDmpAck (off : Nat) (v : BitVec 32) : Bool := within off 0x9800 8 0x20 0x18 && bitAt v 30
def rowGsGo (off : Nat) (v : BitVec 32) : Bool := off == 0x9A00 && bitAt v 31 && !bitAt v 30
def rowGsArm (off : Nat) (v : BitVec 32) : Bool := off == 0x9A00 && bitAt v 31 && bitAt v 30
def rowGsResume (off : Nat) (v : BitVec 32) : Bool := off == 0x9A00 && bitAt v 29

/-- Every row of this file but REG_WRITE. -/
def specialRows : List (Nat → BitVec 32 → Bool) :=
  [rowProfileSet, rowPortDisable, rowPortEnable, rowHcCmpWrite, rowHcBlwWrite, rowCacheDisable, rowCacheEnable, rowWayUseWrite,
   rowMaskWrite, rowHrCtlWrite, rowReCln, rowReInv, rowReClninv, rowReZero, rowRePin, rowReUnpin,
   rowReAbort, rowReAck, rowCohCtlWrite, rowCohPredMode, rowCohPredRst, rowIdxInstWrite, rowCtrOwnWrite, rowArbCtlWrite,
   rowCtrCmdReset, rowAnvCtlWrite, rowDetCtlWrite, rowGrpCmdAbort, rowSeqEnable, rowSeqKill, rowImageLoad, rowLblSwap,
   rowSvcCtlWrite, rowClassDescWrite, rowRasForce, rowRasInjArm, rowRasInjDisarm, rowRmRemap, rowRmRelease, rowQnGo,
   rowQnAbort, rowQnAck, rowPwrCtlWrite, rowJrnClr, rowViReset, rowViFreeze, rowViThaw, rowViSave,
   rowViRestore, rowViEnable, rowViWctlWrite, rowDlEnable, rowDlSwitch, rowTsArm, rowOfsRemeasure, rowSeqHalt,
   rowSeqResume, rowSeqStep, rowTrcArm, rowTrcTrig, rowTrcAck, rowPfClr, rowMbGo, rowMbAck,
   rowDbgMbselWrite, rowDmpArm, rowDmpAck, rowGsGo, rowGsArm, rowGsResume]

/-- A write to a register without behaviour of its own: no other row takes it. -/
def rowPlain (off : Nat) (v : BitVec 32) : Bool := decide (off < 0x80000) && off != indData && !(specialRows.any fun r => r off v)

/-! ## The rows -/

/-- REG_WRITE (R114, R546). -/
def execRegWrite (s : State) : Host.Outcome State Fault Refusal := frontWrite rowPlain applyWrite s

/-- PROFILE_SET (R30 to R32). -/
def execProfileSet (s : State) : Host.Outcome State Fault Refusal := frontWrite rowProfileSet applyWrite s

/-- PORT_DISABLE (R78). -/
def execPortDisable (s : State) : Host.Outcome State Fault Refusal := frontWrite rowPortDisable applyWrite s

/-- PORT_ENABLE (R79). -/
def execPortEnable (s : State) : Host.Outcome State Fault Refusal := frontWrite rowPortEnable applyWrite s

/-- HC_CMP_WRITE (R158). -/
def execHcCmpWrite (s : State) : Host.Outcome State Fault Refusal := frontWrite rowHcCmpWrite applyWrite s

/-- HC_BLW_WRITE (R160). -/
def execHcBlwWrite (s : State) : Host.Outcome State Fault Refusal := frontWrite rowHcBlwWrite applyWrite s

/-- CACHE_DISABLE (R184, R185). -/
def execCacheDisable (s : State) : Host.Outcome State Fault Refusal := frontWrite rowCacheDisable applyWrite s

/-- CACHE_ENABLE (R186). -/
def execCacheEnable (s : State) : Host.Outcome State Fault Refusal := frontWrite rowCacheEnable applyWrite s

/-- WAY_USE_WRITE (R163 to R165). -/
def execWayUseWrite (s : State) : Host.Outcome State Fault Refusal := frontWrite rowWayUseWrite applyWrite s

/-- MASK_WRITE (R167, R168). -/
def execMaskWrite (s : State) : Host.Outcome State Fault Refusal := frontWrite rowMaskWrite applyWrite s

/-- HR_CTL_WRITE (R171). -/
def execHrCtlWrite (s : State) : Host.Outcome State Fault Refusal := frontWrite rowHrCtlWrite applyWrite s

/-- RE_CLN (R176, R178). -/
def execReCln (s : State) : Host.Outcome State Fault Refusal := frontWrite rowReCln applyWrite s

/-- RE_INV (R176, R178). -/
def execReInv (s : State) : Host.Outcome State Fault Refusal := frontWrite rowReInv applyWrite s

/-- RE_CLNINV (R176, R178). -/
def execReClninv (s : State) : Host.Outcome State Fault Refusal := frontWrite rowReClninv applyWrite s

/-- RE_ZERO (R176, R178). -/
def execReZero (s : State) : Host.Outcome State Fault Refusal := frontWrite rowReZero applyWrite s

/-- RE_PIN (R176, R178, R180). -/
def execRePin (s : State) : Host.Outcome State Fault Refusal := frontWrite rowRePin applyWrite s

/-- RE_UNPIN (R176, R178). -/
def execReUnpin (s : State) : Host.Outcome State Fault Refusal := frontWrite rowReUnpin applyWrite s

/-- RE_ABORT (R183). -/
def execReAbort (s : State) : Host.Outcome State Fault Refusal := frontWrite rowReAbort applyWrite s

/-- RE_ACK (R183). -/
def execReAck (s : State) : Host.Outcome State Fault Refusal := frontWrite rowReAck applyWrite s

/-- COH_CTL_WRITE (R227). -/
def execCohCtlWrite (s : State) : Host.Outcome State Fault Refusal := frontWrite rowCohCtlWrite applyWrite s

/-- COH_PRED_MODE (R228). -/
def execCohPredMode (s : State) : Host.Outcome State Fault Refusal := frontWrite rowCohPredMode applyWrite s

/-- COH_PRED_RST (R228). -/
def execCohPredRst (s : State) : Host.Outcome State Fault Refusal := frontWrite rowCohPredRst applyWrite s

/-- IDX_INST_WRITE (R565). -/
def execIdxInstWrite (s : State) : Host.Outcome State Fault Refusal := frontWrite rowIdxInstWrite applyWrite s

/-- CTR_OWN_WRITE (R257). -/
def execCtrOwnWrite (s : State) : Host.Outcome State Fault Refusal := frontWrite rowCtrOwnWrite applyWrite s

/-- ARB_CTL_WRITE (R242, R258). -/
def execArbCtlWrite (s : State) : Host.Outcome State Fault Refusal := frontWrite rowArbCtlWrite applyWrite s

/-- CTR_CMD_RESET (R259). -/
def execCtrCmdReset (s : State) : Host.Outcome State Fault Refusal := frontWrite rowCtrCmdReset applyWrite s

/-- ANV_CTL_WRITE (R322). -/
def execAnvCtlWrite (s : State) : Host.Outcome State Fault Refusal := frontWrite rowAnvCtlWrite applyWrite s

/-- DET_CTL_WRITE (R351). -/
def execDetCtlWrite (s : State) : Host.Outcome State Fault Refusal := frontWrite rowDetCtlWrite applyWrite s

/-- GRP_CMD_ABORT (R354). -/
def execGrpCmdAbort (s : State) : Host.Outcome State Fault Refusal := frontWrite rowGrpCmdAbort applyWrite s

/-- SEQ_ENABLE (R378). -/
def execSeqEnable (s : State) : Host.Outcome State Fault Refusal := frontWrite rowSeqEnable applyWrite s

/-- SEQ_KILL (R378). -/
def execSeqKill (s : State) : Host.Outcome State Fault Refusal := frontWrite rowSeqKill applyWrite s

/-- IMAGE_LOAD (R407, R400). -/
def execImageLoad (s : State) : Host.Outcome State Fault Refusal := frontWrite rowImageLoad applyWrite s

/-- LBL_SWAP (R413). -/
def execLblSwap (s : State) : Host.Outcome State Fault Refusal := frontWrite rowLblSwap applyWrite s

/-- SVC_CTL_WRITE (R433). -/
def execSvcCtlWrite (s : State) : Host.Outcome State Fault Refusal := frontWrite rowSvcCtlWrite applyWrite s

/-- CLASS_DESC_WRITE (R422). -/
def execClassDescWrite (s : State) : Host.Outcome State Fault Refusal := frontWrite rowClassDescWrite applyWrite s

/-- RAS_FORCE (R466, R455). -/
def execRasForce (s : State) : Host.Outcome State Fault Refusal := frontWrite rowRasForce applyWrite s

/-- RAS_INJ_ARM (R464). -/
def execRasInjArm (s : State) : Host.Outcome State Fault Refusal := frontWrite rowRasInjArm applyWrite s

/-- RAS_INJ_DISARM (R464). -/
def execRasInjDisarm (s : State) : Host.Outcome State Fault Refusal := frontWrite rowRasInjDisarm applyWrite s

/-- RM_REMAP (R459, R472). -/
def execRmRemap (s : State) : Host.Outcome State Fault Refusal := frontWrite rowRmRemap applyWrite s

/-- RM_RELEASE (R459, R472). -/
def execRmRelease (s : State) : Host.Outcome State Fault Refusal := frontWrite rowRmRelease applyWrite s

/-- QN_GO (R463, R473). -/
def execQnGo (s : State) : Host.Outcome State Fault Refusal := frontWrite rowQnGo applyWrite s

/-- QN_ABORT (R463). -/
def execQnAbort (s : State) : Host.Outcome State Fault Refusal := frontWrite rowQnAbort applyWrite s

/-- QN_ACK (R463). -/
def execQnAck (s : State) : Host.Outcome State Fault Refusal := frontWrite rowQnAck applyWrite s

/-- PWR_CTL_WRITE (R480, R489). -/
def execPwrCtlWrite (s : State) : Host.Outcome State Fault Refusal := frontWrite rowPwrCtlWrite applyWrite s

/-- JRN_CLR (R491). -/
def execJrnClr (s : State) : Host.Outcome State Fault Refusal := frontWrite rowJrnClr applyWrite s

/-- VI_RESET (R499, R500). -/
def execViReset (s : State) : Host.Outcome State Fault Refusal := frontWrite rowViReset applyWrite s

/-- VI_FREEZE (R499, R501). -/
def execViFreeze (s : State) : Host.Outcome State Fault Refusal := frontWrite rowViFreeze applyWrite s

/-- VI_THAW (R499). -/
def execViThaw (s : State) : Host.Outcome State Fault Refusal := frontWrite rowViThaw applyWrite s

/-- VI_SAVE (R499, R502). -/
def execViSave (s : State) : Host.Outcome State Fault Refusal := frontWrite rowViSave applyWrite s

/-- VI_RESTORE (R499, R503). -/
def execViRestore (s : State) : Host.Outcome State Fault Refusal := frontWrite rowViRestore applyWrite s

/-- VI_ENABLE (R504). -/
def execViEnable (s : State) : Host.Outcome State Fault Refusal := frontWrite rowViEnable applyWrite s

/-- VI_WCTL_WRITE (R497). -/
def execViWctlWrite (s : State) : Host.Outcome State Fault Refusal := frontWrite rowViWctlWrite applyWrite s

/-- DL_ENABLE (R507). -/
def execDlEnable (s : State) : Host.Outcome State Fault Refusal := frontWrite rowDlEnable applyWrite s

/-- DL_SWITCH (R510). -/
def execDlSwitch (s : State) : Host.Outcome State Fault Refusal := frontWrite rowDlSwitch applyWrite s

/-- TS_ARM (R520). -/
def execTsArm (s : State) : Host.Outcome State Fault Refusal := frontWrite rowTsArm applyWrite s

/-- OFS_REMEASURE (R522). -/
def execOfsRemeasure (s : State) : Host.Outcome State Fault Refusal := frontWrite rowOfsRemeasure applyWrite s

/-- SEQ_HALT (R523). -/
def execSeqHalt (s : State) : Host.Outcome State Fault Refusal := frontWrite rowSeqHalt applyWrite s

/-- SEQ_RESUME (R525). -/
def execSeqResume (s : State) : Host.Outcome State Fault Refusal := frontWrite rowSeqResume applyWrite s

/-- SEQ_STEP (R525). -/
def execSeqStep (s : State) : Host.Outcome State Fault Refusal := frontWrite rowSeqStep applyWrite s

/-- TRC_ARM (R528). -/
def execTrcArm (s : State) : Host.Outcome State Fault Refusal := frontWrite rowTrcArm applyWrite s

/-- TRC_TRIG (R528). -/
def execTrcTrig (s : State) : Host.Outcome State Fault Refusal := frontWrite rowTrcTrig applyWrite s

/-- TRC_ACK (R538). -/
def execTrcAck (s : State) : Host.Outcome State Fault Refusal := frontWrite rowTrcAck applyWrite s

/-- PF_CLR (R531). -/
def execPfClr (s : State) : Host.Outcome State Fault Refusal := frontWrite rowPfClr applyWrite s

/-- MB_GO (R555). -/
def execMbGo (s : State) : Host.Outcome State Fault Refusal := frontWrite rowMbGo applyWrite s

/-- MB_ACK (R555). -/
def execMbAck (s : State) : Host.Outcome State Fault Refusal := frontWrite rowMbAck applyWrite s

/-- DBG_MBSEL_WRITE (R555). -/
def execDbgMbselWrite (s : State) : Host.Outcome State Fault Refusal := frontWrite rowDbgMbselWrite applyWrite s

/-- DMP_ARM (R532). -/
def execDmpArm (s : State) : Host.Outcome State Fault Refusal := frontWrite rowDmpArm applyWrite s

/-- DMP_ACK (R538). -/
def execDmpAck (s : State) : Host.Outcome State Fault Refusal := frontWrite rowDmpAck applyWrite s

/-- GS_GO (R535). -/
def execGsGo (s : State) : Host.Outcome State Fault Refusal := frontWrite rowGsGo applyWrite s

/-- GS_ARM (R535). -/
def execGsArm (s : State) : Host.Outcome State Fault Refusal := frontWrite rowGsArm applyWrite s

/-- GS_RESUME (R537). -/
def execGsResume (s : State) : Host.Outcome State Fault Refusal := frontWrite rowGsResume applyWrite s

end Sys2Proof.Machine
end

