-- ==== Sys2Proof/Machine/Service.lean ====
section
/-!
DEFINITION. What service and regulation do by themselves (chapter 13): class bucket refills with their shortfalls (R424, R430), the copy of
the label table after a swap (R413).
-/

namespace Sys2Proof.Machine

/-- A READ of a class waits on a channel. -/
def classWaits (ch : MemChan) (k : BitVec 4) : Bool :=
  ch.readQ.any fun x => !x.low && x.cls == k && !isImageRead x

/-- A shortfall is counted and logged (R430, R431). -/
def countShortfall (h : Half) (k : Fin 16) (excess : Int) (m : Mach) : Mach :=
  let m := { m with svc := { m.svc with sfcnt := m.svc.sfcnt.set k.val (m.svc.sfcnt[k] + 1) k.isLt } }
  logMiss (coreTime m h) ⟨true, true, h == 1, BitVec.ofNat 4 k.val, 0, 0, 0, BitVec.ofNat 16 excess.toNat⟩ m

/-- A class bucket of a channel gains GRD, up to CBURST (R424). -/
def refillClass (g : Regs) (h : Half) (k : Fin 16) (m : Mach) : Mach :=
  let c := g.cls[k]
  if c.kind != 1 then m
  else
    let next : Int := tabGet 0 (chanAt m h).bucket k.val + c.grd.toNat
    let short := decide (next > 0) && classWaits (chanAt m h) (BitVec.ofNat 4 k.val) && g.svcOrder && clocked m h
    let m := modChan h (fun ch => { ch with bucket := tabSet 0 ch.bucket k.val (min 0 next) }) m
    if short then countShortfall h k next m else m

/-- CLASS_BUCKET_REFILL (R424): every guaranteed class, ascending. -/
def execClassBucketRefill (h : Half) (s : State) : Host.Outcome State Fault Refusal :=
  run (fun g m => (List.finRange 16).foldl (fun m k => refillClass g h k m) m) s

/-- LABEL_SHADOW_COPY (R413): one context is copied into the shadow; COPY falls after context 4,095. -/
def execLabelShadowCopy (s : State) : Host.Outcome State Fault Refusal :=
  let v := s.m.svc
  if !v.copy then .next s
  else .next { s with
    regs := { s.regs with shadow := tabSet LabelCtx.off s.regs.shadow v.copyAt (labelCtx s.regs (BitVec.ofNat 12 v.copyAt)) }
    m := { s.m with svc := { v with copyAt := v.copyAt + 1, copy := decide (v.copyAt < 4095) } } }

end Sys2Proof.Machine
end

