-- ==== Sys2Proof/Machine/Ticks.lean ====
section
/-!
DEFINITION. What time does by itself: the core cycle of a half with its profiling and trace (R519, R528, R530), the reference tick (R519), the
SYNC pulse (R119, R520), the end of a trace capture; and the completion of a logger OR (R511).
-/

namespace Sys2Proof.Machine

/-! ## The core cycle -/

/-- The ports of a half. -/
def portsOf (h : Half) : List PortIx := allPorts.filter fun p => portHalf p == h

/-- Hold-queue cycles: one for each held request of the half's ports (event 0x09). -/
def countHeld (g : Regs) (h : Half) (m : Mach) : Mach :=
  ((portsOf h).flatMap fun p => heldOn (portAt m p)).foldl (fun m t => profile g h 0x09 (who t.req) 1 m) m

/-- The operation in the MAC stage or the adder tree of an Anvil. -/
def stageOp (a : Anvil) : Option AOp := (a.mac.map (·.op)).or (a.tree.head?.map (·.op))

/-- Anvil cycles in core cycle c: three in four by the 1.5 GHz and 2 GHz of chapters 01 and 09 (log 3). -/
def anvilCycles (c : Nat) : Nat := 3 * (c + 1) / 4 - 3 * c / 4

/-- Anvil cycles with an operation in the MAC stage (event 0x0D). -/
def countMac (g : Regs) (h : Half) (c : Nat) (m : Mach) : Mach :=
  match stageOp (anvAt m h) with
  | some o => profile g h 0x0D (some (o.label, o.optag)) (anvilCycles c) m
  | none => m

/-- The per-cycle events of Table 17.2. -/
def countCycle (g : Regs) (h : Half) (m : Mach) : Mach :=
  countMac g h (halfAt m h).cycle (countHeld g h (profile g h 0x00 none 1 m))

/-- The counts of core cycles: since the start, and since the reference tick, up to 79 (R519). -/
def nextCycle (hs : HalfSt) : HalfSt := { hs with cycle := hs.cycle + 1, sub := min 79 (hs.sub + 1), trace := traceCycle hs.trace }

/-- PROFILING_CYCLE (R530): a core cycle of a half whose clocks run. -/
def execProfilingCycle (h : Half) (s : State) : Host.Outcome State Fault Refusal :=
  if clocked s.m h then .next { s with m := modHalf h nextCycle (countCycle s.regs h s.m) } else .next s

/-- TRACE_CAPTURE_END (R528). -/
def execTraceCaptureEnd (h : Half) (s : State) : Host.Outcome State Fault Refusal :=
  .next { s with m := modTrace h endTrace s.m }

/-! ## The reference tick -/

/-- TS adds 40, and the halves' cycles of the tick begin again. -/
def refTick (m : Mach) : Mach :=
  let m := { m with dbg := { m.dbg with ts := m.dbg.ts + 40, tick := m.dbg.tick + 1 } }
  bothHalves.foldl (fun m h => modHalf h (fun hs => { hs with sub := 0 }) m) m

/-- TIMESTAMP_TICK (R519). -/
def execTimestampTick (s : State) : Host.Outcome State Fault Refusal := .next { s with m := refTick s.m }

/-- A pulse within 1,024 reference ticks of the last accepted one is ignored (R119). -/
def pulseAccepted (d : Dbg) : Bool := match d.lastP with | some t => decide (t + 1024 < d.tick) | none => true

/-- The always-on domain on an accepted pulse (R520): latch and count, then TS_NEXT, then an armed stop. -/
def takePulse (g : Regs) (m : Mach) : Mach :=
  let d := m.dbg
  let m := { m with dbg := { d with
    latch := d.ts, syncs := d.syncs + 1, lastP := some d.tick, ts := if d.tsArm then g.tsNext else d.ts, tsArm := false } }
  if d.pend then stopNow m else m

/-- SYNC_PULSE (R119, R520). -/
def execSyncPulse (s : State) : Host.Outcome State Fault Refusal :=
  .next { s with m := if pulseAccepted s.m.dbg then takePulse s.regs s.m else s.m }

/-! ## The dirty logger -/

/-- A logger OR has completed (R511). -/
def orDone (r : Req) (c : Code) (m : Mach) : Mach :=
  { m with vi := { m.vi with
    orsOut := m.vi.orsOut.filter (· != r.id)
    fails := if c == .done then m.vi.fails else m.vi.fails + 1 } }

/-- DL_OR_COMPLETE (R511): the first OR whose completion has come. -/
def execDlOrComplete (s : State) : Host.Outcome State Fault Refusal :=
  run (fun _ m => match takeUnit (fun o => o == .logger) m with
    | some ((r, c, _), m) => orDone r c m
    | none => m) s

end Sys2Proof.Machine
end

