-- ==== Sys2Proof/Machine/Dispatch.lean ====
section
/-!
DEFINITION. The dispatch of the commands: one arm per row of the table, each one direct call of that row's meaning.
-/

namespace Sys2Proof.Machine

/-- The effect of a command on everything but the queue. -/
def exec (i : Instr) (s : State) : Host.Outcome State Fault Refusal :=
  match i with
  | .rdNc p b => Sys2Proof.Machine.execRdNc p b s
  | .rdS p b => Sys2Proof.Machine.execRdS p b s
  | .rdU p b => Sys2Proof.Machine.execRdU p b s
  | .pref p b => Sys2Proof.Machine.execPref p b s
  | .wr p b => Sys2Proof.Machine.execWr p b s
  | .place p b => Sys2Proof.Machine.execPlace p b s
  | .upg p b => Sys2Proof.Machine.execUpg p b s
  | .evict p b => Sys2Proof.Machine.execEvict p b s
  | .atomR p b => Sys2Proof.Machine.execAtomR p b s
  | .atomN p b => Sys2Proof.Machine.execAtomN p b s
  | .addl p b => Sys2Proof.Machine.execAddl p b s
  | .grpOpen p b => Sys2Proof.Machine.execGrpOpen p b s
  | .grpContrib p b => Sys2Proof.Machine.execGrpContrib p b s
  | .grpAbort p b => Sys2Proof.Machine.execGrpAbort p b s
  | .ctrAdd p b => Sys2Proof.Machine.execCtrAdd p b s
  | .ctrRead p b => Sys2Proof.Machine.execCtrRead p b s
  | .ctrReset p b => Sys2Proof.Machine.execCtrReset p b s
  | .wait p b => Sys2Proof.Machine.execWait p b s
  | .invoke p b => Sys2Proof.Machine.execInvoke p b s
  | .cln p b => Sys2Proof.Machine.execCln p b s
  | .inv p b => Sys2Proof.Machine.execInv p b s
  | .clninv p b => Sys2Proof.Machine.execClninv p b s
  | .zero p b => Sys2Proof.Machine.execZero p b s
  | .wdBeat p b => Sys2Proof.Machine.execWdBeat p b s
  | .srsp p stxn had => Sys2Proof.Machine.execSrsp p stxn had s
  | .completionTransfer p c => Sys2Proof.Machine.execCompletionTransfer p c s
  | .creditReturn p c => Sys2Proof.Machine.execCreditReturn p c s
  | .holdRelease p => Sys2Proof.Machine.execHoldRelease p s
  | .bucketRefill => Sys2Proof.Machine.execBucketRefill s
  | .orderPointWaitEnd h => Sys2Proof.Machine.execOrderPointWaitEnd h s
  | .snoopTimeout p stxn => Sys2Proof.Machine.execSnoopTimeout p stxn s
  | .holdWindowEnd h l => Sys2Proof.Machine.execHoldWindowEnd h l s
  | .missWaitRelease h => Sys2Proof.Machine.execMissWaitRelease h s
  | .memCmdIssue h => Sys2Proof.Machine.execMemCmdIssue h s
  | .msgCreditReturn k hcrd dcrd => Sys2Proof.Machine.execMsgCreditReturn k hcrd dcrd s
  | .memReadResponse c tag ok d => Sys2Proof.Machine.execMemReadResponse c tag ok d s
  | .memWriteResponse c tag ok => Sys2Proof.Machine.execMemWriteResponse c tag ok s
  | .memAtomicResponse c tag ok old => Sys2Proof.Machine.execMemAtomicResponse c tag ok old s
  | .fillInstall h l => Sys2Proof.Machine.execFillInstall h l s
  | .victimRecall h l => Sys2Proof.Machine.execVictimRecall h l s
  | .mergeEntryTimeout h l sec => Sys2Proof.Machine.execMergeEntryTimeout h l sec s
  | .mergeDrainEnd h l sec => Sys2Proof.Machine.execMergeDrainEnd h l sec s
  | .packMoveOut h l => Sys2Proof.Machine.execPackMoveOut h l s
  | .packMoveEnd h l => Sys2Proof.Machine.execPackMoveEnd h l s
  | .bellowsPrefetch h => Sys2Proof.Machine.execBellowsPrefetch h s
  | .fwd m => Sys2Proof.Machine.execFwd m s
  | .cmpl m => Sys2Proof.Machine.execCmpl m s
  | .snpf m => Sys2Proof.Machine.execSnpf m s
  | .srspf m => Sys2Proof.Machine.execSrspf m s
  | .xreq m => Sys2Proof.Machine.execXreq m s
  | .xwb m => Sys2Proof.Machine.execXwb m s
  | .xsnp m => Sys2Proof.Machine.execXsnp m s
  | .xrsp m => Sys2Proof.Machine.execXrsp m s
  | .hello src w => Sys2Proof.Machine.execHello src w s
  | .join src w => Sys2Proof.Machine.execJoin src w s
  | .bye src w => Sys2Proof.Machine.execBye src w s
  | .helloRepeat src => Sys2Proof.Machine.execHelloRepeat src s
  | .reclaimNotice ch sslice w => Sys2Proof.Machine.execReclaimNotice ch sslice w s
  | .reclaimAnswer ch sslice w => Sys2Proof.Machine.execReclaimAnswer ch sslice w s
  | .reclaimWalkStep h => Sys2Proof.Machine.execReclaimWalkStep h s
  | .lnkUpFall ch => Sys2Proof.Machine.execLnkUpFall ch s
  | .counterReport => Sys2Proof.Machine.execCounterReport s
  | .waitRelease => Sys2Proof.Machine.execWaitRelease s
  | .mgmtWrite a v mclk => Sys2Proof.Machine.execMgmtWrite a v mclk s
  | .mgmtRead a => Sys2Proof.Machine.execMgmtRead a s
  | .regWrite => Sys2Proof.Machine.execRegWrite s
  | .aliasWrite => Sys2Proof.Machine.execAliasWrite s
  | .profileSet => Sys2Proof.Machine.execProfileSet s
  | .portDisable => Sys2Proof.Machine.execPortDisable s
  | .portEnable => Sys2Proof.Machine.execPortEnable s
  | .hcCmpWrite => Sys2Proof.Machine.execHcCmpWrite s
  | .hcBlwWrite => Sys2Proof.Machine.execHcBlwWrite s
  | .cacheDisable => Sys2Proof.Machine.execCacheDisable s
  | .cacheEnable => Sys2Proof.Machine.execCacheEnable s
  | .wayUseWrite => Sys2Proof.Machine.execWayUseWrite s
  | .maskWrite => Sys2Proof.Machine.execMaskWrite s
  | .hrCtlWrite => Sys2Proof.Machine.execHrCtlWrite s
  | .reCln => Sys2Proof.Machine.execReCln s
  | .reInv => Sys2Proof.Machine.execReInv s
  | .reClninv => Sys2Proof.Machine.execReClninv s
  | .reZero => Sys2Proof.Machine.execReZero s
  | .rePin => Sys2Proof.Machine.execRePin s
  | .reUnpin => Sys2Proof.Machine.execReUnpin s
  | .reAbort => Sys2Proof.Machine.execReAbort s
  | .reAck => Sys2Proof.Machine.execReAck s
  | .reLineVisit h => Sys2Proof.Machine.execReLineVisit h s
  | .reComplete => Sys2Proof.Machine.execReComplete s
  | .cohCtlWrite => Sys2Proof.Machine.execCohCtlWrite s
  | .cohPredMode => Sys2Proof.Machine.execCohPredMode s
  | .cohPredRst => Sys2Proof.Machine.execCohPredRst s
  | .idxInstWrite => Sys2Proof.Machine.execIdxInstWrite s
  | .ctrOwnWrite => Sys2Proof.Machine.execCtrOwnWrite s
  | .arbCtlWrite => Sys2Proof.Machine.execArbCtlWrite s
  | .ctrCmdReset => Sys2Proof.Machine.execCtrCmdReset s
  | .aOpen h k => Sys2Proof.Machine.execAOpen h k s
  | .aMma h k => Sys2Proof.Machine.execAMma h k s
  | .aReduce h k => Sys2Proof.Machine.execAReduce h k s
  | .aDrain h k => Sys2Proof.Machine.execADrain h k s
  | .aDiscard h k => Sys2Proof.Machine.execADiscard h k s
  | .feedReadComplete h => Sys2Proof.Machine.execFeedReadComplete h s
  | .anvilSpill h => Sys2Proof.Machine.execAnvilSpill h s
  | .anvilOverflow h => Sys2Proof.Machine.execAnvilOverflow h s
  | .anvilOpComplete h => Sys2Proof.Machine.execAnvilOpComplete h s
  | .drainWriteComplete h => Sys2Proof.Machine.execDrainWriteComplete h s
  | .anvCtlWrite => Sys2Proof.Machine.execAnvCtlWrite s
  | .detCtlWrite => Sys2Proof.Machine.execDetCtlWrite s
  | .grpCmdAbort => Sys2Proof.Machine.execGrpCmdAbort s
  | .invokeDispatch h => Sys2Proof.Machine.execInvokeDispatch h s
  | .iNop h k => Sys2Proof.Machine.execINop h k s
  | .iMovi h k => Sys2Proof.Machine.execIMovi h k s
  | .iAddi h k => Sys2Proof.Machine.execIAddi h k s
  | .iAdd h k => Sys2Proof.Machine.execIAdd h k s
  | .iSub h k => Sys2Proof.Machine.execISub h k s
  | .iAnd h k => Sys2Proof.Machine.execIAnd h k s
  | .iOr h k => Sys2Proof.Machine.execIOr h k s
  | .iXor h k => Sys2Proof.Machine.execIXor h k s
  | .iShli h k => Sys2Proof.Machine.execIShli h k s
  | .iShri h k => Sys2Proof.Machine.execIShri h k s
  | .iMul h k => Sys2Proof.Machine.execIMul h k s
  | .iLdp h k => Sys2Proof.Machine.execILdp h k s
  | .iBeq h k => Sys2Proof.Machine.execIBeq h k s
  | .iBne h k => Sys2Proof.Machine.execIBne h k s
  | .iBltu h k => Sys2Proof.Machine.execIBltu h k s
  | .iJmp h k => Sys2Proof.Machine.execIJmp h k s
  | .iSetc h k => Sys2Proof.Machine.execISetc h k s
  | .iSetci h k => Sys2Proof.Machine.execISetci h k s
  | .iLoop h k => Sys2Proof.Machine.execILoop h k s
  | .iLd h k => Sys2Proof.Machine.execILd h k s
  | .ldComplete h k => Sys2Proof.Machine.execLdComplete h k s
  | .iSt h k => Sys2Proof.Machine.execISt h k s
  | .iFence h k => Sys2Proof.Machine.execIFence h k s
  | .iCadd h k => Sys2Proof.Machine.execICadd h k s
  | .iCwait h k => Sys2Proof.Machine.execICwait h k s
  | .iCread h k => Sys2Proof.Machine.execICread h k s
  | .iCrst h k => Sys2Proof.Machine.execICrst h k s
  | .programReqComplete h k => Sys2Proof.Machine.execProgramReqComplete h k s
  | .iDcopy h k => Sys2Proof.Machine.execIDcopy h k s
  | .iDset h k => Sys2Proof.Machine.execIDset h k s
  | .iIssue h k => Sys2Proof.Machine.execIIssue h k s
  | .iOpwait h k => Sys2Proof.Machine.execIOpwait h k s
  | .iEnd h k => Sys2Proof.Machine.execIEnd h k s
  | .endComplete h k => Sys2Proof.Machine.execEndComplete h k s
  | .seqFaultComplete h k => Sys2Proof.Machine.execSeqFaultComplete h k s
  | .seqEnable => Sys2Proof.Machine.execSeqEnable s
  | .seqKill => Sys2Proof.Machine.execSeqKill s
  | .imageLoad => Sys2Proof.Machine.execImageLoad s
  | .imageLoadEnd => Sys2Proof.Machine.execImageLoadEnd s
  | .lblSwap => Sys2Proof.Machine.execLblSwap s
  | .svcCtlWrite => Sys2Proof.Machine.execSvcCtlWrite s
  | .classDescWrite => Sys2Proof.Machine.execClassDescWrite s
  | .classBucketRefill h => Sys2Proof.Machine.execClassBucketRefill h s
  | .eccWriteback h => Sys2Proof.Machine.execEccWriteback h s
  | .eccRecheck h => Sys2Proof.Machine.execEccRecheck h s
  | .structVote h => Sys2Proof.Machine.execStructVote h s
  | .rasForce => Sys2Proof.Machine.execRasForce s
  | .rasInjArm => Sys2Proof.Machine.execRasInjArm s
  | .rasInjDisarm => Sys2Proof.Machine.execRasInjDisarm s
  | .rmRemap => Sys2Proof.Machine.execRmRemap s
  | .rmRelease => Sys2Proof.Machine.execRmRelease s
  | .remapCopy h => Sys2Proof.Machine.execRemapCopy h s
  | .qnGo => Sys2Proof.Machine.execQnGo s
  | .qnAbort => Sys2Proof.Machine.execQnAbort s
  | .qnAck => Sys2Proof.Machine.execQnAck s
  | .quenchRead h => Sys2Proof.Machine.execQuenchRead h s
  | .stopIdleExpiry h => Sys2Proof.Machine.execStopIdleExpiry h s
  | .stopTailExpiry h => Sys2Proof.Machine.execStopTailExpiry h s
  | .retEntry h => Sys2Proof.Machine.execRetEntry h s
  | .demandSample h => Sys2Proof.Machine.execDemandSample h s
  | .packRise h => Sys2Proof.Machine.execPackRise h s
  | .ckackRise h => Sys2Proof.Machine.execCkackRise h s
  | .clockStartDone h => Sys2Proof.Machine.execClockStartDone h s
  | .packTimeout h => Sys2Proof.Machine.execPackTimeout h s
  | .pwrCtlWrite => Sys2Proof.Machine.execPwrCtlWrite s
  | .powerOnReset => Sys2Proof.Machine.execPowerOnReset s
  | .blockReset => Sys2Proof.Machine.execBlockReset s
  | .journalStart st => Sys2Proof.Machine.execJournalStart st s
  | .journalStepEnd o => Sys2Proof.Machine.execJournalStepEnd o s
  | .portReset p => Sys2Proof.Machine.execPortReset p s
  | .jrnClr => Sys2Proof.Machine.execJrnClr s
  | .viReset => Sys2Proof.Machine.execViReset s
  | .viFreeze => Sys2Proof.Machine.execViFreeze s
  | .viThaw => Sys2Proof.Machine.execViThaw s
  | .viSave => Sys2Proof.Machine.execViSave s
  | .viRestore => Sys2Proof.Machine.execViRestore s
  | .viCmdDone => Sys2Proof.Machine.execViCmdDone s
  | .viEnable => Sys2Proof.Machine.execViEnable s
  | .viWctlWrite => Sys2Proof.Machine.execViWctlWrite s
  | .dlEnable => Sys2Proof.Machine.execDlEnable s
  | .dlSwitch => Sys2Proof.Machine.execDlSwitch s
  | .dlOrComplete => Sys2Proof.Machine.execDlOrComplete s
  | .syncPulse => Sys2Proof.Machine.execSyncPulse s
  | .tsArm => Sys2Proof.Machine.execTsArm s
  | .ofsRemeasure => Sys2Proof.Machine.execOfsRemeasure s
  | .tsProbeRequest schip t1 => Sys2Proof.Machine.execTsProbeRequest schip t1 s
  | .tsProbeReply schip t2 dt => Sys2Proof.Machine.execTsProbeReply schip t2 dt s
  | .probeTimeout => Sys2Proof.Machine.execProbeTimeout s
  | .breakpointHit h k => Sys2Proof.Machine.execBreakpointHit h k s
  | .seqHalt => Sys2Proof.Machine.execSeqHalt s
  | .seqResume => Sys2Proof.Machine.execSeqResume s
  | .seqStep => Sys2Proof.Machine.execSeqStep s
  | .trcArm => Sys2Proof.Machine.execTrcArm s
  | .trcTrig => Sys2Proof.Machine.execTrcTrig s
  | .trcAck => Sys2Proof.Machine.execTrcAck s
  | .traceCaptureEnd h => Sys2Proof.Machine.execTraceCaptureEnd h s
  | .pfClr => Sys2Proof.Machine.execPfClr s
  | .mbGo => Sys2Proof.Machine.execMbGo s
  | .mbAck => Sys2Proof.Machine.execMbAck s
  | .dbgMbselWrite => Sys2Proof.Machine.execDbgMbselWrite s
  | .mailboxCaptureDone => Sys2Proof.Machine.execMailboxCaptureDone s
  | .dmpArm => Sys2Proof.Machine.execDmpArm s
  | .dmpAck => Sys2Proof.Machine.execDmpAck s
  | .dumpCopyDone => Sys2Proof.Machine.execDumpCopyDone s
  | .gsGo => Sys2Proof.Machine.execGsGo s
  | .gsArm => Sys2Proof.Machine.execGsArm s
  | .gsResume => Sys2Proof.Machine.execGsResume s
  | .indDataRead => Sys2Proof.Machine.execIndDataRead s
  | .indDataWrite => Sys2Proof.Machine.execIndDataWrite s
  | .timestampTick => Sys2Proof.Machine.execTimestampTick s
  | .profilingCycle h => Sys2Proof.Machine.execProfilingCycle h s
  | .sweepFrame h => Sys2Proof.Machine.execSweepFrame h s
  | .labelShadowCopy => Sys2Proof.Machine.execLabelShadowCopy s
  | .lnkUpRise ch => Sys2Proof.Machine.execLnkUpRise ch s
  | .reservedOpcode p opc b => Sys2Proof.Machine.execReservedOpcode p opc b s
  | .reservedAnvilOp h k => Sys2Proof.Machine.execReservedAnvilOp h k s
  | .reservedInstruction h k => Sys2Proof.Machine.execReservedInstruction h k s

end Sys2Proof.Machine
end

