-- ==== Sys2Proof/Safety.lean ====
section
/-!
DEFINITION. What claims are stated in: a slice at rest, the legal contents of the registers, and what a run must not do.
-/

namespace Sys2Proof.Machine

/-- Nothing is on its way inside the slice: no answer, no request that goes on, no end of a request, no completion that the slice takes at
once, no port that has departed, defers snoops or can parse a beat, no group whose abort can end, no unit's request, no control word found
bad, no half about to enter its safe state, no completion still to be presented. -/
def calm (m : Mach) : Bool :=
  m.answers.isEmpty && m.again.isEmpty && m.finished.isEmpty && m.todo.isEmpty && (controlError m).isNone
    && m.unitDone.all (fun x => !takenAtOnce x.1.origin)
    && allPorts.all (fun p => !(portAt m p).departed && !parseReady m p && (portAt m p).deferred.isEmpty && !canPresent (portAt m p))
    && bothHalves.all (fun h => (halfAt m h).safeDue.isNone && (closedNow (halfAt m h)).isNone)

/-- The state in which what moves by itself has come from `m` to rest: what a command leaves. -/
def settled (s : State) (m : Mach) : State := { s with m := settle s.regs m }

/-- The commands in which a partner presents a beat or credits: only these can break an obligation of the port chapters. -/
def fromPartner (c : Instr) : Bool :=
  match c with
  | .rdNc .. | .rdS .. | .rdU .. | .pref .. | .wr .. | .place .. | .upg .. | .evict .. | .atomR .. | .atomN .. | .addl .. | .grpOpen ..
  | .grpContrib .. | .grpAbort .. | .ctrAdd .. | .ctrRead .. | .ctrReset .. | .wait .. | .invoke .. | .cln .. | .inv .. | .clninv ..
  | .zero .. | .reservedOpcode .. | .wdBeat .. | .srsp .. | .msgCreditReturn .. => true
  | _ => false

/-- The commands that may change a host-written register or store: the writes of the management port, the indirect pair, the copy of the
label table, a load, the journal's INIT step, the resets. -/
def writesRegs (c : Instr) : Bool :=
  match c with
  | .regWrite | .aliasWrite | .profileSet | .portDisable | .portEnable | .hcCmpWrite | .hcBlwWrite | .cacheDisable | .cacheEnable
  | .wayUseWrite | .maskWrite | .hrCtlWrite | .reCln | .reInv | .reClninv | .reZero | .rePin | .reUnpin | .reAbort | .reAck | .cohCtlWrite
  | .cohPredMode | .cohPredRst | .idxInstWrite | .ctrOwnWrite | .arbCtlWrite | .ctrCmdReset | .anvCtlWrite | .detCtlWrite | .grpCmdAbort
  | .seqEnable | .seqKill | .imageLoad | .lblSwap | .svcCtlWrite | .classDescWrite | .rasForce | .rasInjArm | .rasInjDisarm | .rmRemap
  | .rmRelease | .qnGo | .qnAbort | .qnAck | .pwrCtlWrite | .jrnClr | .viReset | .viFreeze | .viThaw | .viSave | .viRestore | .viEnable
  | .viWctlWrite | .dlEnable | .dlSwitch | .tsArm | .ofsRemeasure | .seqHalt | .seqResume | .seqStep | .trcArm | .trcTrig | .trcAck | .pfClr
  | .mbGo | .mbAck | .dbgMbselWrite | .dmpArm | .dmpAck | .gsGo | .gsArm | .gsResume | .indDataRead | .indDataWrite | .labelShadowCopy
  | .imageLoadEnd | .journalStepEnd _ | .blockReset | .powerOnReset => true
  | _ => false

/-- The legal contents of one half's cache control: no reserved compression mode (R158), a depth the Bellows has (R160), floor ways that are
cache (R162), no reserved use code (R163), floor ways in every allocation mask (R168). -/
structure LegalHc (c : HcRegs) : Prop where
  cmode : c.cmode ≠ 3
  depth : 1 ≤ c.depth.toNat ∧ c.depth.toNat ≤ 16
  floor : c.wuse.extractLsb' 0 8 = 0
  uses  : reservedUse c.wuse = false
  amask : ∀ k : Fin 16, c.amask[k].extractLsb' 0 4 = 0xF
  pmask : c.pmask.extractLsb' 0 4 = 0xF
  xmask : c.xmask.extractLsb' 0 4 = 0xF

/-- The stores that the host writes by address: the program stores and the constant pools (R377), the program tables (R392), both label
tables (R410). -/
structure CanonicalStores (g : Regs) : Prop where
  store  : tabWf 0 g.store = true
  pool   : tabWf 0 g.pool = true
  ptab   : tabWf ProgEntry.none g.ptab = true
  live   : tabWf LabelCtx.off g.live = true
  shadow : tabWf LabelCtx.off g.shadow = true

/-- The legal contents of the registers: besides those of each half, region ways above the floor (R171), a hold window in its range
(R227; 0 before a load), no reserved predictor mode (R228) or class kind (R422), clock-stop and retention times in their ranges (R489), the addressed stores in their one canonical form. -/
structure LegalRegs (g : Regs) : Prop where
  hc    : ∀ h : Half, LegalHc g.hc[h]
  hr    : ∀ k : Fin 16, g.hr[k].ways.extractLsb' 0 4 = 0
  hold  : g.cohHold = 0 ∨ (16 ≤ g.cohHold.toNat ∧ g.cohHold.toNat ≤ 1024)
  mode  : g.predMode ≠ 3
  cls   : ∀ k : Fin 16, g.cls[k].kind ≠ 3
  idle  : 16 ≤ g.stopidle.toNat
  ret   : g.retidle ≠ 0
  tabs  : CanonicalStores g

/-- An image whose values that step 6 of R396 lets through (log 83) lie in the ranges of their registers' tables: HOLD, RETIDLE and STOPIDLE of
CONTROL, DEPTH of every PARTITION record. -/
structure ImageInRange (ls : Image) : Prop where
  hold  : 16 ≤ ((secWord ls typeCONTROL 2).extractLsb' 0 11).toNat ∧ ((secWord ls typeCONTROL 2).extractLsb' 0 11).toNat ≤ 1024
  ret   : (secWord ls typeCONTROL 9).extractLsb' 16 10 ≠ 0
  idle  : 16 ≤ ((secWord ls typeCONTROL 9).extractLsb' 0 16).toNat
  depth : ∀ r, r < secLen ls typePARTITION / 128 → 1 ≤ ((secWord ls typePARTITION (32 * r + 5)).extractLsb' 4 5).toNat
    ∧ ((secWord ls typePARTITION (32 * r + 5)).extractLsb' 4 5).toNat ≤ 16

/-! ## Requests of a port -/

/-- The operation, port and beat of a row of Table 2.6. -/
def reqRow (c : Instr) : Option (Op × PortIx × ReqBeat) :=
  match c with
  | .rdNc p b => some (.rdNc, p, b) | .rdS p b => some (.rdS, p, b) | .rdU p b => some (.rdU, p, b) | .pref p b => some (.pref, p, b)
  | .wr p b => some (.wr, p, b) | .place p b => some (.place, p, b) | .upg p b => some (.upg, p, b) | .evict p b => some (.evict, p, b)
  | .atomR p b => some (.atomR, p, b) | .atomN p b => some (.atomN, p, b) | .addl p b => some (.addl, p, b)
  | .grpOpen p b => some (.grpOpen, p, b) | .grpContrib p b => some (.grpContrib, p, b) | .grpAbort p b => some (.grpAbort, p, b)
  | .ctrAdd p b => some (.ctrAdd, p, b) | .ctrRead p b => some (.ctrRead, p, b) | .ctrReset p b => some (.ctrReset, p, b)
  | .wait p b => some (.wait, p, b) | .invoke p b => some (.invoke, p, b) | .cln p b => some (.cln, p, b) | .inv p b => some (.inv, p, b)
  | .clninv p b => some (.clnInv, p, b) | .zero p b => some (.zero, p, b) | _ => none

/-- REQ credits of the lane of a beat. -/
def laneCredits (x : Port) (b : ReqBeat) : Nat := if b.lane then x.avail.req1 else x.avail.req0

/-- A port that takes the beat at once: its half AWAKE, no global stop, the port enabled and joined, a credit held, nothing else of the port
in the slice. -/
def portFree (s : State) (p : PortIx) (b : ReqBeat) : Prop :=
  let x := portAt s.m p
  (halfAt s.m (portHalf p)).pw.awake = true ∧ (halfAt s.m (portHalf p)).pw.tail = false ∧ s.m.dbg.stopped = false
    ∧ s.regs.rpEn[p] = true ∧ isJoined x.hello = true ∧ laneCredits x b ≠ 0
    ∧ x.in0 = [] ∧ x.in1 = [] ∧ x.txns = [] ∧ x.wd = [] ∧ x.wdIn = []

/-- The request that a beat stands for. -/
def portReq (s : State) (p : PortIx) (o : Op) (b : ReqBeat) : Req :=
  { beatReq s.m.nextId (.port p) o b (coreTime s.m (portHalf p)) (portAt s.m p).idx with dlc := deadlineClass s.regs b }

/-- A free port after the parse has taken a beat that is followed by `need` beats of data: the credit spent, a serial number used, the
data due. -/
def beatIn (p : PortIx) (b : ReqBeat) (need : Nat) (m : Mach) : Mach :=
  { modPort p (fun x => { takeReqCredit b.lane x with
      laneRun := if b.lane then x.laneRun + 1 else 0, wd := if need = 0 then [] else [(m.nextId, need, 0)] }) m with nextId := m.nextId + 1 }

/-- The request of the beat passes the checks of R73. -/
def parsed (s : State) (p : PortIx) (o : Op) (b : ReqBeat) : Prop :=
  parseCode s.regs (beatIn p b (wdBeats o b.size.toNat) s.m) true s.regs.detEn (b.rsv != 0 || (needsCache o && !(portAt s.m p).caching)) (portReq s p o b)
    = none

/-- The request is not held for regulation (R417). -/
def notHeld (s : State) (r : Req) : Prop := r.lane = true ∨ regulated s.regs r = false ∨ 1 ≤ levelOf s.m r.label

/-- The free port with the one transaction of its beat. -/
def beatHeld (s : State) (p : PortIx) (b : ReqBeat) (t : Txn) : Mach :=
  modPort p (fun x => { x with txns := [t] }) (beatIn p b (wdBeats t.req.op b.size.toNat) s.m)

/-- The same, with the label's bucket charged (R416). -/
def beatParsed (s : State) (p : PortIx) (b : ReqBeat) (t : Txn) : Mach :=
  if regulated s.regs t.req then deduct t.req (beatHeld s p b t) else beatHeld s p b t

/-- The port of a WD beat that was taken: a credit spent and owed. -/
def wdPort (x : Port) : Port := { x with avail := { x.avail with wd := x.avail.wd - 1 }, owed := { x.owed with wd := x.owed.wd + 1 } }

/-- The port of an SRSP that was taken. -/
def srspPort (x : Port) : Port := { x with avail := { x.avail with srsp := x.avail.srsp - 1 }, owed := { x.owed with srsp := x.owed.srsp + 1 } }

/-- A port whose one transaction `t` waits for beat k of its n, its agent joined with a WD credit, its half AWAKE. -/
def wdReady (s : State) (p : PortIx) (t : Txn) (n k : Nat) : Prop :=
  let x := portAt s.m p
  (halfAt s.m (portHalf p)).pw.awake = true ∧ (halfAt s.m (portHalf p)).pw.tail = false ∧ s.regs.rpEn[p] = true ∧ isJoined x.hello = true
    ∧ x.avail.wd ≠ 0 ∧ x.in0 = [] ∧ x.in1 = [] ∧ x.wdIn = [] ∧ x.wdSkip = false ∧ x.txns = [t] ∧ x.wd = [(t.req.id, n, k)] ∧ t.phase = .ranged

/-! ## Accesses of the management port -/

/-- The test by which a row of the register table takes the write at the front of the queue. -/
def registerRow (c : Instr) : Option (Nat → BitVec 32 → Bool) :=
  match c with
  | .regWrite => some rowPlain | .profileSet => some rowProfileSet | .portDisable => some rowPortDisable | .portEnable => some rowPortEnable
  | .hcCmpWrite => some rowHcCmpWrite | .hcBlwWrite => some rowHcBlwWrite | .cacheDisable => some rowCacheDisable
  | .cacheEnable => some rowCacheEnable | .wayUseWrite => some rowWayUseWrite | .maskWrite => some rowMaskWrite | .hrCtlWrite => some rowHrCtlWrite
  | .reCln => some rowReCln | .reInv => some rowReInv | .reClninv => some rowReClninv | .reZero => some rowReZero | .rePin => some rowRePin
  | .reUnpin => some rowReUnpin | .reAbort => some rowReAbort | .reAck => some rowReAck | .cohCtlWrite => some rowCohCtlWrite
  | .cohPredMode => some rowCohPredMode | .cohPredRst => some rowCohPredRst | .idxInstWrite => some rowIdxInstWrite
  | .ctrOwnWrite => some rowCtrOwnWrite | .arbCtlWrite => some rowArbCtlWrite | .ctrCmdReset => some rowCtrCmdReset
  | .anvCtlWrite => some rowAnvCtlWrite | .detCtlWrite => some rowDetCtlWrite | .grpCmdAbort => some rowGrpCmdAbort | .seqEnable => some rowSeqEnable
  | .seqKill => some rowSeqKill | .imageLoad => some rowImageLoad | .lblSwap => some rowLblSwap | .svcCtlWrite => some rowSvcCtlWrite
  | .classDescWrite => some rowClassDescWrite | .rasForce => some rowRasForce | .rasInjArm => some rowRasInjArm
  | .rasInjDisarm => some rowRasInjDisarm | .rmRemap => some rowRmRemap | .rmRelease => some rowRmRelease | .qnGo => some rowQnGo
  | .qnAbort => some rowQnAbort | .qnAck => some rowQnAck | .pwrCtlWrite => some rowPwrCtlWrite | .jrnClr => some rowJrnClr
  | .viReset => some rowViReset | .viFreeze => some rowViFreeze | .viThaw => some rowViThaw | .viSave => some rowViSave
  | .viRestore => some rowViRestore | .viEnable => some rowViEnable | .viWctlWrite => some rowViWctlWrite | .dlEnable => some rowDlEnable
  | .dlSwitch => some rowDlSwitch | .tsArm => some rowTsArm | .ofsRemeasure => some rowOfsRemeasure | .seqHalt => some rowSeqHalt
  | .seqResume => some rowSeqResume | .seqStep => some rowSeqStep | .trcArm => some rowTrcArm | .trcTrig => some rowTrcTrig
  | .trcAck => some rowTrcAck | .pfClr => some rowPfClr | .mbGo => some rowMbGo | .mbAck => some rowMbAck | .dbgMbselWrite => some rowDbgMbselWrite
  | .dmpArm => some rowDmpArm | .dmpAck => some rowDmpAck | .gsGo => some rowGsGo | .gsArm => some rowGsArm | .gsResume => some rowGsResume | _ => none

/-- A write of `v` to offset `off` is at the front of the queue, its register is live, and the halves that it needs have clocks. -/
def writeAtFront (s : State) (off : Nat) (v : BitVec 32) : Prop :=
  ∃ a q, s.m.mg.q = .write a v :: q ∧ offsetOf a = off ∧ deadRegister s.m (wordOff off) = false
    ∧ ∀ h ∈ neededHalves s.m (wordOff off), clocked s.m h = true

/-- The slice once the access to `off` has left the queue; a stop that it met is abandoned. -/
def accessTaken (s : State) (off : Nat) : Mach := popAccess (wakeHalves (neededHalves s.m (wordOff off)) s.m)

/-! ## The home of a line -/

/-- The rules of R197 for a directory entry. -/
structure HolderRules (e : DirEntry) : Prop where
  idle   : e.state = 0 → e.agents = 0 ∧ e.chips = 0
  shared : e.state = stS → e.agents ≠ 0 ∨ e.chips ≠ 0
  unique : e.state = stU → e.agents = agentBit e.owner ∧ e.chips = 0
  away   : e.state = stX → e.agents = 0 ∧ e.chips = chipBit e.ochip
  legal  : e.state.toNat ≤ 3
  owner  : e.state ≠ stU → e.owner = 0
  ochip  : e.state ≠ stX → e.ochip = 0

/-- The opcodes of Tables 6.3 and 6.4. -/
def coherentOp (o : Op) : Bool :=
  match o with
  | .rdS | .rdU | .upg | .evict | .wr | .addl | .atomR | .atomN | .place | .rdNc | .pref | .cln | .inv | .clnInv | .zero => true
  | _ => false

/-- Nothing at the order point of the half keeps a request to the line from being ordered as the tables say: no stored error, no cause of the
safe state, no dead index and no package that has gone, an entry that obeys R197; neither profiling nor the logger runs. -/
structure OrderReady (g : Regs) (m : Mach) (h : Half) (l : LineAddr) : Prop where
  errs  : m.ras.errs = []
  armed : m.ras.armed = false
  safe  : (halfAt m h).safeDue = none
  alive : m.coh.dead = 0 ∧ m.coh.gone = 0
  entry : HolderRules (dirOf (halfAt m h) l)
  quiet : g.pfEn = 0 ∧ g.dlEn = false

/-- A request of a port, and the line of package memory that it acts on with nothing of the line in flight in the half. -/
structure LineAtRest (g : Regs) (m : Mach) (h : Half) (r : Req) : Prop where
  port     : ∃ p, r.origin = .port p
  given    : r.given = none
  bound    : r.bound = none
  package  : isPackage m r.addr = true ∧ isPackage m (lineBase (lineOf r.addr)) = true
  errs     : m.ras.errs = []
  armed    : m.ras.armed = false
  quiet    : g.pfEn = 0
  frames   : tabWf Frame.free (halfAt m h).frames = true
  merge    : ∀ e ∈ (halfAt m h).merge, e.line ≠ lineOf r.addr ∧ ∀ x ∈ e.waiters, lineOf x.addr ≠ lineOf r.addr
  victims  : ∀ e ∈ (halfAt m h).vb, ∀ x ∈ e.waiters, lineOf x.addr ≠ lineOf r.addr
  moves    : ∀ v ∈ (halfAt m h).moves, v.line ≠ lineOf r.addr
  miss     : missOf (halfAt m h) (lineOf r.addr) = none
  missWait : ∀ x ∈ (halfAt m h).missWait, lineOf x.addr ≠ lineOf r.addr
  refetch  : (halfAt m h).refetch.contains (lineOf r.addr) = false

/-- What a read of a resident line gives: its frame with the bytes of the merge buffer. -/
def lineSeen (m : Mach) (h : Half) (l : LineAddr) : Option Line :=
  (locate (halfAt m h) l).map fun p => mergedData (halfAt m h) l (lineOfLoc (halfAt m h) l p).data

/-- The merge buffer has room for bytes of every sector, and none of these sectors is covered whole. -/
def mergeFits (m : Mach) (h : Half) (be : LineBE) : Prop :=
  (halfAt m h).merge.length + 4 ≤ Config.mergeEntries ∧ ∀ s < 4, be.extractLsb' (64 * s) 64 ≠ BitVec.allOnes 64

/-! ## Reduction groups -/

/-- One level of the tree of R340 from the one below: neighbours combine, the lower index first; a last node without a neighbour passes
unchanged. -/
def treeLevel (comb : List Partial → List Partial → List Partial) : List (List Partial) → List (List Partial)
  | a :: b :: rest => comb a b :: treeLevel comb rest
  | rest => rest

/-- The tree of R340 over its leaves, `d` levels up; the root is alone on its level. -/
def treeUp (comb : List Partial → List Partial → List Partial) : Nat → List (List Partial) → List (List Partial)
  | 0, vs => vs
  | d + 1, vs => treeUp comb d (treeLevel comb vs)

/-- The leaf of a contribution: its elements as partials of Table 10.4. -/
def treeLeaf (op fmt : Nat) (idx : Nat) (x : Sector) : List Partial :=
  (List.range (grpElems fmt)).map fun e => toPartial op fmt (BitVec.ofNat 8 idx) (x.extractLsb' (grpElemBits fmt * e) (grpElemBits fmt)).toNat

/-- A sector, with the roots that its contributions have found so far, after one more of them. -/
def contributed (op fmt n : Nat) (x : Nat → Sector) (acc : GrpSector × List (List Partial)) (i : Nat) : GrpSector × List (List Partial) :=
  let c := contribute op fmt n (BitVec.ofNat 8 i) (x i) acc.1
  (c.1, acc.2 ++ c.2.toList)

/-! ## Messages and hellos -/

/-- A half that takes beats and is in no tail. -/
def awakeHalf (m : Mach) (h : Half) : Prop := (halfAt m h).pw.awake = true ∧ (halfAt m h).pw.tail = false

/-- A message of a joined partner can be taken: the half of the link is AWAKE. -/
def canHear (s : State) (k : Fin 3) (src : BitVec 5) : Prop := awakeHalf s.m (fin3Half k) ∧ partJoined s.m k src = true

/-! ## Sequencers -/

/-- Sequencer k of half h, at rest and neither traced nor profiled, can issue the word w of its program store now. -/
def fetches (s : State) (h k : Half) (w : BitVec 32) : Prop :=
  let q := seqAt s.m h k
  calm s.m = true ∧ s.m.ras.errs = [] ∧ s.regs.pfEn = 0 ∧ (halfAt s.m h).trace.act = false ∧ canIssue s.regs s.m h k = true
    ∧ storeWord s.regs h k q.pc.toNat = w ∧ insBad w = false ∧ stalls s.m h k w = false ∧ q.oneStep = false ∧ q.pc ≠ 0xFFF

/-- The state after sequencer k of half h has changed as `f` says. -/
def seqAfter (s : State) (h k : Half) (f : Seq → Seq) : Host.Outcome State Fault Refusal := .next { s with m := modSeq h k f s.m }

/-- An instruction that writes Ad, and goes on behind itself. -/
def writesD (s : State) (h k : Half) (w : BitVec 32) (v : BitVec 64) : Host.Outcome State Fault Refusal :=
  seqAfter s h k fun q => { setA (insD w) v q with pc := q.pc + 1, skipBp := false }

/-! ## The Anvil -/

/-- The head of queue k, an operation of OP n, passes the checks of R294, none of its lines has failed to be read, it waits for nothing, its
first 16 cycle groups being buffered (R301), and it has its turn (R298). -/
def leavesQueue (s : State) (h k : Half) (o : AOp) (rest : List AOp) (n : Nat) : Prop :=
  queueHeld s.regs s.m h k = false ∧ clocked s.m h = true ∧ (anvAt s.m h).q[k] = o :: rest ∧ opOp o = n ∧ opRefusal s.m h o = none
    ∧ (((anvAt s.m h).ahead[k]).bind (·.bad)) = none ∧ opWaits s.m h o = false ∧ (opUnit o = 1 → entryReady s.m h k o = true) ∧ losesTurn s.regs s.m h k o = false

/-- The slice with the head of queue k gone, and the pointer of R298 past the queue. -/
def opTaken (s : State) (h k : Half) (rest : List AOp) : Mach := modAnv h (fun a => { a with q := a.q.set k rest, turn := k + 1 }) s.m

end Sys2Proof.Machine
end

