-- ==== Sys2Proof/Certificates/Slice0/Obligations.lean ====
section
/-!
DEFINITION. The statements for the provers.
-/

open Sys2Proof Sys2Proof.Machine

/-! ## The block -/

/-- The tier 1 statement that a step runs the command at the front of the queue on the state with the queue's rest. -/
def Obligations.StepRunsTheFrontCommand : Prop :=
  ∀ (c : Instr) (rest : List Instr) (s : State), s.pending = c :: rest → step s = exec c { s with pending := rest }

/-- The model's choice (log 1): on an empty queue the block idles. -/
def Obligations.StepIdlesOnAnEmptyQueue : Prop := ∀ s : State, s.pending = [] → step s = .next s

/-- Every command has a meaning, none is refused; only a beat or credits that a partner presents can end in a fault, and every other command
answers a next state, in every state. -/
def Obligations.CommandsEnd : Prop :=
  (∀ (c : Instr) (s : State) (r : Refusal), exec c s ≠ .refused r)
  ∧ (∀ (c : Instr) (s : State), fromPartner c = false → ∃ t, exec c s = .next t)

/-- The frame of the queue: a command leaves the commands that wait as they are. The frame of the host-written registers and stores: what is no
register write, load, reset, label copy or INIT changes none of them. -/
def Obligations.CommandsKeepQueueAndRegisters : Prop :=
  (∀ (c : Instr) (s t : State), exec c s = .next t → t.pending = s.pending)
  ∧ (∀ (c : Instr) (s t : State), writesRegs c = false → exec c s = .next t → t.regs = s.regs)

/-- What a write must leave in the registers: no step leaves a value that the register tables rule out (R158, R160, R162, R163, R168, R171,
R227, R228, R422, R489), nor a store of the host out of its canonical form. The end of a load writes HOLD, RETIDLE, STOPIDLE and DEPTH of the
image as they stand (the model's reading, log 83), so the image that it applies, as its staged words read, must have them in range. -/
def Obligations.EveryStepKeepsTheRegistersLegal : Prop :=
  ∀ s t : State, LegalRegs s.regs →
    (∀ ld rest, s.pending = .imageLoadEnd :: rest → s.m.img.load = some ld → ld.await = 0 → ImageInRange (stagedLines s.m ld.lines)) →
    step s = .next t → LegalRegs t.regs

/-- The registers after power-on reset are legal. -/
def Obligations.ResetRegistersAreLegal : Prop := LegalRegs State.reset.regs

/-! ## Requests of a port (chapter 02) -/

/-- A REQ beat presented without a credit of its lane breaks R38, and the manual gives it no effect: that it ends in the fault noCredit is the
model's choice (log 9). -/
def Obligations.RequestWithoutACreditFaults : Prop :=
  ∀ (c : Instr) (o : Op) (p : PortIx) (b : ReqBeat) (s : State), reqRow c = some (o, p, b) → clocked s.m (portHalf p) = true →
    s.regs.rpEn[p] = true → isJoined (portAt s.m p).hello = true → laneCredits (portAt s.m p) b = 0 → exec c s = .fault .noCredit

/-- Follows R54, R57, R69, R417: a request that passes the parse of a free port trains the Bellows and goes to its home, or waits for its write
beats; one that its label's bucket does not cover is held: it stays on the port, and the bucket keeps its level. -/
def Obligations.ParsedRequestGoesOnOrIsHeld : Prop :=
  ∀ (c : Instr) (o : Op) (p : PortIx) (b : ReqBeat) (s : State), reqRow c = some (o, p, b) → portFree s p b → parsed s p o b →
    (notHeld s (portReq s p o b) →
      (wdBeats o b.size.toNat = 0 → exec c s = .next (settled s (sendHome s.regs (portReq s p o b)
        (trainBellows s.regs p (portReq s p o b) (beatParsed s p b ⟨portReq s p o b, .home, 0, false⟩)))))
      ∧ (wdBeats o b.size.toNat ≠ 0 →
        exec c s = .next (settled s (beatParsed s p b ⟨portReq s p o b, .ranged, wdBeats o b.size.toNat, false⟩))))
    ∧ (b.lane = false → regulated s.regs (portReq s p o b) = true → levelOf s.m b.label < 1 →
      exec c s = .next (settled s (beatHeld s p b ⟨portReq s p o b, .held, wdBeats o b.size.toNat, false⟩)))

/-- Follows R75, R76: a reserved OPC completes with ERR_DECODE and is logged, unless the home half of its address is in its safe state. -/
def Obligations.ReservedOpcodeIsRefused : Prop :=
  ∀ (p : PortIx) (opc : BitVec 6) (b : ReqBeat) (s : State), opOfBits opc = none → portFree s p b →
    homeSafe s.m (portReq s p .rdNc b) = false →
      exec (.reservedOpcode p opc b) s = .next (settled s (completeRefused p ⟨portReq s p .rdNc b, .ranged, 0, false⟩ .errDecode
        (logVio (vioRequest (BitVec.ofNat 4 p.val) .errDecode opc (portReq s p .rdNc b)) (beatHeld s p b ⟨portReq s p .rdNc b, .ranged, 0, false⟩))))

/-- Follows R54, R55, R56, R69: a WD beat joins the data of its transaction: before the last one the next beat is due; with the last one the request
goes to its home, after it has trained the Bellows. -/
def Obligations.WriteBeatsJoinTheirRequest : Prop :=
  ∀ (p : PortIx) (b : WdBeat) (s : State) (t : Txn) (n k : Nat), wdReady s p t n k → b.txn = t.req.txn →
    (k + 1 < n → b.last = false → exec (.wdBeat p b) s = .next (settled s
      (modPort p (fun x => { wdPort x with wd := [(t.req.id, n, k + 1)], txns := [{ t with req := addBeat t.req k b }] }) s.m)))
    ∧ (k + 1 = n → b.last = true →
      exec (.wdBeat p b) s = .next (settled s (sendHome s.regs (addBeat t.req k b) (trainBellows s.regs p (addBeat t.req k b)
        (modPort p (fun x => { wdPort x with wd := [], txns := [⟨addBeat t.req k b, .home, 0, t.dup⟩] }) s.m)))))

/-- Follows R65, R98: an SRSP for a snoop that was presented goes to whoever decided the snoop; its STXN is free again. -/
def Obligations.SnoopResponseReachesItsDecider : Prop :=
  ∀ (p : PortIx) (stxn : BitVec 8) (had : Bool) (s : State) (x : PortSnoop),
    (halfAt s.m (portHalf p)).pw.awake = true → (halfAt s.m (portHalf p)).pw.tail = false → (portAt s.m p).avail.srsp ≠ 0 →
    ((portAt s.m p).snoops.find? fun y => y.stxn == stxn && y.sent) = some x →
      exec (.srsp p stxn had) s = .next (settled s (answerSnoop x.snoop had
        (modPort p (fun y => { srspPort y with snoops := y.snoops.erase x }) s.m)))

/-- Follows R39, R41, R57, R60, R65, R78, R419: what each channel presents leaves: a completion ends its transaction with its last beat, a
placement brings its two RD beats behind its SNP beat, a snoop then awaits its response; a credit that the slice owes returns to a joined
agent of an enabled port; a released request that passes the checks pays its cost, may enter the pipeline, and what the hold queue kept
back follows. -/
def Obligations.PortEventsHappen : Prop :=
  (∀ (p : PortIx) (s : State), clocked s.m (portHalf p) = true →
      let free := modPort p fun x => { x with rdCur := none }
      (∀ c, (portAt s.m p).rspCur = some c → exec (.completionTransfer p .rsp) s = .next (settled s (endTxn s.regs p c
        (modPort p (fun x => { x with rspCur := none }) (emit (rspBeat p c) s.m)))))
      ∧ (∀ c, (portAt s.m p).rdCur = some (.cmpl c, false) → exec (.completionTransfer p .rd) s = .next (settled s
          (let m := emit (rdBeat p (.cmpl c) false) s.m
           if twoBeats (.cmpl c) = true then modPort p (fun x => { x with rdCur := some (.cmpl c, true) }) m else endTxn s.regs p c (free m))))
      ∧ (∀ c, (portAt s.m p).rdCur = some (.cmpl c, true) → exec (.completionTransfer p .rd) s = .next (settled s (endTxn s.regs p c
          (free (emit (rdBeat p (.cmpl c) true) s.m)))))
      ∧ (∀ id stxn inst gen d second, (portAt s.m p).rdCur = some (.place id stxn inst gen d, second) →
        exec (.completionTransfer p .rd) s = .next (settled s
          (let m := emit (rdBeat p (.place id stxn inst gen d) second) s.m
           if second then free m else modPort p (fun x => { x with rdCur := some (.place id stxn inst gen d, true) }) m)))
      ∧ (∀ x rest, (portAt s.m p).snp = x :: rest → exec (.completionTransfer p .snp) s = .next (settled s
          (modPort p (fun y => { y with
              snp := rest, snoops := y.snoops.map fun z => if z.stxn == x.stxn then { z with sent := true } else z
              rdNew := if x.snoop.kind = .place then insertBy rdSerial (.place s.m.nextId x.stxn x.snoop.inst x.snoop.gen x.snoop.data) y.rdNew
                else y.rdNew })
            { emit (.snp p x.snoop.kind x.stxn x.snoop.line) s.m with nextId := s.m.nextId + 1 }))))
  ∧ (∀ (p : PortIx) (c : Pool) (s : State) (x : Port), clocked s.m (portHalf p) = true → s.regs.rpEn[p] = true →
      isJoined (portAt s.m p).hello = true → returnCredit s.m.dbg.stopped c (portAt s.m p) = some x →
        exec (.creditReturn p c) s = .next (settled s (emit (.credit p c) (modPort p (fun _ => x) s.m))))
  ∧ (∀ (p : PortIx) (s : State) (t : Txn), s.m.dbg.stopped = false → clocked s.m (portHalf p) = true →
      nextHeld s.regs s.m [] (heldOn (portAt s.m p)) = some t → parseCode s.regs s.m true false false t.req = none →
        exec (.holdRelease p) s = .next (settled s (drainPort s.regs p (enterReady s.regs p (setPhase p t.req.id .ranged
          (if regulated s.regs t.req then deduct t.req s.m else s.m))))))

/-- Follows R68, R145, R153, R157, R201, R203, R204: the first request at the order point that nothing holds any more is ordered; an agent
that leaves a presented snoop unanswered is treated as dead; the window of a line ends, and the snoops that it delayed are presented; a
refetch that waited for a miss-tracker entry gets its READ, and without one the requests of the first line that may go take up again; the
oldest prefetch that has arrived is ordered. -/
def Obligations.WaitsEnd : Prop :=
  (∀ (h : Half) (s : State) (r : Req) (rest : List Req), clocked s.m h = true → (halfAt s.m h).safe = false →
      nextWaiter s.regs s.m h [] (halfAt s.m h).opWait = some (r, rest) →
        exec (.orderPointWaitEnd h) s = .next (settled s (orderNow s.regs h r (modHalf h (fun hs => { hs with opWait := rest }) s.m))))
  ∧ (∀ (p : PortIx) (stxn : BitVec 8) (s : State), ((portAt s.m p).snoops.any fun x => x.stxn == stxn && x.sent) = true →
      exec (.snoopTimeout p stxn) s = .next (settled s (departAgent s.regs false p s.m)))
  ∧ (∀ (h : Half) (l : LineAddr) (s : State) (w : Win), (halfAt s.m h).wins = [w] → w.line = l → w.xdelay = [] →
      exec (.holdWindowEnd h l) s = .next (settled s (w.delayed.foldl
        (fun m x => snoopNow s.regs h x.kind l x.idx x.data x.inst x.gen m) (modHalf h (fun hs => { hs with wins := [] }) s.m))))
  ∧ (∀ (h : Half) (s : State) (l : LineAddr), (halfAt s.m h).refetch.find? (missMayGo s.m h) = some l → chanJoined s.m h = true →
      exec (.missWaitRelease h) s = .next (settled s (startRefetch s.regs h l (modHalf h (fun hs => { hs with refetch := hs.refetch.erase l }) s.m))))
  ∧ (∀ (h : Half) (s : State) (r : Req), (halfAt s.m h).refetch = [] →
      ((halfAt s.m h).missWait.find? fun x => missMayGo s.m h (lineOf x.addr)) = some r →
        exec (.missWaitRelease h) s = .next (settled s { modHalf h (fun hs => { hs with
            missWait := hs.missWait.filter fun x => lineOf x.addr != lineOf r.addr }) s.m with
          again := s.m.again ++ ((halfAt s.m h).missWait.filter fun x => lineOf x.addr == lineOf r.addr).map fun x =>
            ⟨h, x, if isPackage s.m x.addr then .data else .order⟩ }))
  ∧ (∀ (h : Half) (s : State) (r : Req) (rest : List Req), s.m.dbg.stopped = false → clocked s.m h = true → (halfAt s.m h).safe = false →
      (halfAt s.m h).prefQ = r :: rest →
        exec (.bellowsPrefetch h) s = .next (settled s (orderAt s.regs h r (modHalf h (fun hs => { hs with prefQ := rest }) s.m))))

/-! ## The management port and its registers (chapters 03 and 18) -/

/-- Follows R548, R549: how the guard takes a write that finds room on the port; reads do not pass it. While TMODE is 1 the port takes
no access (R121). -/
def Obligations.GuardJudgesEachWrite : Prop :=
  ∀ (a : BitVec 18) (v : BitVec 32) (k : Nat) (s : State),
    let x := s.m.mg
    let failed := fun (reg : BitVec 18) (y : Mgmt) => { y with guard := none, fails := y.fails + 1, last := reg }
    let after := fun (y : Mgmt) => Host.Outcome.next { s with m := { s.m with mg := y } }
    (s.m.jrn.tmode = true → exec (.mgmtWrite a v k) s = .next s ∧ exec (.mgmtRead a) s = .next s)
    ∧ (s.m.jrn.tmode = false → writeReady a x = true →
      (∀ p, x.guard = some p → pairOwner (offsetOf a) = some (offsetOf p.addr) → p.mclk ≤ k → k ≤ p.mclk + 8 → v = ~~~p.data →
        exec (.mgmtWrite a v k) s = after { x with guard := none, q := x.q ++ [.write p.addr p.data] })
      ∧ (∀ p o, x.guard = some p → pairOwner (offsetOf a) = some o → ¬ (offsetOf p.addr = o ∧ p.mclk ≤ k ∧ k ≤ p.mclk + 8 ∧ v = ~~~p.data) →
        exec (.mgmtWrite a v k) s = after (failed p.addr x))
      ∧ (∀ o, x.guard = none → pairOwner (offsetOf a) = some o → exec (.mgmtWrite a v k) s = after (failed (BitVec.ofNat 18 (o / 4)) x))
      ∧ (x.guard = none → pairOwner (offsetOf a) = none → isGuarded (offsetOf a) = true →
        exec (.mgmtWrite a v k) s = after { x with guard := some ⟨a, v, k⟩ })
      ∧ (x.guard = none → pairOwner (offsetOf a) = none → isGuarded (offsetOf a) = false →
        exec (.mgmtWrite a v k) s = after { x with q := x.q ++ [.write a v] })
      ∧ (∀ p, x.guard = some p → pairOwner (offsetOf a) = none → isGuarded (offsetOf a) = true →
        exec (.mgmtWrite a v k) s = after { failed p.addr x with guard := some ⟨a, v, k⟩ })
      ∧ (∀ p, x.guard = some p → pairOwner (offsetOf a) = none → isGuarded (offsetOf a) = false →
        exec (.mgmtWrite a v k) s = after { failed p.addr x with q := x.q ++ [.write a v] })
      ∧ ∀ t, exec (.mgmtRead a) s = .next t → t.m.mg.guard = x.guard ∧ t.m.mg.fails = x.fails ∧ t.m.mg.last = x.last)

/-- Follows R114, R564: an access that finds no room does not transfer, a write to a paired address always finds room; a read with nothing before it in the
queue returns its register, and one behind a write waits for it. -/
def Obligations.AccessesWaitAndReturn : Prop :=
  (∀ (a : BitVec 18) (v : BitVec 32) (k : Nat) (s : State),
    (pairOwner (offsetOf a) = none → 16 ≤ queuedWrites s.m.mg + (if s.m.mg.guard.isSome then 1 else 0) → exec (.mgmtWrite a v k) s = .next s)
    ∧ (4 ≤ queuedReads s.m.mg → exec (.mgmtRead a) s = .next s)
    ∧ (pairOwner (offsetOf a) ≠ none → writeReady a s.m.mg = true))
  ∧ (∀ (a : BitVec 18) (s : State),
    (s.m.jrn.tmode = false → s.m.mg.q = [] → (∀ h ∈ neededHalves s.m (wordOff (offsetOf a)), (halfAt s.m h).pw.awake = true) → offsetOf a ≠ indData →
      exec (.mgmtRead a) s = .next { s with m := emit (.mrsp a (regRead s.regs s.m (offsetOf a))) s.m })
    ∧ (∀ b v q, s.m.jrn.tmode = false → s.m.mg.q = .write b v :: q → queuedReads s.m.mg < 4 →
      exec (.mgmtRead a) s = .next { s with m := { s.m with mg := { s.m.mg with q := s.m.mg.q ++ [.read a] } } }))

/-- Follows R114, R116: the write at the front of the queue is applied, whole, by a row that takes it. -/
def Obligations.RegisterWriteIsApplied : Prop :=
  ∀ (c : Instr) (row : Nat → BitVec 32 → Bool) (off : Nat) (v : BitVec 32) (s : State), registerRow c = some row → row off v = true →
    writeAtFront s off v → exec c s = .next (rest s (applyWrite off v (s.regs, accessTaken s off)))

/-- Follows R551, R552: which bit an alias word names, what a read of it returns, and what a write to it does: one write of the whole word with one
bit replaced, and nothing at a guarded register or a paired address. -/
def Obligations.AliasWordsNameOneBit : Prop :=
  (∀ w b : Nat, w % 4 = 0 → w < 0x4000 → b < 32 → aliasWord (0x80000 + 32 * w + 4 * b) = w ∧ aliasBit (0x80000 + 32 * w + 4 * b) = b)
  ∧ (∀ a : Nat, aliasWord a = 4 * ((a - 0x80000) / 128) ∧ aliasBit a = (a - 0x80000) / 4 % 32)
  ∧ (∀ (s : State) (a : Nat), 0x80000 ≤ a →
      regRead s.regs s.m a = if (liveRead s.regs s.m (aliasWord a)).getLsbD (aliasBit a) then 1 else 0)
  ∧ (∀ (s : State) (off : Nat) (v new : BitVec 32), 0x80000 ≤ off → writeAtFront s off v →
      let w := aliasWord off
      let m := accessTaken s off
      (∀ i < 32, new.getLsbD i = if i = aliasBit off then v.getLsbD 0 else (plainRead s.regs m w).getLsbD i) →
      exec .aliasWrite s = .next (rest s
        (if isGuarded w = true ∨ (pairOwner w).isSome = true then (s.regs, m) else applyWrite w new (s.regs, m))))

/-- Follows R545, R547: under FRUGAL the registers and the indirect storage of Half 1 read zero and ignore writes, and no access to them, nor one
to an always-on location, starts a half; the same of the fields of Half 1 in the registers that both halves share. -/
def Obligations.DeadHalfReadsZero : Prop :=
  ∀ (s : State), frugal s.m = true →
    (∀ off, regHalves off = [1] → off < 0x80000 → regRead s.regs s.m off = 0)
    ∧ (∀ a, 0x80000 ≤ a → regHalves (aliasWord a) = [1] → regRead s.regs s.m a = 0)
    ∧ (∀ off, off < 0x80000 → regRead s.regs s.m off &&& half1Bits off = 0)
    ∧ (∀ a, 0x80000 ≤ a → (half1Bits (aliasWord a)).getLsbD (aliasBit a) = true → regRead s.regs s.m a = 0)
    ∧ (∀ v x, x.2 = s.m → applyWrite 0x93F0 v x = applyWrite 0x93F0 (v &&& ~~~half1Bits 0x93F0) x
      ∧ applyWrite 0x6000 v x = applyWrite 0x6000 (v &&& ~~~half1Bits 0x6000) x)
    ∧ (∀ c row a v q, registerRow c = some row → row (offsetOf a) v = true → s.m.mg.q = .write a v :: q → regHalves (wordOff (offsetOf a)) = [1] →
      exec c s = .next (rest s (s.regs, popAccess s.m)))
    ∧ (∀ a v q, s.m.mg.q = .write a v :: q → 0x80000 ≤ offsetOf a → regHalves (aliasWord (offsetOf a)) = [1] →
      exec .aliasWrite s = .next (rest s (s.regs, popAccess s.m)))
    ∧ (∀ a, indHalf a = some 1 → indRead s.regs a s.m = (0, s.m))
    ∧ (∀ a v x, x.2 = s.m → indHalf a = some 1 → indWrite a v x = x)
    ∧ (∀ off, regHalves off = [1] ∨ regHalves off = [] → wakeHalves (neededHalves s.m off) s.m = s.m)
    ∧ (∀ a, indHalf a = some 1 ∨ indHalf a = none → wakeHalves (indHalves s.m a) s.m = s.m)

/-- Follows R555, R557: an access to IND_DATA reads or writes the word at IND_ADDR, which then rises by 4 when INC is 1; the sample of a capture
reaches MB_LO and MB_HI, VALID rises and PEND falls. -/
def Obligations.IndirectPairMovesAndCaptureEnds : Prop :=
  (∀ (s : State) (a : BitVec 18) (q : List Access), offsetOf a = 0xF014 →
      (∀ h ∈ indHalves s.m (4 * s.regs.indAddr.toNat), (halfAt s.m h).pw.awake = true) →
      let moved := fun (g : Regs) => { g with indAddr := if g.indInc then g.indAddr + 1 else g.indAddr }
      let m := popAccess s.m
      (s.m.mg.q = .read a :: q → exec .indDataRead s = .next (rest s (moved s.regs,
        emit (.mrsp a (indRead s.regs (4 * s.regs.indAddr.toNat) m).1) (indRead s.regs (4 * s.regs.indAddr.toNat) m).2)))
      ∧ (∀ v, s.m.mg.q = .write a v :: q → exec .indDataWrite s = .next (rest s (moved (indWrite (4 * s.regs.indAddr.toNat) v (s.regs, m)).1,
        (indWrite (4 * s.regs.indAddr.toNat) v (s.regs, m)).2))))
  ∧ (∀ (s : State) (v : BitVec 64), s.m.mg.samp = some v →
      exec .mailboxCaptureDone s = .next { s with m := { s.m with mg := { s.m.mg with
        valid := true, pend := false, samp := none, lo := v.extractLsb' 0 32, hi := v.extractLsb' 32 32 } } })

/-- Follows R558, R377, R410, R413: what the indirect pair writes into a program store, a constant pool or the shadow labels reads back, of a
label its fields alone, while LBLSRC selects the shadow and no copy runs; the other words of that store read as before. No stored error and
no armed injection stands in the way. -/
def Obligations.IndirectStoresReadBack : Prop :=
  ∀ (g : Regs) (m : Mach) (v : BitVec 32), CanonicalStores g → frugal m = false → m.ras.errs = [] → m.ras.armed = false →
    (∀ a b, a % 4 = 0 → b % 4 = 0 → 0x100000 ≤ a → a < 0x110000 → 0x100000 ≤ b → b < 0x110000 →
      let x := indWrite a v (g, m)
      (indRead x.1 b x.2).1 = if b = a then v else (indRead g b m).1)
    ∧ (∀ a b, a % 4 = 0 → b % 4 = 0 → 0x110000 ≤ a → a < 0x114000 → 0x110000 ≤ b → b < 0x114000 →
      let x := indWrite a v (g, m)
      (indRead x.1 b x.2).1 = if b = a then v else (indRead g b m).1)
    ∧ (∀ a b, a % 4 = 0 → b % 4 = 0 → 0x40000 ≤ a → a < 0x50000 → 0x40000 ≤ b → b < 0x50000 → g.lblSrc = false → m.svc.copy = false →
      let x := indWrite a v (g, m)
      let fields := if a / 4 % 4 = 0 then 0x8F3F003F else if a / 4 % 4 = 1 then 0xFFFF1FFF else 0
      (indRead x.1 b x.2).1 = if b = a then v &&& fields else (indRead g b m).1)

/-- Follows R158, R160, R163 to R165, R168, R184 to R189: the fields of a half's cache control that a write sets. A write of the way uses with a
reserved code, or one that Table 5.3 refuses, changes nothing; any other gives every way its use, unpins the frames of the ways that change, of
which those that Hearth gives to cache get AGE 3, and starts the sweep over them. -/
def Obligations.CacheControlWrites : Prop :=
  ∀ (s : State) (h : Half) (v : BitVec 32),
    let base := 0x1000 + 0x1000 * h.val
    let put := fun (f : HcRegs → HcRegs) => { s.regs with hc := s.regs.hc.set h (f s.regs.hc[h]) }
    let c := s.regs.hc[h]
    (writeAtFront s (base + 0x100) v → ∃ t, exec .hcCmpWrite s = .next t ∧ t.regs = put fun c => { c with
      cmode := if v.extractLsb' 8 2 = 3 then c.cmode else v.extractLsb' 8 2
      bexp := v.getLsbD 3, delta := v.getLsbD 2, rep := v.getLsbD 1, zero := v.getLsbD 0 })
    ∧ (writeAtFront s (base + 0x108) v → ∃ t, exec .hcBlwWrite s = .next t ∧ t.regs = put fun c => { c with
      depth := if v.extractLsb' 4 5 = 0#5 ∨ 16 < (v.extractLsb' 4 5).toNat then c.depth else v.extractLsb' 4 5, blwEn := v.getLsbD 0 })
    ∧ (writeAtFront s (base + 0x200) v → v.getLsbD 0 = false → ∃ t, exec .cacheDisable s = .next t ∧ t.regs = put fun c => { c with cen := false })
    ∧ (writeAtFront s (base + 0x200) v → v.getLsbD 0 = true → ∃ t, exec .cacheEnable s = .next t ∧ t.regs = put fun c => { c with cen := true })
    ∧ (∀ k : Fin 16, writeAtFront s (base + 0x240 + 4 * k.val) v →
        ∃ t, exec .maskWrite s = .next t ∧ t.regs = put fun c => { c with amask := c.amask.set k (v.extractLsb' 0 24 ||| 0xF) })
    ∧ (writeAtFront s (base + 0x280) v → ∃ t, exec .maskWrite s = .next t ∧ t.regs = put fun c => { c with pmask := v.extractLsb' 0 24 ||| 0xF })
    ∧ (writeAtFront s (base + 0x284) v → ∃ t, exec .maskWrite s = .next t ∧ t.regs = put fun c => { c with xmask := v.extractLsb' 0 24 ||| 0xF })
    ∧ (∀ second : Bool, let off := base + (if second then 0x218 else 0x210)
      writeAtFront s off v →
      let m := accessTaken s off
      let new := newUses second v c.wuse
      let ways := changedWays c.wuse new
      let g := put fun c => { c with wuse := new }
      (reservedUse new = true ∨ usesRefused m h c.wuse new = true → exec .wayUseWrite s = .next (rest s (s.regs, m)))
      ∧ (reservedUse new = false → usesRefused m h c.wuse new = false → exec .wayUseWrite s =
        .next (rest s (g, startSweep h ways (unpinWays g h (fun w => (useCode c.wuse w).toNat) ways m)))))
    ∧ (∀ (u v : BitVec 48), (reservedUse u = true ↔ ∃ w < 24, useCode u w = 3) ∧ ∀ w < 24,
      (useCode (newUses false (v.setWidth 32) u) w = if w < 4 then 0 else if w < 16 then (v.setWidth 32).extractLsb' (2 * w) 2 else useCode u w)
      ∧ (useCode (newUses true (v.setWidth 32) u) w = if w < 16 then useCode u w else (v.setWidth 32).extractLsb' (2 * (w - 16)) 2)
      ∧ ((changedWays u v).getLsbD w = true ↔ useCode u w ≠ useCode v w))
    ∧ (∀ (ways : BitVec 24) (m : Mach), let sw := (halfAt m h).sweep
      (halfAt (startSweep h ways m) h).sweep = if ways = 0 ∧ sw.run = false then sw else ⟨true, 0, 0, ways ||| (if sw.run then sw.ways else 0)⟩)
    ∧ (∀ (g : Regs) (old : Nat → Nat) (ways : BitVec 24) (m : Mach) (set : BitVec 13) (w : Nat), w < 24 → m.ras.errs = [] → m.ras.armed = false →
      tabWf Frame.free (halfAt m h).frames = true →
      let fr := frameAt (halfAt m h) set w
      frameAt (halfAt (unpinWays g h old ways m) h) set w = if ways.getLsbD w = true then
          { fr with pinned := false, age := if old w = 1 ∧ wayUse g h w = 0 ∧ isFree fr = false then 3 else fr.age } else fr)

/-- Follows R227, R228, R257, R565: the fields of coherence that a write sets, and the predictors that RST clears. -/
def Obligations.CoherenceWrites : Prop :=
  ∀ (s : State) (v : BitVec 32),
    (writeAtFront s 0x3000 v → ∃ t, exec .cohCtlWrite s = .next t ∧ t.regs =
      if 16 ≤ (v.extractLsb' 0 11).toNat ∧ (v.extractLsb' 0 11).toNat ≤ 1024 then { s.regs with cohHold := v.extractLsb' 0 11 } else s.regs)
    ∧ (writeAtFront s 0x3004 v → ∃ t, exec .cohPredMode s = .next t ∧ t.regs =
      if v.extractLsb' 0 2 = 3 then s.regs else { s.regs with predMode := v.extractLsb' 0 2 })
    ∧ (writeAtFront s 0x3004 v → v.getLsbD 7 = true → v.extractLsb' 0 2 ≠ 3 → ∃ t, exec .cohPredRst s = .next t
      ∧ t = rest s ({ s.regs with predMode := v.extractLsb' 0 2 },
          modHalf 1 (fun hs => { hs with pred := [] }) (modHalf 0 (fun hs => { hs with pred := [] }) (accessTaken s 0x3004))))
    ∧ (∀ k : Fin 16, writeAtFront s (0x3040 + 4 * k.val) v → ∃ t, exec .idxInstWrite s = .next t
      ∧ (∀ j : Fin 4, t.regs.idxInst[4 * k.val + j.val]'(by omega) = ⟨v.getLsbD (8 * j.val + 7), v.extractLsb' (8 * j.val) 6⟩)
      ∧ (∀ i : Fin 64, i.val / 4 ≠ k.val → t.regs.idxInst[i] = s.regs.idxInst[i]) ∧ t.regs = { s.regs with idxInst := t.regs.idxInst })
    ∧ (∀ k : Fin 64, writeAtFront s (0x3100 + 4 * k.val) v → ∃ t, exec .ctrOwnWrite s = .next t
      ∧ t.regs = { s.regs with ctrOwn := s.regs.ctrOwn.set k ⟨v.getLsbD 31, v.extractLsb' 0 6⟩ })

/-- Follows R422, R433, R464, R489, R322, R351, R378: the fields of service, error protection, power, the Anvil and the sequencers that a write sets. -/
def Obligations.UnitWrites : Prop :=
  ∀ (s : State) (v : BitVec 32),
    (writeAtFront s 0x4000 v → ∃ t, exec .svcCtlWrite s = .next t ∧ t.regs = { s.regs with svcOrder := v.getLsbD 1, svcReg := v.getLsbD 0 })
    ∧ (∀ k : Fin 16, writeAtFront s (0x4100 + 16 * k.val) v → ∃ t, exec .classDescWrite s = .next t ∧ t.regs = { s.regs with
        cls := s.regs.cls.set k { s.regs.cls[k] with
          kind := if v.extractLsb' 30 2 = 3 then s.regs.cls[k].kind else v.extractLsb' 30 2, grd := v.extractLsb' 0 13 } })
    ∧ (∀ k : Fin 16, writeAtFront s (0x4104 + 16 * k.val) v → ∃ t, exec .classDescWrite s = .next t ∧ t.regs = { s.regs with
        cls := s.regs.cls.set k { s.regs.cls[k] with
          cburst := if v.extractLsb' 16 15 = 0 then s.regs.cls[k].cburst else v.extractLsb' 16 15, gwr := v.extractLsb' 0 13 } })
    ∧ (∀ k : Fin 16, writeAtFront s (0x4108 + 16 * k.val) v → ∃ t, exec .classDescWrite s = .next t ∧ t.regs = { s.regs with
        cls := s.regs.cls.set k { s.regs.cls[k] with ieDl := v.getLsbD 1, ieSf := v.getLsbD 0 } })
    ∧ (writeAtFront s 0x6080 v → v.getLsbD 31 = true → (v.extractLsb' 0 9).toNat ≤ 265 → (v.getLsbD 25 = true → (v.extractLsb' 9 9).toNat ≤ 265) →
      (v.extractLsb' 26 4).toNat ≤ 7 → ∃ t, exec .rasInjArm s = .next t ∧ t.m.ras.armed = true ∧ t.regs = { s.regs with
        injHalf := v.getLsbD 30, injArray := v.extractLsb' 26 4, injTwo := v.getLsbD 25, injPosB := v.extractLsb' 9 9, injPosA := v.extractLsb' 0 9 })
    ∧ (writeAtFront s 0x6080 v → v.getLsbD 31 = true → 265 < (v.extractLsb' 0 9).toNat ∨ (v.getLsbD 25 = true ∧ 265 < (v.extractLsb' 9 9).toNat)
        ∨ 7 < (v.extractLsb' 26 4).toNat → exec .rasInjArm s = .next (rest s (s.regs, accessTaken s 0x6080)))
    ∧ (writeAtFront s 0x7000 v → ∃ t, exec .pwrCtlWrite s = .next t ∧ t.regs = { s.regs with
        holdclk := v.getLsbD 31, reten := v.getLsbD 30, iePto := v.getLsbD 29
        retidle := if v.extractLsb' 16 10 = 0 then s.regs.retidle else v.extractLsb' 16 10
        stopidle := if (v.extractLsb' 0 16).toNat < 16 then s.regs.stopidle else v.extractLsb' 0 16 })
    ∧ (∀ h : Half, writeAtFront s (0x5000 + 0x100 * h.val) v →
        ∃ t, exec .anvCtlWrite s = .next t ∧ t.regs = { s.regs with anvEn := s.regs.anvEn.set h (v.getLsbD 0) })
    ∧ (∀ h : Half, writeAtFront s (0x5080 + 0x100 * h.val) v → ∃ t, exec .seqEnable s = .next t ∧ t.regs = { s.regs with
        seqEn := (s.regs.seqEn.set (seqIx h 0) (v.getLsbD 0)).set (seqIx h 1) (v.getLsbD 1) })
    ∧ (writeAtFront s 0x20 v → ∃ t, exec .detCtlWrite s = .next t ∧ t.regs = { s.regs with detEn := v.getLsbD 0 })

/-! ## Memory channels, fills and the stores of a half (chapters 03, 04 and 13) -/

/-- Follows R427, R83, R87, R88, R226: a command header takes its class's credits, gets a TAG that is not outstanding, and is outstanding from
then on; its data stand beside it, and nothing of its line may stand in its way. -/
def Obligations.MemoryCommandIsPresented : Prop :=
  ∀ (h : Half) (s : State), clocked s.m h = true → chanJoined s.m h = true → calm s.m = true →
    let ch := chanAt s.m h
    (∀ x, s.regs.svcOrder = false → s.regs.pfEn = 0 → ch.readQ = [x] → ch.readO = [] → (∀ y ∈ ch.writeO, y.line ≠ x.line) →
      atomicOut ch x.line = false → ch.atomQ = [] → nextWrite ch = none → 1 ≤ ch.hcr[0] →
      ∃ t tag, let y := { x with tag := tag }
        exec (.memCmdIssue h) s = .next t ∧ t.m.out = s.m.out ++ [.read h y (readHeader y)] ∧ (chanAt t.m h).readQ = []
        ∧ (chanAt t.m h).readO = [y] ∧ (chanAt t.m h).hcr[0] = ch.hcr[0] - 1)
    ∧ (∀ x, s.regs.pfEn = 0 → ch.writeQ = [x] → ch.writeO = [] → (∀ y ∈ ch.readO, y.line ≠ x.line) → atomicOut ch x.line = false →
      ch.atomQ = [] → sendableReads ch = [] → 1 ≤ ch.hcr[1] → maskCount x.smask ≤ ch.dcr[1] →
      ∃ t tag, let y := { x with tag := tag }
        let sent := { y with data := packSectors x.smask x.data }
        exec (.memCmdIssue h) s = .next t
        ∧ t.m.out = s.m.out ++ [.write h sent (writeHeader sent) (dataBeats memWriteW (64 * maskCount x.smask) sent.data)]
        ∧ (chanAt t.m h).writeQ = [] ∧ (chanAt t.m h).writeO = [y] ∧ (chanAt t.m h).hcr[1] = ch.hcr[1] - 1
        ∧ (chanAt t.m h).dcr[1] = ch.dcr[1] - maskCount x.smask)
    ∧ (∀ x rest, ch.atomQ = x :: rest → lineInFlight ch (lineOf x.req.addr) = false → ch.atomO.length < 64 → sendableReads ch = [] →
      nextWrite ch = none → 1 ≤ ch.hcr[2] → 1 ≤ ch.dcr[2] →
      ∃ t tag, let y := { x with tag := tag }
        exec (.memCmdIssue h) s = .next t
        ∧ t.m.out = s.m.out ++ [.atomic h { y with req := { x.req with data := atomicData x.req } } (atomicHeader y)
            (dataBeats memWriteW (atomicBytes x.req) (atomicData x.req))]
        ∧ (∀ z ∈ ch.atomO, z.tag ≠ tag) ∧ (chanAt t.m h).atomQ = rest ∧ (chanAt t.m h).atomO = ch.atomO ++ [y]
        ∧ (chanAt t.m h).hcr[2] = ch.hcr[2] - 1 ∧ (chanAt t.m h).dcr[2] = ch.dcr[2] - 1)

/-- Follows R425: while READs are ordered by class and fewer than 15 grants have passed level 4 by, a waiting READ of a deadline class is granted
before any other, and none of them has an earlier deadline. -/
def Obligations.DeadlineReadsGoFirst : Prop :=
  ∀ (g : Regs) (w : List RdCmd) (ch : MemChan), g.svcOrder = true → ch.since < 15 → (∃ y ∈ w, isDeadline g y = true) →
    ∃ x c, chooseRead g w ch = some (x, c) ∧ x ∈ w ∧ isDeadline g x = true ∧ (∀ y ∈ w, isDeadline g y = true → earlier y.deadline x.deadline = false)
      ∧ c.since = ch.since + 1

/-- Follows R83, R84, R94: the credits that a memory controller, a peer or a package returns join its pools, and what waits on its link goes on. A
pool past its bound breaks R84 or R94, and more than four data credits of a class break R83; the manual gives such a return no effect, and
that it ends in the fault creditOverflow is the model's choice (log 9), as it is that credits of a partner that has not joined change nothing. -/
def Obligations.PartnerCreditsArrive : Prop :=
  ∀ (hc : BitVec 4) (dc : BitVec 12) (s : State),
    let hd := fun (i : Nat) => if hc.getLsbD i then 1 else 0
    let dd := fun (i : Nat) => (dc.extractLsb' (3 * i) 3).toNat
    (∀ c : Half, clocked s.m c = true →
      let x := chanAt s.m c
      (isJoined x.hello = false → exec (.msgCreditReturn (.mem c) hc dc) s = .next (settled s s.m))
      ∧ (isJoined x.hello = true →
        ((∀ i : Fin 3, dd i.val ≤ 4 ∧ x.hcr[i] + hd i.val ≤ 4095 ∧ x.dcr[i] + dd i.val ≤ 4095) →
          ∃ ch, exec (.msgCreditReturn (.mem c) hc dc) s = .next (settled s (modChan c (fun _ => ch) s.m))
            ∧ (∀ i : Fin 3, ch.hcr[i] = x.hcr[i] + hd i.val ∧ ch.dcr[i] = x.dcr[i] + dd i.val) ∧ ch = { x with hcr := ch.hcr, dcr := ch.dcr })
        ∧ (∀ i : Fin 3, 4 < dd i.val ∨ 4095 < x.hcr[i] + hd i.val ∨ 4095 < x.dcr[i] + dd i.val →
          exec (.msgCreditReturn (.mem c) hc dc) s = .fault .creditOverflow)))
    ∧ (∀ (k : LinkIx) (j : Fin 3), (k = .remote ∧ j = 2) ∨ (∃ c, k = .peer c ∧ j = peerLink c) → clocked s.m (fin3Half j) = true →
      let x := linkAt s.m j
      let headers := if j = 2 then 64 else 32
      let data := if j = 2 then 128 else 64
      (isJoined x.hello = false → exec (.msgCreditReturn k hc dc) s = .next (settled s s.m))
      ∧ (isJoined x.hello = true →
        ((∀ i : Fin 4, dd i.val ≤ 4 ∧ x.hcr[i] + hd i.val ≤ headers ∧ x.dcr[i] + dd i.val ≤ data) →
          ∃ l, exec (.msgCreditReturn k hc dc) s = .next (settled s (flushLink j (modLink j (fun _ => l) s.m)))
            ∧ (∀ i : Fin 4, l.hcr[i] = x.hcr[i] + hd i.val ∧ l.dcr[i] = x.dcr[i] + dd i.val) ∧ l = { x with hcr := l.hcr, dcr := l.dcr })
        ∧ (∀ i : Fin 4, 4 < dd i.val ∨ headers < x.hcr[i] + hd i.val ∨ data < x.dcr[i] + dd i.val →
          exec (.msgCreditReturn k hc dc) s = .fault .creditOverflow)))

/-- Follows R88, R110, R151, R155, R226: what the response of memory to an outstanding command of a joined controller does: a READ's sectors
wait in their fill, or the requests of the fill fail; a WRITE frees its command, and a write that waited for it completes, settled, while
what waited for the line goes on; a WRITE that failed loses its line (R91); an ATOMIC completes with the old value, or with ERR_DATA. A response that answers no command changes nothing (the model's choice, log 9); one of a controller that
has not joined is discarded and logged (its SRC and OPC are free, log 97). -/
def Obligations.MemoryResponsesArrive : Prop :=
  (∀ (c : Half) (s : State), clocked s.m c = true → chanJoined s.m c = true → (halfAt s.m c).safe = false →
      (∀ x e d, (chanAt s.m c).readO = [x] → x.why = .fill → (halfAt s.m c).miss = [e] → e.line = x.line → e.prefetch = true →
        exec (.memReadResponse c x.tag true d) s = .next (settled s (modHalf c
          (fun hs => { hs with miss := [{ e with data := unpackSectors x.smask d, arrived := true }] }) (modChan c (fun ch => { ch with readO := [] }) s.m))))
      ∧ (∀ x e d, (chanAt s.m c).readO = [x] → x.why = .fill → missOf (halfAt s.m c) x.line = some e → locate (halfAt s.m c) x.line = none →
        exec (.memReadResponse c x.tag false d) s = .next (settled s (failFill c e.waiters
          (dropMiss c x.line (modChan c (fun ch => { ch with readO := [] }) s.m)))))
      ∧ (∀ x r, (chanAt s.m c).writeO = [x] → x.vb = none → (halfAt s.m c).vb = [] → x.waiters = [r] →
        let m := modChan c (fun ch => { ch with writeO := [] }) s.m
        (∀ old, r.op = .wr → r.given = some old →
          exec (.memWriteResponse c x.tag true) s = .next (settled s (complete (settleReport r m).1 .done old (settleReport r m).2)))
        ∧ (r.given = none → exec (.memWriteResponse c x.tag true) s = .next (settled s (goAll c .data [r] m))))
      ∧ (∀ x, (chanAt s.m c).writeO = [x] → x.vb = none → x.waiters = [] →
        exec (.memWriteResponse c x.tag false) s = .next (settled s (logLoss (lossLine lossWRITE c x.line)
          (sendHeldBack s.regs c x.line (loseLine s.regs c none x.line (modChan c (fun ch => { ch with writeO := [] }) s.m))))))
      ∧ (∀ x old, (chanAt s.m c).atomO = [x] → exec (.memAtomicResponse c x.tag true old) s = .next (settled s (complete x.req .done
          ((old &&& BitVec.ofNat 64 (2 ^ (8 * 2 ^ x.req.size.toNat) - 1)).setWidth 2048) (modChan c (fun ch => { ch with atomO := [] }) s.m))))
      ∧ (∀ x old, (chanAt s.m c).atomO = [x] → exec (.memAtomicResponse c x.tag false old) s =
          .next (settled s (failData c lossMEM x.req (modChan c (fun ch => { ch with atomO := [] }) s.m)))))
  ∧ (∀ (c : Half) (tag : BitVec 9) (ok : Bool) (d : Line) (old : BitVec 64) (s : State), clocked s.m c = true →
      (chanJoined s.m c = true →
        ((∀ x ∈ (chanAt s.m c).readO, x.tag ≠ tag) → exec (.memReadResponse c tag ok d) s = .next (settled s s.m))
        ∧ ((∀ x ∈ (chanAt s.m c).writeO, x.tag ≠ tag) → exec (.memWriteResponse c tag ok) s = .next (settled s s.m))
        ∧ ((∀ x ∈ (chanAt s.m c).atomO, x.tag ≠ tag) → exec (.memAtomicResponse c tag ok old) s = .next (settled s s.m)))
      ∧ (chanJoined s.m c = false → ∃ src opc, let t := settled s (logVio (vioMessage src opc 0) (spend s.m))
        exec (.memReadResponse c tag ok d) s = .next t ∧ exec (.memWriteResponse c tag ok) s = .next t
          ∧ exec (.memAtomicResponse c tag ok old) s = .next t))

/-- Follows R88: the sectors of a mask travel in ascending order. The sector with n sectors of the mask below it stands at place n of a WRITE's
data, and the sector at place n of a READ's data is that sector of the line. -/
def Obligations.SectorsKeepTheirPlaces : Prop :=
  ∀ (mask : BitVec 4) (d : Line) (k : Fin 4),
    let rank := ((List.range k.val).filter fun i => mask.getLsbD i).length
    (mask.getLsbD k.val = true → sectorOf (packSectors mask d) rank = sectorOf d k.val ∧ sectorOf (unpackSectors mask d) k.val = sectorOf d rank)
    ∧ (mask.getLsbD k.val = false → sectorOf (unpackSectors mask d) k.val = 0)

/-- Follows R139, R140, R143, R145, R147, R150, R155, R443: a fill that has arrived goes into the place found for it, with its age and the
bytes of the merge buffer, and a read that waited is answered; it waits where no place can be had yet. Where the line stands already it is
refetched in place, or moves out first. A recalled frame goes back into its set; with no way eligible and nothing waiting the entry stays.
An entry of the merge buffer drains and frees, a line moves out of its packed frame and its move ends; what waited for them goes on. -/
def Obligations.CacheEventsHappen : Prop :=
  (∀ (h : Half) (l : LineAddr) (s : State) (e : MissEntry), clocked s.m h = true → missOf (halfAt s.m h) l = some e → e.arrived = true →
      e.line = l →
      let m0 := instGrant h e.waiters (readLookup s.regs h l s.m)
      (∀ r pl m, s.m.ras.errs = [] → e.noFill = false → locate (halfAt s.m h) l = none → e.waiters = [r] → r.op = .rdNc → (∀ k, r.origin ≠ .range k) →
        e.xreq = none → s.regs.hc[h].cen = true →
        let d := mergedData (halfAt m0 h) l e.data
        placeFor s.regs h l (writtenLine [r] d) (fillMask s.regs m0 h e) m0 = (pl, m) →
        (pl = .wait → exec (.fillInstall h l) s = .next (settled s m))
        ∧ (pl ≠ .wait → pl ≠ .nowhere → exec (.fillInstall h l) s = .next (settled s
          (putLine s.regs h l d (e.dirty ||| mergedSectors (halfAt m0 h) l) (installAge s.regs h e) pl
            (answerRead r d (discardMerges h l (dropMiss h l m)))))))
      ∧ (∀ p, e.noFill = false → locate (halfAt m0 h) l = some p → (lineOfLoc (halfAt m0 h) l p).lost = false → lookup s.regs m0 h l ≠ none →
        e.xreq = none → exec (.fillInstall h l) s = .next (settled s (noteRange h (ofRange e.waiters) s.m
          (if overwriteFits s.regs m0 h l p e.data = true then
            goAll h .data (markFilled e.waiters) (drainLine s.regs h l (overwriteLine s.regs h l p e.data e.dirty (dropMiss h l m0)))
          else startMove h l e.label none m0)))))
  ∧ (∀ (h : Half) (l : LineAddr) (s : State) (e : VbEntry), clocked s.m h = true →
      let m0 := readLookup s.regs h l s.m
      recallDue (halfAt m0 h) l = some e →
      exec (.victimRecall h l) s = .next (settled s (noteRange h (ofRange e.waiters) m0 (recallNow s.regs h l e (instGrant h e.waiters m0))))
      ∧ (s.m.ras.errs = [] → ((halfAt s.m h).vb.find? fun x => x.slot == e.slot) = some e → isFree e.frame = false → s.regs.hc[h].cen = true →
        chooseWay s.regs s.m h e.set (installMask s.regs s.m h l (e.recalled.getD none)) = none → e.waiters = [] →
        exec (.victimRecall h l) s = .next (settled s (endRecall h e.slot s.m))))
  ∧ (∀ (h : Half) (l : LineAddr) (s : State),
      (∀ (k : Fin 4) e, mergeOf (halfAt s.m h) l k.val = some e → clocked s.m h = true → e.draining = false →
        exec (.mergeEntryTimeout h l k) s = .next (settled s (startDrain s.regs h e (readLookup s.regs h l s.m))))
      ∧ (∀ (k : Fin 4) e, mergeOf (halfAt s.m h) l k.val = some e → e.draining = true →
        exec (.mergeDrainEnd h l k) s = .next (settled s (goAll h .data e.waiters
          (modHalf h (fun hs => { hs with merge := hs.merge.filter fun x => x.slot != e.slot }) s.m))))
      ∧ (∀ v, moveOf (halfAt s.m h) l = some v → clocked s.m h = true → v.started = false →
        exec (.packMoveOut h l) s = .next (settled s (noteRange h (v.range || ofRange v.trigger.toList) s.m
          (moveOut s.regs h v (instGrant h (v.trigger.toList ++ v.waiters) (readLookup s.regs h l s.m))))))
      ∧ (∀ v, moveOf (halfAt s.m h) l = some v → v.started = true → mustLeave s.regs s.m h l = false → needsHold (halfAt s.m h) l = false →
        exec (.packMoveEnd h l) s = .next (settled s (openingDone h (goAll h .data (v.trigger.toList ++ v.waiters)
          (modHalf h (fun hs => { hs with moves := hs.moves.filter fun x => x.line != l }) s.m)))))
      ∧ (∀ v, moveOf (halfAt s.m h) l = some v → v.started = true → mustLeave s.regs s.m h l = true →
        exec (.packMoveEnd h l) s = .next (settled s (modHalf h (fun hs => { hs with
          moves := hs.moves.map fun x => if x.line == l then { x with started := false } else x }) s.m))))

/-! ## The home of a line: coherence and reduction groups (chapters 06 and 10) -/

/-- Follows R197, R206 to R208, R210, Tables 6.3 to 6.5: the snoops that each request sends by the state of its line, the entry that it leaves,
and whether it completes shared; every entry so left obeys R197. It is what the home writes into the directory, where every other line
keeps its entry. -/
def Obligations.DirectoryFollowsItsTables : Prop :=
  (∀ (e : DirEntry) (r : Req) (had : Bool), HolderRules e →
    let held := fun (x : Holder) => holds e x = true
    let alone := (snoopsOf e r).2 = []
    let snooped := fun (k : SnpKind) (p : Holder → Prop) => (snoopsOf e r).1 = k ∧ (snoopsOf e r).2.Nodup ∧ ∀ x, x ∈ (snoopsOf e r).2 ↔ p x
    let next := nextDir e r had
    let shared := sharedOf e r had
    (∀ a, r.agent = some a → reqChip r = none →
      (r.op = .rdS →
        (e.state = 0 ∨ e.state = stS → alone ∧ next = { e with agents := e.agents ||| agentBit a, state := stS }
          ∧ (shared = true ↔ ∃ x, held x ∧ x ≠ .agent a))
        ∧ (e.state = stU → e.owner = a → alone ∧ next = e ∧ shared = false)
        ∧ (e.state = stU → e.owner ≠ a → snooped .down (fun x => x = .agent e.owner) ∧ shared = had
          ∧ next = { e with agents := (if had then agentBit e.owner else 0) ||| agentBit a, owner := 0, state := stS })
        ∧ (e.state = stX → snooped .down (fun x => x = .chip e.ochip) ∧ shared = true
          ∧ next = { e with agents := agentBit a, chips := chipBit e.ochip, ochip := 0, state := stS }))
      ∧ (r.op = .rdU ∨ r.op = .upg → snooped .inv (fun x => held x ∧ x ≠ .agent a)
        ∧ next = { e with agents := agentBit a, chips := 0, ochip := 0, owner := a, state := stU })
      ∧ (r.op = .evict → alone ∧ (∀ x, holds next x = true ↔ held x ∧ x ≠ .agent a) ∧ (¬ held (.agent a) → next = e))
      ∧ (r.op = .wr →
        (e.state = stU → e.owner = a → alone ∧ next = e)
        ∧ (e.state = stS → held (.agent a) → snooped .inv (fun x => held x ∧ x ≠ .agent a) ∧ next = { e with agents := agentBit a, chips := 0 })
        ∧ (¬ held (.agent a) → snooped .inv held ∧ next = noHolder e)))
    ∧ (r.op = .wr → r.agent = none → reqChip r = none → snooped .inv held ∧ next = noHolder e)
    ∧ (r.op = .addl ∨ r.op = .atomR ∨ r.op = .atomN ∨ r.op = .place ∨ r.op = .inv ∨ r.op = .clnInv ∨ r.op = .zero →
      snooped .inv held ∧ next = noHolder e)
    ∧ (r.op = .rdNc ∨ r.op = .pref ∨ r.op = .cln →
      (e.state = stX → snooped .down (fun x => x = .chip e.ochip) ∧ next = { e with chips := chipBit e.ochip, ochip := 0, state := stS })
      ∧ (e.state ≠ stX → alone ∧ next = e))
    ∧ (∀ q, r.agent = none → reqChip r = some q →
      (r.op = .xShared →
        (e.state = 0 ∨ e.state = stS → alone ∧ next = { e with chips := e.chips ||| chipBit q, state := stS })
        ∧ (e.state = stU → snooped .down (fun x => x = .agent e.owner)
          ∧ next = { e with agents := if had then e.agents else 0, owner := 0, chips := chipBit q, state := stS })
        ∧ (e.state = stX → snooped .down (fun x => x = .chip e.ochip)
          ∧ next = { e with chips := chipBit e.ochip ||| chipBit q, ochip := 0, state := stS }))
      ∧ (r.op = .xUnique ∨ r.op = .xUpgrade → next = { e with agents := 0, owner := 0, chips := chipBit q, ochip := q, state := stX }
        ∧ (e.state = stX → snooped .inv (fun x => x = .chip e.ochip)) ∧ (e.state ≠ stX → snooped .inv (fun x => held x ∧ x ≠ .chip q))
        ∧ (r.op = .xUpgrade → (shared = true ↔ e.state = stS ∧ held (.chip q)))))
    ∧ ((r.op = .xShared → reqChip r ≠ none) → HolderRules next))
  ∧ (∀ (g : Regs) (h : Half) (r : Req) (had : Bool) (m : Mach), m.ras.errs = [] → m.ras.armed = false →
    let l := lineOf r.addr
    let hs := halfAt m h
    let t := halfAt (applyDir g h r had m) h
    let e := nextDir (dirOf hs l) r had
    tabWf DirEntry.free hs.dir = true → dirWay hs l ≠ none ∨ dirFreeWay hs l ≠ none →
    (∀ v < 16, ∀ w < 16, dirLive (dirSlot hs (dirSet l) v) = true → dirLive (dirSlot hs (dirSet l) w) = true →
      (dirSlot hs (dirSet l) v).tag = dirTag l → (dirSlot hs (dirSet l) w).tag = dirTag l → v = w) →
      (dirLive e = true → (dirOf t l).agents = e.agents ∧ (dirOf t l).chips = e.chips ∧ (dirOf t l).state = e.state
        ∧ (dirOf t l).owner = e.owner ∧ (dirOf t l).ochip = e.ochip ∧ (dirOf t l).xp = e.xp)
      ∧ (dirLive e = false → dirOf t l = DirEntry.free)
      ∧ ∀ x, x ≠ l → dirOf t x = dirOf hs x)

/-- Follows R142, R154, R201, R202, R206 to R208, R222: a request of Tables 6.3 and 6.4 that is ordered at the home of its line acts at once
where it snoops nobody, else it holds the line in the conflict tracker and snoops the holders; the last answer lets it act. It then leaves
the directory entry of the tables and acts on the line: a read is answered with its bytes, UPG and EVICT complete without data, a WR merges
its bytes into the line, an ADDL or atomic leaves its result there and returns the old value; a line that a package returned installs
dirty, and one that the half does not hold is fetched. -/
def Obligations.CoherentRequestsActAtTheirHome : Prop :=
  (∀ (g : Regs) (h : Half) (r : Req) (m : Mach),
    let l := lineOf r.addr
    let e := dirOf (halfAt m h) l
    let r0 : Req := { r with bound := none, passed := true }
    let m1 := modHalf h (fun hs => { hs with ordPtr := nextPtr hs.ordPtr r }) m
    let m0 := if r.op = .atomR ∨ r.op = .atomN then trainPred h r m1 else m1
    OrderReady g m h l → coherentOp r.op = true → (∃ p, r.origin = .port p) → r.passed = false → isPackage m r.addr = true →
    bindingOf g r.addr = none → confOf (halfAt m h) l = none → lostSeen g m h l = false →
    wantsEntry m h r = false ∨ dirRoom (halfAt m h) l = true → (r.op = .atomR ∨ r.op = .atomN → goesToMemory g m h r = false) →
      ((snoopsOf e r).2 = [] → orderNow g h r m = act g h r0 false none m0)
      ∧ ((snoopsOf e r).2 ≠ [] → orderNow g h r m = snoopAll g h l (snoopsOf e r).1 (snoopsOf e r).2
          (setConf h l (some (newConf l .acting (some r0) (snoopsOf e r).2)) m0)))
  ∧ (∀ (g : Regs) (h : Half) (l : LineAddr) (x : Holder) (had : Bool) (m : Mach) (c : Conf) (r : Req), confOf (halfAt m h) l = some c →
      c.why = .acting → c.req = some r → c.waitXwb = none →
      let heard := fun (ys : List Holder) => setConf h l (some { c with pend := ys, had := c.had || had }) m
      (c.pend = [x] → answerConf g ⟨h, l, x, had⟩ m = act g h r (c.had || had) c.ret (heard []))
      ∧ (∀ y ys, c.pend = x :: y :: ys → answerConf g ⟨h, l, x, had⟩ m = heard (y :: ys)))
  ∧ (∀ (g : Regs) (h : Half) (r : Req) (had : Bool) (m : Mach),
    let l := lineOf r.addr
    let hs := halfAt m h
    let e := dirOf hs l
    let e' := nextDir e r had
    let r1 := { r with shared := sharedOf e r had || r.shared, fresh := joinsAgents e r had }
    let r2 := { r1 with looked := true }
    let m1 := applyDir g h r had m
    let m2 := match confOf hs l with
      | some _ => setConf h l (some { newConf l .completing (some r1) [] with had := had }) m1
      | none => m1
    (∀ c, confOf hs l = some c → ∃ x, c.req = some x ∧ x.id = r.id) → coherentOp r.op = true → r.op ≠ .place → LineAtRest g m h r →
      (∀ d, r.op = .rdNc ∨ r.op = .rdS ∨ r.op = .rdU ∨ r.op = .upg ∨ r.op = .wr ∨ r.op = .addl ∨ r.op = .atomR ∨ r.op = .atomN →
        act g h r had (some d) m = arriveLine h l d 0xF [r1] m2)
      ∧ (locate hs l = none → r.op = .rdNc ∨ r.op = .rdS ∨ r.op = .rdU ∨ r.op = .wr ∨ r.op = .addl ∨ r.op = .atomR ∨ r.op = .atomN →
        act g h r had none m = missStart g h r1 m2)
      ∧ (∀ w, lookup g m h l = some (.frame w) → (frameAt hs (setIx l) w).packed = false → (lineOfLoc hs l (.frame w)).lost = false →
        let d := (lineOfLoc hs l (.frame w)).data
        (r.op = .evict → ∃ b, act g h r had none m = complete { r1 with looked := b } .done 0 (tryPack g h l m2))
        ∧ (g.hc[h].cmode ≠ 2 ∨ e'.agents ≠ 0 ∨ e'.chips ≠ 0 ∨ (e.agents = 0 ∧ e.chips = 0) →
          let ends := fun (old v : Line) => ∃ t, act g h r had none m = complete { r2 with bound := none } .done old t
            ∧ lineSeen t h l = some v ∧ (∀ x, x ≠ l → lineSeen t h x = lineSeen m h x) ∧ (∀ x, dirOf (halfAt t h) x = dirOf (halfAt m2 h) x)
          (r.op = .rdNc ∨ r.op = .rdS ∨ r.op = .rdU → act g h r had none m = answerRead r2 d (touch g h r2 m2))
          ∧ (r.op = .upg → act g h r had none m = complete r2 .done 0 m2)
          ∧ (r.op = .wr → writesDirect m h r w = true ∨ mergeFits m h r.be → ends 0 (mergeBytes r.be r.data d))
          ∧ (r.op = .addl ∨ r.op = .atomR ∨ r.op = .atomN → mergeFits m h (updateOn r d).2.1 →
            ends ((updateOn r d).2.2.setWidth 2048) (updateOn r d).1))))

/-- Follows R338, R341 to R346, R399: what a half does with the opcodes of a reduction group in their turn. A GRP_OPEN of a GID in use, or without
storage, is refused; one that is accepted leaves the group open and completes once nothing of its lines moves; a resident line is held. A
contribution is refused as R341 says, else it enters the arrival record of its sectors, walks up their trees and completes; one that
completes a sector has the result written first, in turn before any other request of the line. The group closes with its last result. A
GRP_ABORT of a GID that is not open is refused; an open group takes no contribution any more, and when those ordered before have completed
it is freed and the aborts complete. -/
def Obligations.ReductionGroupsActAtTheirUnit : Prop :=
  (∀ (g : Regs) (h : Half) (r : Req) (m : Mach),
    let hs := halfAt m h
    let gid := gidOf r
    let need := openNeed m h r
    let m0 := modHalf h (fun hs => { hs with ordPtr := nextPtr hs.ordPtr r }) m
    let others := fun (t : Mach) => ∀ i, i ≠ gid → groupAt (halfAt t h) i = groupAt hs i
    g.pfEn = 0 → tabWf none hs.groups = true →
      (r.op = .grpOpen →
        (groupAt hs gid ≠ none → orderNow g h r m = refuse r .errRefused m0)
        ∧ (groupAt hs gid = none → 64 ≤ hs.groups.length ∨ groupStorage g h < groupReserved hs + need → orderNow g h r m = refuse r .errOverflow m0)
        ∧ (groupAt hs gid = none → hs.groups.length < 64 → groupReserved hs + need ≤ groupStorage g h →
          (∀ l ∈ openLines m h r, locate hs l = none ∧ ∀ e ∈ hs.merge, e.line ≠ l) →
          (∀ v ∈ hs.moves, groupCovers (newGroup r need) v.line = false) →
          (∀ x ∈ hs.groups, ∀ gr, x.2 = some gr → gr.opening = none) →
          ∃ t, orderNow g h r m = complete r .done 0 t ∧ groupAt (halfAt t h) gid = some { newGroup r need with opening := none } ∧ others t))
      ∧ (r.op = .grpAbort →
        (openGroup hs gid = none → orderNow g h r m = refuse r .errRefused m0)
        ∧ (∀ gr, openGroup hs gid = some gr → let t := orderNow g h r m
          groupAt (halfAt t h) gid = some { gr with closing := true } ∧ others t ∧ (halfAt t h).gaborts = hs.gaborts ++ [(gid, r)]))
      ∧ (r.op = .grpContrib → OrderReady g m h (lineOf r.addr) → r.passed = false →
        (∀ gr, groupAt hs gid = some gr → tabWf GrpSector.none gr.sectors = true) →
        let j := (lineOf r.addr).toNat
        let idx := (r.aux.extractLsb' 8 8).toNat
        (contribRefused hs r = true → orderNow g h r m = refuse r .errRefused m0)
        ∧ (contribRefused hs r = false → ∃ t gr, orderNow g h r m = dataPhase g h { r with bound := none, passed := true } t
          ∧ groupAt hs gid = some gr ∧ gr.closing = false ∧ groupCovers gr (lineOf r.addr) = true ∧ idx ≤ gr.nm1.toNat ∧ others t
          ∧ ∃ secs, groupAt (halfAt t h) gid = some { gr with sectors := secs } ∧ ∀ k, tabGet GrpSector.none secs k =
            let old := tabGet GrpSector.none gr.sectors k
            if ∃ s ∈ contribSectors r, k = 4 * (j - gr.base.toNat / 256) + s then { old with arrived := old.arrived ||| (1#256 <<< idx) } else old)))
  ∧ (∀ (hs : HalfSt) (r : Req), contribRefused hs r = true ↔
      ∀ gr, groupAt hs (gidOf r) = some gr → groupCovers gr (lineOf r.addr) = true → gr.closing = true ∨ gr.nm1.toNat < (r.aux.extractLsb' 8 8).toNat
        ∨ ∃ s ∈ contribSectors r, (tabGet GrpSector.none gr.sectors (4 * ((lineOf r.addr).toNat - gr.base.toNat / 256) + s)).arrived.getLsbD
            (r.aux.extractLsb' 8 8).toNat = true)
  ∧ (∀ (g : Regs) (h : Half) (label : Option (BitVec 12)) (l : LineAddr) (w : Nat) (m : Mach), m.ras.errs = [] → m.ras.armed = false →
      tabWf Frame.free (halfAt m h).frames = true → (∀ e ∈ (halfAt m h).merge, e.line ≠ l) → lookup g m h l = some (.frame w) →
      (frameAt (halfAt m h) (setIx l) w).packed = false → 4 ≤ w →
      frameAt (halfAt (holdLine g h label l m) h) (setIx l) w = { frameAt (halfAt m h) (setIx l) w with hold := true })
  ∧ (∀ (g : Regs) (h : Half) (r : Req) (m : Mach) (gr : Group), m.ras.errs = [] → contribGroup (halfAt m h) r = some gr →
      lineLost (halfAt m h) (lineOf r.addr) = false → gr.lost.contains (lineOf r.addr) = false → gr.spilled = [] → (halfAt m h).resOut = [] →
      tabWf GrpSector.none gr.sectors = true → tabWf none (halfAt m h).groups = true →
      let l := lineOf r.addr
      let idx : BitVec 8 := r.aux.extractLsb' 8 8
      let key := fun (s : Nat) => 4 * (l.toNat - gr.base.toNat / 256) + s
      let walk := fun (s : Nat) => contribute gr.op.toNat gr.fmt.toNat (gr.nm1.toNat + 1) idx (sectorOf r.data s) (tabGet GrpSector.none gr.sectors (key s))
      let stored := fun (x : Option Group) => ∃ secs w, x = some { gr with sectors := secs, writing := w } ∧ ∀ k, tabGet GrpSector.none secs k =
        match (contribSectors r).find? fun s => key s == k with
        | some s => (walk s).1
        | none => tabGet GrpSector.none gr.sectors k
      let ready := (contribSectors r).filter fun s => (walk s).2.isSome
      (ready = [] → ∃ t, contribOp g h r m = complete r .done 0 t ∧ stored (groupAt (halfAt t h) (gidOf r)))
      ∧ (ready ≠ [] → ∃ t x, contribOp g h r m = { t with again := ⟨h, x, .order⟩ :: t.again }
        ∧ stored (groupAt (halfAt t h) (gidOf r)) ∧ x.origin = .grp h x.id ∧ x.op = .wr ∧ x.addr = lineBase l ∧ x.inst = gr.inst
        ∧ (∀ s < 4, x.be.extractLsb' (64 * s) 64 = if s ∈ ready then BitVec.allOnes 64 else 0)
        ∧ (∀ s ∈ ready, ∀ root, (walk s).2 = some root → sectorOf x.data s = resultSector gr.op.toNat gr.fmt.toNat root)
        ∧ (halfAt t h).gwrites = (halfAt m h).gwrites ++ [⟨x.id, (gidOf r).toNat, r, ready.map key⟩]))
  ∧ (∀ (g : Regs) (h : Half) (c : Code) (m : Mach) (w : GrpWrite) (gr : Group), m.ras.errs = [] → m.ras.armed = false →
      tabWf none (halfAt m h).groups = true → (halfAt m h).gwrites = [w] → w.gid < 64 →
      groupAt (halfAt m h) (BitVec.ofNat 6 w.gid) = some gr → gr.writing.contains w.rid = true → gr.closing = false →
      let secs := w.secs.foldl (fun t k => tabMod GrpSector.none t k fun s => { s with done := true }) gr.sectors
      let left := { gr with sectors := secs, writing := gr.writing.erase w.rid }
      groupAt (halfAt (resultWritten g h w.rid c m) h) (BitVec.ofNat 6 w.gid) = if groupComplete m h left = true then none else some left)
  ∧ (∀ (g : Regs) (h : Half) (gid : BitVec 6) (m : Mach), tabWf none (halfAt m h).groups = true → ∃ t,
      endAbort g h gid m = completeAll (((halfAt m h).gaborts.filter fun x => x.1 == gid).map (·.2)) .done 0 t
      ∧ (∀ i, groupAt (halfAt t h) i = if i = gid then none else groupAt (halfAt m h) i)
      ∧ (halfAt t h).gaborts = (halfAt m h).gaborts.filter fun x => x.1 != gid)

/-- Follows R340 to R342: whatever the order in which the N contributions of a sector arrive, none but the last finds a root, and that root is
the tree of R340 over the contributions in the order of their indices. On the way the sector stores at most ceil(N/2) nodes and records
who has arrived; at the end it stores none. -/
def Obligations.ReductionResultIsTheTreeOfTheRule : Prop :=
  ∀ (op fmt n : Nat) (x : Nat → Sector) (order : List Nat), 2 ≤ n → n ≤ 256 → order.Perm (List.range n) →
    (∀ k, k ≤ n → let s := (order.take k).foldl (contributed op fmt n x) (GrpSector.none, [])
      s.1.nodes.length ≤ (n + 1) / 2 ∧ (∀ i < 256, s.1.arrived.getLsbD i = (order.take k).contains i) ∧ s.1.done = false ∧ (k < n → s.2 = []))
    ∧ ∃ root, treeUp (List.zipWith (combine op fmt)) 8 ((List.range n).map fun i => treeLeaf op fmt i (x i)) = [root]
      ∧ (order.foldl (contributed op fmt n x) (GrpSector.none, [])).2 = [root]
      ∧ (order.foldl (contributed op fmt n x) (GrpSector.none, [])).1.nodes = []

/-! ## Messages, joins and departures (chapters 03, 06 and 07) -/

/-- Follows R83, R93, R96 to R98: a peer message of a joined slice gives its credits back, is counted and has its effect: a counter report, a
request of its home, a reserved opcode that is refused, a completion, a snoop and its answer. A CMPL or SRSPF that answers nothing has no
further effect (the model's choice, log 9). -/
def Obligations.PeerMessagesAreTaken : Prop :=
  (∀ (x : FwdMsg) (o : Op) (s : State), opOfBits x.opc = some o → canHear s (peerLink x.ch) x.sslice →
    let m := takeMsg (peerLink x.ch) (if isLane1 o then 3 else 0) (wdBeats o x.beat.size.toNat) s.m
    (x.beat.rsv.getLsbD 0 = true ∨ x.beat.rsv.getLsbD 1 = true → exec (.fwd x) s = .next (settled s { m with
        reports := m.reports ++ [⟨ctrNum x.beat.addr, x.beat.aux.toNat, x.beat.rsv.getLsbD 0, x.beat.rsv.getLsbD 1⟩] }))
    ∧ (x.beat.rsv.getLsbD 0 = false → x.beat.rsv.getLsbD 1 = false → o ≠ .pref ∨ x.beat.aux.getLsbD 31 = false →
      let r := fwdReq x o m.nextId (coreTime m x.ch)
      exec (.fwd x) s = .next (settled s (orderAt s.regs (reqHalf m r) r { m with nextId := m.nextId + 1 }))))
  ∧ (∀ (x : FwdMsg) (s : State), opOfBits x.opc = none → canHear s (peerLink x.ch) x.sslice →
    let m := takeMsg (peerLink x.ch) 0 0 s.m
    let r := fwdReq x .rdNc m.nextId (coreTime m x.ch)
    exec (.fwd x) s = .next (settled s (complete r .errDecode 0 (logVio (vioRequest (BitVec.ofNat 4 (4 + x.ch.val)) .errDecode x.opc r) { m with nextId := m.nextId + 1 }))))
  ∧ (∀ (x : CmplMsg) (f : FwdOut) (s : State), canHear s (peerLink x.ch) x.sslice → cmplOf x s.m = some f →
      exec (.cmpl x) s = .next (settled s (cmplTake x f (takeMsg (peerLink x.ch) 2 ((x.dlen.toNat + 63) / 64) s.m))))
  ∧ (∀ (x : CmplMsg) (s : State), canHear s (peerLink x.ch) x.sslice → cmplOf x s.m = none →
      exec (.cmpl x) s = .next (settled s (takeMsg (peerLink x.ch) 2 ((x.dlen.toNat + 63) / 64) s.m)))
  ∧ (∀ (x : SnpfMsg) (s : State), canHear s (peerLink x.ch) x.sslice → exec (.snpf x) s = .next (settled s (snoopLocal s.regs
      ⟨x.kind, x.line, x.idx, .peer x.ch x.sslice x.stxn, x.data, x.inst, x.gen⟩
      (takeMsg (peerLink x.ch) 1 (if x.kind == .place then 4 else 0) s.m))))
  ∧ (∀ (x : SrspfMsg) (f : SnpfOut) (s : State), canHear s (peerLink x.ch) x.sslice → srspfOf x s.m = some f →
      let m := takeMsg (peerLink x.ch) 2 0 s.m
      exec (.srspf x) s = .next (settled s (answerSnoop f.snp x.had { m with coh := { m.coh with snpfOut := m.coh.snpfOut.erase f } })))
  ∧ (∀ (x : SrspfMsg) (s : State), canHear s (peerLink x.ch) x.sslice → srspfOf x s.m = none →
      exec (.srspf x) s = .next (settled s (takeMsg (peerLink x.ch) 2 0 s.m)))

/-- Follows R83, R210, R212, R214: a remote message of a joined package has its effect at its home half. An XRSP that answers nothing has no
further effect than its credits (the model's choice, log 9). -/
def Obligations.RemoteMessagesAreTaken : Prop :=
  (∀ (x : XreqMsg) (s : State), canHear s 2 x.schip →
    let o := match x.kind with | .shared => Op.xShared | .unique => Op.xUnique | .upgrade => Op.xUpgrade
    let (r, m) := remoteReq (takeMsg 2 0 0 s.m) x.schip x.rtag o x.line 0
    exec (.xreq x) s = .next (settled s (orderAt s.regs (homeHalf m (lineBase x.line)) r m)))
  ∧ (∀ (x : XwbMsg) (s : State), canHear s 2 x.schip →
    let (r, m) := remoteReq (takeMsg 2 0 4 s.m) x.schip x.rtag .xwb x.line x.data
    (halfAt m (homeHalf m (lineBase x.line))).safe = false →
    exec (.xwb x) s = .next (settled s (xwbArrive s.regs (homeHalf m (lineBase x.line)) r (countArrival s.regs x.line x.dsmask m))))
  ∧ (∀ (x : XsnpMsg) (s : State), canHear s 2 x.schip →
    let (r, m) := remoteReq (takeMsg 2 1 0 s.m) x.schip x.rtag (if x.inv then .xsnpInv else .xsnpDown) x.line 0
    exec (.xsnp x) s = .next (settled s (orderAt s.regs (homeHalf m (lineBase x.line)) r m)))
  ∧ (∀ (x : XrspMsg) (o : RemOut) (s : State), canHear s 2 x.schip → xrspOf x s.m = some o →
    exec (.xrsp x) s = .next (settled s (xrspTake s.regs x o (takeMsg 2 2 (if x.line.isSome then 4 else 0) s.m))))
  ∧ (∀ (x : XrspMsg) (s : State), canHear s 2 x.schip → xrspOf x s.m = none →
    exec (.xrsp x) s = .next (settled s (takeMsg 2 2 (if x.line.isSome then 4 else 0) s.m)))

/-- Follows R110, R453: a message of a slice or package that has not joined is discarded, and it is logged with CODE 0 and its MTYPE. That the
credits which it held go back is the model's choice (log 72). -/
def Obligations.UnjoinedMessageIsDiscarded : Prop :=
  ∀ (s : State),
    let dropped := fun (k : Fin 3) (cls : Fin 4) (units : Nat) (mtype : BitVec 6) (a : Addr) =>
      Host.Outcome.next (settled s (logVio ⟨true, 0, BitVec.ofNat 4 (4 + k.val), mtype, 0, 0, a, 0⟩ (takeMsg k cls units s.m)))
    (∀ x : FwdMsg, awakeHalf s.m (fin3Half (peerLink x.ch)) → partJoined s.m (peerLink x.ch) x.sslice = false →
      exec (.fwd x) s = dropped (peerLink x.ch) (if isLane1 ((opOfBits x.opc).getD .rdNc) then 3 else 0) (beatsOf x.opc x.beat.size) 0
        (lineBase (lineOf x.beat.addr)))
    ∧ (∀ x : CmplMsg, awakeHalf s.m (fin3Half (peerLink x.ch)) → partJoined s.m (peerLink x.ch) x.sslice = false →
      exec (.cmpl x) s = dropped (peerLink x.ch) 2 ((x.dlen.toNat + 63) / 64) 1 0)
    ∧ (∀ x : SnpfMsg, awakeHalf s.m (fin3Half (peerLink x.ch)) → partJoined s.m (peerLink x.ch) x.sslice = false →
      exec (.snpf x) s = dropped (peerLink x.ch) 1 (if x.kind = .place then 4 else 0) 2 (lineBase x.line))
    ∧ (∀ x : SrspfMsg, awakeHalf s.m (fin3Half (peerLink x.ch)) → partJoined s.m (peerLink x.ch) x.sslice = false →
      exec (.srspf x) s = dropped (peerLink x.ch) 2 0 3 0)
    ∧ (∀ x : XreqMsg, awakeHalf s.m 0 → partJoined s.m 2 x.schip = false → exec (.xreq x) s = dropped 2 0 0 4 (lineBase x.line))
    ∧ (∀ x : XwbMsg, awakeHalf s.m 0 → partJoined s.m 2 x.schip = false → exec (.xwb x) s = dropped 2 0 4 5 (lineBase x.line))
    ∧ (∀ x : XsnpMsg, awakeHalf s.m 0 → partJoined s.m 2 x.schip = false → exec (.xsnp x) s = dropped 2 1 0 6 (lineBase x.line))
    ∧ (∀ x : XrspMsg, awakeHalf s.m 0 → partJoined s.m 2 x.schip = false →
      exec (.xrsp x) s = dropped 2 2 (if x.line.isSome = true then 4 else 0) 7 0)

/-- Follows R104, R108, R109, R110, R126: a HELLO is answered with JOIN, or with BYE and the reason; a JOIN after the slice's own completes the
exchange of an enabled port, whose agent is owed its credits; the own HELLO is sent until the partner's has come; after a BYE a joined partner
has departed. What a BYE of a partner that has not joined leaves, its role and reason in the port's reject fields and the exchange ended, is
the model's choice (logs 104 and 71). -/
def Obligations.HelloExchangeCompletes : Prop :=
  ∀ (p : PortIx) (w : BitVec 64) (s : State), awakeHalf s.m (portHalf p) → silenced s.m (.port p) = false →
    (wordKind w = 1 → helloReason s.regs s.m (.port p) w = none → w.getLsbD 0 = false → (portAt s.m p).hello.joinIn = false →
      (portAt s.m p).former = none →
      exec (.hello (.port p) w) s = .next (settled s (modPort p (fun x => { x with
        hello := { x.hello with heard := true, waiting := none, joinOut := true }, caching := false, idx := none })
        (emit (.hello (.port p) 0xA000000000000000) s.m))))
    ∧ (∀ r, wordKind w = 1 → helloReason s.regs s.m (.port p) w = some r → exec (.hello (.port p) w) s = .next (settled s
        (noteReject (wordRole w) r (emit (.hello (.port p) (helloWord 3 8 r 0))
          (modPort p (fun x => { x with hello := { x.hello with heard := true } }) s.m)))))
    ∧ (wordKind w = 2 → wordRole w = 1 → s.regs.rpEn[p] = true → (portAt s.m p).hello.joinOut = true → (portAt s.m p).hello.joinIn = false →
      exec (.join (.port p) w) s = .next (settled s (modPort p (fun x => { dropDue x with
        hello := { x.hello with joinIn := true }, departed := false, avail := Credits.none, owed := ⟨64, 16, 32, 16⟩ })
        { s.m with coh := { s.m.coh with joins := s.m.coh.joins + 1 } })))
    ∧ (s.regs.rpEn[p] = true → isJoined (portAt s.m p).hello = false →
        (portAt s.m p).hello.sent = false ∨ (portAt s.m p).hello.heard = false →
      exec (.helloRepeat (.port p)) s = .next (settled s (modPort p (fun x => { x with hello := { x.hello with sent := true } })
        (emit (.hello (.port p) 0x6000000000000000) s.m))))
    ∧ (isJoined (portAt s.m p).hello = false → (portAt s.m p).hello.sent = true → (portAt s.m p).hello.heard = true →
      exec (.helloRepeat (.port p)) s = .next (settled s s.m))
    ∧ (wordKind w = 3 → isJoined (portAt s.m p).hello = true → exec (.bye (.port p) w) s = .next (settled s
      (departAgent s.regs false p (noteReject (wordRole w) (wordReason w) s.m))))
    ∧ (wordKind w = 3 → isJoined (portAt s.m p).hello = false → exec (.bye (.port p) w) s = .next (settled s
      (forgetAgent p (noteReject (wordRole w) (wordReason w) s.m))))

/-- Follows R217 to R220: a notice makes its index dead here and stays until the walks end; an answer is kept; a walk passes every directory
entry in order, and what it writes names no dead index and no package that has gone. -/
def Obligations.ReclaimRemovesTheDead : Prop :=
  (∀ (ch : Half) (j : BitVec 5) (w : BitVec 64) (s : State), canHear s (peerLink ch) j →
    let m := killIndex s.regs (noticeIdx w) (takeMsg (peerLink ch) 3 0 s.m)
    exec (.reclaimNotice ch j w) s = .next (settled s { m with coh := { m.coh with notices := m.coh.notices ++ [⟨noticeIdx w, j, ch⟩] } })
      ∧ m.coh.dead.getLsbD (noticeIdx w).toNat = true)
  ∧ (∀ (ch : Half) (j : BitVec 5) (w : BitVec 64) (s : State) (r : Reclaim), canHear s (peerLink ch) j → s.m.coh.reclaims = [r] →
      r.idx = noticeIdx w →
      let m := takeMsg (peerLink ch) 3 0 s.m
      exec (.reclaimAnswer ch j w) s = .next (settled s (finishReclaims s.regs
        { m with coh := { m.coh with reclaims := [{ r with answered := r.answered ||| (1#32 <<< j.toNat) }] } })))
  ∧ (∀ (h : Half) (s : State), clocked s.m h = true → (halfAt s.m h).walk.run = true → (halfAt s.m h).walk.pos + 1 < 65536 →
      exec (.reclaimWalkStep h) s = .next (settled s (modHalf h
        (fun hs => { hs with walk := { (halfAt s.m h).walk with pos := (halfAt s.m h).walk.pos + 1 } })
        (walkEntry s.regs h (halfAt s.m h).walk.pos s.m))))
  ∧ (∀ (dead : BitVec 64) (gone : BitVec 32) (e : DirEntry),
      let f := cleanEntry dead gone e
      f.agents &&& dead = 0 ∧ f.chips &&& gone = 0 ∧ (f.state = 2#3 → dead.getLsbD f.owner.toNat = false)
        ∧ (f.state = 3#3 → gone.getLsbD f.ochip.toNat = false))

/-- Follows R110, R118, R478, R482: the fall of a link's level takes the link's partners with it: none of them is joined any more, and nothing
waits to be sent to them; the rise of the level sets it. Either change is a demand for the half of the link where it is not AWAKE, or in a
tail. A port that is reset loses its agent and everything it holds but the agent's former index; an enabled one starts its hello again,
which it does at once only where its half has clocks (the model's choice, log 37). -/
def Obligations.LinkLevelsAndPortReset : Prop :=
  (∀ (k : Fin 3) (s : State),
    let woken := fun (m : Mach) => if (halfAt m (fin3Half k)).pw.awake = true ∧ (halfAt m (fin3Half k)).pw.tail = false then m
      else raiseDemand (fin3Half k) m
    ((linkAt s.m k).up = true → exec (.lnkUpFall k) s = .next (settled s
      (departLink s.regs k (woken (modLink k (fun l => { l with up := false }) s.m)))))
    ∧ ((linkAt s.m k).up = false → exec (.lnkUpRise k) s = .next (settled s (woken (modLink k (fun l => { l with up := true }) s.m)))))
  ∧ (∀ (g : Regs) (k : Fin 3) (m : Mach),
    let l := linkAt (departLink g k m) k
    l.hello = Hello.none ∧ l.part = [] ∧ l.sendQ = [] ∧ ∀ c : Fin 4, l.hcr[c] = 0 ∧ l.dcr[c] = 0)
  ∧ (∀ (p : PortIx) (s : State),
    let gone := if isJoined (portAt s.m p).hello = true then departAgent s.regs false p s.m else s.m
    let m := modPort p (fun x => { Port.reset with former := x.idx.or x.former }) gone
    (s.regs.rpEn[p] = false ∨ clocked m (portHalf p) = false → exec (.portReset p) s = .next (settled s m))
    ∧ (s.regs.rpEn[p] = true → clocked m (portHalf p) = true → silenced m (.port p) = false → exec (.portReset p) s = .next (settled s
      (emit (.hello (.port p) 0x6000000000000000) (modPort p (fun x => { x with hello := { x.hello with sent := true } }) m)))))

/-- Follows R237, R240, R241, R248, R251, R566: what the counter unit answers a counter opcode of the owner of its counter, and what becomes of the
counter: an add and a reset let pass the parked WAITs on it that they satisfy, a read answers LANDED, a satisfied WAIT completes, another
one parks unless 4,096 are parked; that a satisfied one completes although 4,096 are parked is the model's choice (log 108). One of an
instance that does not own the counter, and a WAIT of a generation that is not current, is refused with ERR_PERM and logged. -/
def Obligations.CounterUnitActs : Prop :=
  (∀ (g : Regs) (r : Req) (m : Mach), (halfAt m 0).safe = false → ownsCounter g (ctrNum r.addr) r.inst = true →
      tabWf (⟨0, 0⟩ : Counter) m.ctrs = true →
      let c := counterAt m (ctrNum r.addr)
      let added : Counter := ⟨c.landed + r.aux.setWidth 64, c.settled + r.aux.setWidth 64⟩
      let met := decide ((r.aux.extractLsb' 0 31).toNat ≤ (if r.aux.getLsbD 31 then c.settled else c.landed).toNat)
      let becomes := fun (v : Counter) => ∃ t, counterOp g r m = complete r .done 0 t ∧ t = { m with ctrs := t.ctrs, parked := t.parked }
        ∧ (∀ n, counterAt t n = if n = ctrNum r.addr then v else counterAt m n)
        ∧ t.parked = m.parked.map fun q => if ctrNum q.addr = ctrNum r.addr ∧ waitMet t q = true then { q with passed := true } else q
      (r.op = .ctrAdd → becomes added)
      ∧ (r.op = .ctrReset → becomes ⟨0, 0⟩)
      ∧ (r.op = .ctrRead → counterOp g r m = complete r .done (c.landed.setWidth 2048) m)
      ∧ (r.op = .wait → genCurrent g r.inst r.gen = true →
        (met = true → counterOp g r m = complete r .done 0 m)
        ∧ (met = false → m.parked.length < 4096 → g.pfEn = 0 → counterOp g r m = { m with parked := m.parked ++ [r] })
        ∧ (met = false → 4096 ≤ m.parked.length → counterOp g r m = complete r .errOverflow 0 m)))
  ∧ (∀ (g : Regs) (r : Req) (m : Mach), (halfAt m 0).safe = false →
      ownsCounter g (ctrNum r.addr) r.inst = false ∨ (r.op = .wait ∧ genCurrent g r.inst r.gen = false) →
      counterOp g r m = complete r .errPerm 0 (logRefusal (vioSrc r.origin) .errPerm (opcBits r.op) r m))

/-- Follows R246, R248, R252: the front report is applied to its counter; WAITs that an update has let pass leave, oldest first, at most four at a
time. -/
def Obligations.CounterUnitDrains : Prop :=
  ∀ (s : State), clocked s.m 0 = true →
    (∀ x rest, s.m.reports = x :: rest →
      exec .counterReport s = .next (settled s (addCounter x.ctr x.bytes x.landed x.settled { rouse 0 s.m with reports := rest })))
    ∧ (∀ r rest, s.m.parked = r :: rest → r.passed = true → (∀ x ∈ rest, x.passed = false) → (∀ x ∈ rest, x.id ≠ r.id) →
      exec .waitRelease s = .next (settled s (complete r .done 0 { s.m with parked := rest, ctrPtr := nextPtr s.m.ctrPtr r })))
    ∧ (∀ four later, s.m.parked = four ++ later → four.length = 4 → (∀ r ∈ four, r.passed = true) → ((four ++ later).map (·.id)).Nodup →
      exec .waitRelease s = .next (settled s (completeAll four .done 0
        { s.m with parked := later, ctrPtr := four.foldl nextPtr s.m.ctrPtr })))

/-- Follows R177, R183: the range engine visits the next line that a half homes, counting what it skips, and completes when nothing remains. -/
def Obligations.RangeEngineAdvances : Prop :=
  ∀ (s : State), s.m.re.busy = true → s.m.dbg.stopped = false →
    (∀ (h : Half) (i : Nat), s.m.re.stop = false → pinWaits s.m = false → rangeNext s.regs s.m h = some i → clocked s.m h = true →
      let l := rangeLine s.regs i
      let o := rangeOp s.m.re.op
      let m := modHalf h (fun hs => { hs with reNext := i + 1 }) s.m
      exec (.reLineVisit h) s = .next (settled s (if rangeSkips s.regs m h o l then { m with re := { m.re with skip := m.re.skip + 1 } }
        else orderAt s.regs h (rangeReq m.nextId h o l) { m with nextId := m.nextId + 1, re := { m.re with out := m.re.out ++ [m.nextId] } })))
    ∧ (rangeOver s.regs s.m = true →
      exec .reComplete s = .next (settled s { s.m with re := { s.m.re with busy := false, dn := true, writes := [] } }))

/-! ## Sequencers (chapter 11) -/

/-- Follows R356, R357, R365: what an integer instruction leaves in Ad, bit for bit; A0 reads 0 and discards what is written to it. -/
def Obligations.IntegerInstructionsCompute : Prop :=
  (∀ (h k : Half) (s : State) (w : BitVec 32), fetches s h k w →
    let a := regA (seqAt s.m h k) (insA w)
    let b := regA (seqAt s.m h k) (insB w)
    let i := (w.extractLsb' 0 18).signExtend 64
    let n := (w.extractLsb' 0 6).toNat
    let j := (w.extractLsb' 0 10).toNat
    (w.extractLsb' 26 6 = 0x01 → exec (.iNop h k) s = seqAfter s h k fun q => { q with pc := q.pc + 1, skipBp := false })
    ∧ (w.extractLsb' 26 6 = 0x02 → exec (.iMovi h k) s = writesD s h k w i)
    ∧ (w.extractLsb' 26 6 = 0x03 → exec (.iAddi h k) s = writesD s h k w (a + i))
    ∧ (w.extractLsb' 26 6 = 0x04 → exec (.iAdd h k) s = writesD s h k w (a + b))
    ∧ (w.extractLsb' 26 6 = 0x05 → exec (.iSub h k) s = writesD s h k w (a - b))
    ∧ (w.extractLsb' 26 6 = 0x06 → exec (.iAnd h k) s = writesD s h k w (a &&& b))
    ∧ (w.extractLsb' 26 6 = 0x07 → exec (.iOr h k) s = writesD s h k w (a ||| b))
    ∧ (w.extractLsb' 26 6 = 0x08 → exec (.iXor h k) s = writesD s h k w (a ^^^ b))
    ∧ (w.extractLsb' 26 6 = 0x09 → exec (.iShli h k) s = writesD s h k w (a <<< n))
    ∧ (w.extractLsb' 26 6 = 0x0A → exec (.iShri h k) s = writesD s h k w (a >>> n))
    ∧ (w.extractLsb' 26 6 = 0x0B → exec (.iMul h k) s = writesD s h k w (a * b))
    ∧ (w.extractLsb' 26 6 = 0x0C → exec (.iLdp h k) s = writesD s h k w (poolWord s.regs h k (j + 1) ++ poolWord s.regs h k j))
    ∧ (w.extractLsb' 26 6 = 0x2B → exec (.iOpwait h k) s = writesD s h k w (((seqAt s.m h k).d[insSlot w 19])[7].setWidth 64)))
  ∧ (∀ (q : Seq) (v : BitVec 64), regA q 0 = 0 ∧ setA 0 v q = q)
  ∧ (∀ (q : Seq) (r t : Fin 16) (v : BitVec 64), r ≠ 0 → regA (setA r v q) t = if t = r then v else regA q t)

/-- Follows R365: where a branch goes on and what becomes of a loop counter. -/
def Obligations.BranchesAndLoops : Prop :=
  ∀ (h k : Half) (s : State) (w : BitVec 32), fetches s h k w →
    let q := seqAt s.m h k
    let a := regA q (insA w)
    let b := regA q (insB w)
    let go := fun (taken : Bool) => seqAfter s h k fun q => { q with pc := if taken then w.extractLsb' 0 12 else q.pc + 1, skipBp := false }
    let count := fun (v : BitVec 32) (pc : BitVec 12) => seqAfter s h k fun q => { q with c := q.c.set (insC w) v, pc := pc, skipBp := false }
    (w.extractLsb' 26 6 = 0x10 → exec (.iBeq h k) s = go (a == b))
    ∧ (w.extractLsb' 26 6 = 0x11 → exec (.iBne h k) s = go (a != b))
    ∧ (w.extractLsb' 26 6 = 0x12 → exec (.iBltu h k) s = go (decide (a.toNat < b.toNat)))
    ∧ (w.extractLsb' 26 6 = 0x13 → exec (.iJmp h k) s = go true)
    ∧ (w.extractLsb' 26 6 = 0x14 → exec (.iSetc h k) s = count (a.setWidth 32) (q.pc + 1))
    ∧ (w.extractLsb' 26 6 = 0x15 → exec (.iSetci h k) s = count ((w.extractLsb' 0 24).setWidth 32) (q.pc + 1))
    ∧ (w.extractLsb' 26 6 = 0x16 → q.c[insC w] = 0 → exec (.iLoop h k) s = go false)
    ∧ (w.extractLsb' 26 6 = 0x16 → q.c[insC w] = 1 → exec (.iLoop h k) s = count 0 (q.pc + 1))
    ∧ (w.extractLsb' 26 6 = 0x16 → 1 < q.c[insC w].toNat → exec (.iLoop h k) s = count (q.c[insC w] - 1) (w.extractLsb' 0 12))

/-- Follows R366, R371: what the descriptor instructions leave in a slot and in the operation queue. -/
def Obligations.DescriptorInstructionsAct : Prop :=
  ∀ (h k : Half) (s : State) (w : BitVec 32) (inv : Req), fetches s h k w → (seqAt s.m h k).run = some inv →
    let q := seqAt s.m h k
    let i := insSlot w 23
    let a := regA q (insB w)
    let n : Fin 32 := ⟨(w.extractLsb' 18 5).toNat, (w.extractLsb' 18 5).isLt⟩
    let t := 32 * (w.extractLsb' 0 5).toNat
    let put := fun (d : Vector (BitVec 32) 32) => seqAfter s h k fun q => { q with d := q.d.set i d, pc := q.pc + 1, skipBp := false }
    (w.extractLsb' 26 6 = 0x28 → exec (.iDcopy h k) s = put (Vector.ofFn fun (j : Fin 32) => poolWord s.regs h k (t + j.val)))
    ∧ (w.extractLsb' 26 6 = 0x29 → w.extractLsb' 12 2 = 0 → exec (.iDset h k) s = put (q.d[i].set n (a.extractLsb' 0 32)))
    ∧ (w.extractLsb' 26 6 = 0x29 → w.extractLsb' 12 2 = 1 →
        exec (.iDset h k) s = put (q.d[i].set n (q.d[i][n].extractLsb' 20 12 ++ a.extractLsb' 32 20)))
    ∧ (w.extractLsb' 26 6 = 0x29 → w.extractLsb' 12 2 = 2 → exec (.iDset h k) s = put (q.d[i].set n (a.extractLsb' 32 32)))
    ∧ (w.extractLsb' 26 6 = 0x2A →
      let m := modAnv h (fun x => { x with q := x.q.set k (x.q[k] ++ [⟨q.d[i].toList, k, i, inv.inst, inv.gen, inv.label, inv.optag, false⟩]) }) s.m
      let f := fun (q : Seq) => { q with d := q.d.set i (q.d[i].set 7 0), busy := q.busy ||| (1#8 <<< i.val), pc := q.pc + 1, skipBp := false }
      exec (.iIssue h k) s = .next { s with m := modSeq h k f m })

/-- Follows R362, R367 to R370, R374: the instructions that send a request send it and go on behind themselves; a misaligned address faults the
program; FENCE goes on once nothing is outstanding; END stops the program with its code. -/
def Obligations.RequestInstructionsSend : Prop :=
  ∀ (h k : Half) (s : State) (w : BitVec 32), fetches s h k w →
    let q := seqAt s.m h k
    let a := regA q (insA w) + (w.extractLsb' 0 18).signExtend 64
    let r := regA q (insA w)
    let sent := fun (op : Op) (a : BitVec 64) (aux : BitVec 32) (data : BitVec 64) (d : Fin 16) => Host.Outcome.next (settled s
      (modSeq h k (fun q => { q with pc := q.pc + 1, skipBp := false }) (seqSend s.regs h k op a aux data d s.m)))
    (w.extractLsb' 26 6 = 0x18 → a.extractLsb' 0 3 = 0 → exec (.iLd h k) s = sent .rdNc a 0 0 (insD w))
    ∧ (w.extractLsb' 26 6 = 0x19 → a.extractLsb' 0 3 = 0 → exec (.iSt h k) s = sent .wr a 0 (regA q (insD w)) 0)
    ∧ (w.extractLsb' 26 6 = 0x20 → exec (.iCadd h k) s = sent .ctrAdd r ((regA q (insB w)).extractLsb' 0 32) 0 0)
    ∧ (w.extractLsb' 26 6 = 0x21 → exec (.iCwait h k) s = sent .wait r (w.extractLsb' 0 1 ++ (regA q (insB w)).extractLsb' 0 31) 0 0)
    ∧ (w.extractLsb' 26 6 = 0x22 → exec (.iCread h k) s = sent .ctrRead r 0 0 (insD w))
    ∧ (w.extractLsb' 26 6 = 0x23 → exec (.iCrst h k) s = sent .ctrReset r 0 0 0)
    ∧ (w.extractLsb' 26 6 = 0x18 → a.extractLsb' 0 3 ≠ 0 → q.copying = false →
        exec (.iLd h k) s = .next (settled s (faultSeq s.regs h k 2 .errDecode q.pc s.m)))
    ∧ (w.extractLsb' 26 6 = 0x19 → a.extractLsb' 0 3 ≠ 0 → q.copying = false →
        exec (.iSt h k) s = .next (settled s (faultSeq s.regs h k 2 .errDecode q.pc s.m)))
    ∧ (w.extractLsb' 26 6 = 0x1A → exec (.iFence h k) s = seqAfter s h k fun q => { q with pc := q.pc + 1, skipBp := false })
    ∧ (w.extractLsb' 26 6 = 0x3E → exec (.iEnd h k) s = seqAfter s h k fun q => { q with
        stop := some (.ended (Code.ofBits (if w.getLsbD 3 then r.extractLsb' 0 3 else w.extractLsb' 0 3)) (!w.getLsbD 3)) })

/-- Follows R368, R369, R374: a completion reaches its register, or faults its program with the cause of its opcode. -/
def Obligations.ProgramCompletionsArrive : Prop :=
  ∀ (h k : Half) (s : State) (t : Txn) (d : Fin 16) (pc : BitVec 12) (line : Line) (c : Code),
    let q := seqAt s.m h k
    let left := fun (q : Seq) => { q with txns := [], dest := [], cwaitI := if q.cwaitI == some t.req.id then none else q.cwaitI }
    let m := { s.m with unitDone := [] }
    s.m.unitDone = [(t.req, c, line)] → t.req.origin = .seq h k → q.txns = [t] → q.dest = [(t.req.id, d, pc)] →
      (t.req.op = .rdNc → c = .done → exec (.ldComplete h k) s = .next (settled s
        (modSeq h k (fun q => setA d (line.extractLsb' (8 * (t.req.addr.toNat % 256)) 64) (left q)) m)))
      ∧ (t.req.op = .rdNc → c ≠ .done → exec (.ldComplete h k) s = .next (settled s (faultSeq s.regs h k 3 c pc (modSeq h k left m))))
      ∧ (t.req.op = .ctrRead → c = .done → exec (.programReqComplete h k) s = .next (settled s
        (modSeq h k (fun q => setA d (line.extractLsb' 0 64) (left q)) m)))
      ∧ (t.req.op = .wait → c ≠ .done → exec (.programReqComplete h k) s = .next (settled s (faultSeq s.regs h k 4 c pc (modSeq h k left m))))
      ∧ (t.req.op = .wr → c ≠ .done → exec (.programReqComplete h k) s = .next (settled s (faultSeq s.regs h k 3 c pc (modSeq h k left m))))

/-- Follows R359, R360, R362, R374, R375, R381, R440, R523, R532: an invocation that can start is dispatched, with the registers of R360; an
enabled breakpoint halts its program; a reserved opcode, an uncorrectable code word at the fetch, and a NOP at the last address fault it; END
completes the INVOKE once nothing of the program is left, after the copies of the dumps that it fires; a faulted program, once nothing of it
is in flight, has the groups that it opened discarded, then completes its INVOKE with the code of the fault (for an uncorrectable code word,
as for an END that names ERR_DATA itself, with an entry of the loss log, whose CAUSE is free: the model's reading, logs 27 and 112). A halt
that came meanwhile stands then. -/
def Obligations.ProgramsStartAndEnd : Prop :=
  (∀ (h k : Half) (s : State),
    let q := seqAt s.m h k
    let freed := fun (q : Seq) => { q with
      run := none, stop := none, copying := false, halted := false, whyBp := false, skipBp := false, oneStep := false
      opened := [], discs := [], dest := [] }
    (∀ r pc, (halfAt s.m h).safe = false → s.m.dbg.stopped = false → clocked s.m h = true → nextStart s.regs s.m h = some (r, k, pc) →
      exec (.invokeDispatch h) s = .next (settled s (traceEvent s.regs h k 0 pc r.optag (some 3) (modSeq h k (startSeq r pc)
        (modHalf h (fun hs => { hs with iq := hs.iq.erase r }) s.m)))))
    ∧ (issuing s.m h k = true → q.skipBp = false → breakHit s.regs s.m h k = true →
      exec (.breakpointHit h k) s = .next (settled s (traceEvent s.regs h k 3 q.pc (seqOptag q) (some 1)
        (modSeq h k (fun q => { q with halted := true, haltDue := false, whyBp := true, skipBp := false, oneStep := false }) s.m))))
    ∧ (canIssue s.regs s.m h k = true → fetchBad s.m h k = false → insBits (insCode (storeSeen s.regs s.m h k q.pc.toNat)) = none →
      exec (.reservedInstruction h k) s = .next (settled s (faultSeq s.regs h k 0 .errDecode q.pc s.m)))
    ∧ (canIssue s.regs s.m h k = true → fetchBad s.m h k = true → exec (.reservedInstruction h k) s = .next (settled s
      (faultSeq s.regs h k 6 .errData q.pc (progRead s.regs h [storeCode k q.pc.toNat] s.m).2)))
    ∧ (canIssue s.regs s.m h k = true → s.m.ras.errs = [] → storeWord s.regs h k 0xFFF = 0x04000000 → q.pc = 0xFFF → q.oneStep = false →
      s.regs.pfEn = 0 → (halfAt s.m h).trace.act = false → exec (.iNop h k) s = .next (settled s (faultSeq s.regs h k 1 .errDecode 0xFFF
        (modSeq h k (fun q => { q with pc := 0, skipBp := false }) s.m))))
    ∧ (∀ inv c own, q.run = some inv → q.stop = some (.ended c own) → seqIdle q = true → q.copying = false →
      let m := countEnd s.regs h k s.m
      (m.dbg.jobs.length = s.m.dbg.jobs.length → exec (.endComplete h k) s = .next (settled s (endByEnd s.regs h k c own m)))
      ∧ (m.dbg.jobs.length ≠ s.m.dbg.jobs.length → exec (.endComplete h k) s = .next (settled s
        (let y := modSeq h k (fun q => { q with copying := true }) m
         if s.m.dbg.jobs = [] then dumpReads 64 s.regs y else y)))
      ∧ ((∀ i : Fin 8, s.m.dbg.dumps[i].armed = false) → (halfAt s.m h).trace.act = false → exec (.endComplete h k) s = .next (settled s
        (haltIfDue s.regs h k (complete inv c 0 (modSeq h k (fun q => { freed q with ends := q.ends + 1, faultV := false })
          (lossOfProgram h k (own && c == .errData) s.m)))))))
    ∧ (∀ inv cause c pc, q.run = some inv → q.stop = some (.fault cause c pc) → q.txns = [] → q.busy = 0 →
      (q.opened ≠ [] → cause ≠ 7 → exec (.seqFaultComplete h k) s = .next (settled s (issueDiscards h k s.m)))
      ∧ (q.opened = [] ∨ cause = 7 → q.discs = [] → exec (.seqFaultComplete h k) s = .next (settled s
        (haltIfDue s.regs h k (complete inv c 0 (modSeq h k
          (fun q => { freed q with faults := q.faults + 1, faultV := true, fCode := c.bits, fCause := cause, fPc := pc })
          (lossOfProgram h k (cause == 6) s.m))))))))
  ∧ (∀ (r : Req) (pc : BitVec 12) (q : Seq), let q' := startSeq r pc q
    q'.run = some r ∧ q'.pc = pc ∧ regA q' 1 = r.aux.setWidth 64 ∧ regA q' 2 = r.addr.setWidth 64
      ∧ regA q' 3 = (0#30 ++ r.label ++ r.inst ++ r.optag) ∧ (∀ i : Fin 16, i.val = 0 ∨ 3 < i.val → regA q' i = 0)
      ∧ q'.c = Vector.replicate 4 0 ∧ q'.d = Vector.replicate 8 (Vector.replicate 32 0) ∧ q'.busy = 0 ∧ q'.stop = none)

/-! ## The Anvil (chapters 09 and 10) -/

/-- Follows R293 to R296, R298, R301, R303, R310: an operation that passes the checks and waits for nothing leaves its queue, whose turn is then
over, and acts; a DRAIN of a failed group, and DISCARD, close it; an MMA or REDUCE that must wait, if only for its first cycle groups, has its
lines read meanwhile, and one of whose lines a read has failed leaves with that code; an operation that fails a check leaves with the code of
the check in its STATUS, a reserved OP with ERR_DECODE. -/
def Obligations.AnvilOperationsLeaveTheirQueue : Prop :=
  ∀ (h k : Half) (s : State) (o : AOp) (rest : List AOp),
    let m := opTaken s h k rest
    let gr := agroupAt s.m h (opAg o)
    (leavesQueue s h k o rest 0 → exec (.aOpen h k) s = .next (settled s (openOp s.regs h o m)))
    ∧ (leavesQueue s h k o rest 1 → exec (.aMma h k) s = .next (settled s (macOp s.regs h o m)))
    ∧ (leavesQueue s h k o rest 2 → exec (.aReduce h k) s = .next (settled s (macOp s.regs h o m)))
    ∧ (leavesQueue s h k o rest 3 → gr.fail = none → exec (.aDrain h k) s = .next (settled s (startDrainOp s.regs h o m)))
    ∧ (∀ c, leavesQueue s h k o rest 3 → gr.fail = some c → exec (.aDrain h k) s = .next (settled s (forgetOpened h o (writeStatus h o
        (statusWord c ||| rerunField gr.s ||| statusFlags gr.ovf gr.wrap false 0) (closeAGroup h (opAg o) m)))))
    ∧ (leavesQueue s h k o rest 4 → exec (.aDiscard h k) s = .next (settled s
        (forgetOpened h o (writeStatus h o (statusWord .done ||| rerunField gr.s) (closeAGroup h (opAg o) m)))))
    ∧ (queueHeld s.regs s.m h k = false → clocked s.m h = true → (anvAt s.m h).q[k] = o :: rest →
      let bads := ∃ x c, (anvAt s.m h).ahead[k] = some x ∧ x.bad = some c
      (opRefusal s.m h o = none → ¬ bads → opWaits s.m h o = true ∨ entryReady s.m h k o = false →
        (opOp o = 1 → exec (.aMma h k) s = .next (settled s (feedAhead s.regs h k o s.m)))
        ∧ (opOp o = 2 → exec (.aReduce h k) s = .next (settled s (feedAhead s.regs h k o s.m))))
      ∧ (∀ x c, opRefusal s.m h o = none → (anvAt s.m h).ahead[k] = some x → x.bad = some c →
        (opOp o = 1 → exec (.aMma h k) s = .next (settled s (headFails h k x c s.m)))
        ∧ (opOp o = 2 → exec (.aReduce h k) s = .next (settled s (headFails h k x c s.m))))
      ∧ (∀ c, opRefusal s.m h o = some c →
        let gone := .next (settled s (refuseOp h o c (dropAhead h k (modAnv h (fun a => { a with q := a.q.set k rest }) s.m))))
        (opOp o = 0 → exec (.aOpen h k) s = gone) ∧ (opOp o = 1 → exec (.aMma h k) s = gone) ∧ (opOp o = 2 → exec (.aReduce h k) s = gone)
          ∧ (opOp o = 3 → exec (.aDrain h k) s = gone) ∧ (opOp o = 4 → exec (.aDiscard h k) s = gone)
          ∧ (4 < opOp o → exec (.reservedAnvilOp h k) s = gone)))
    ∧ ((halfAt s.m h).safe = false → 4 < opOp o → opRefusal s.m h o = some .errDecode)

/-- Follows R295: the group that an OPEN leaves, and the STATUS of the OPEN. -/
def Obligations.OpenSeatsItsGroup : Prop :=
  ∀ (g : Regs) (h : Half) (o : AOp) (m : Mach), o.clean = false → opOp o = 0 →
    let t := openOp g h o m
    let gr := agroupAt t h (opAg o)
    gr.isOpen = true ∧ gr.inst = o.inst ∧ gr.k = 0 ∧ gr.s = 0 ∧ gr.fail = none ∧ gr.seated = true ∧ gr.w0 = opWord o 0 ∧ gr.w2 = opWord o 2
      ∧ ((seqAt t h o.seq).d[o.slot])[7] = 0x10000000 ∧ (seqAt t h o.seq).busy.getLsbD o.slot.val = false

/-- Follows R293, R301, R303, R305, R307, R313, R315: what an operation goes through until its STATUS: a feed read brings its line to the operation
that awaits it, or fails it, and a line that none awaits any more is dropped; it spills, it runs again after an overflow, it leaves the adder
tree; a drain ends with its last write. -/
def Obligations.AnvilOperationsComplete : Prop :=
  ∀ (h : Half) (s : State) (r : Req) (c : Code) (d : Line),
    (∀ b, s.m.unitDone = [(r, c, d)] → r.origin = .feed h b →
      let m := modAnv h (fun a => { a with feedOut := a.feedOut.filter fun y => y.1 != r.id }) { s.m with unitDone := [] }
      (∀ w x, feederOf (anvAt s.m h) r.id = some (w, x) → isDone c = true →
        exec (.feedReadComplete h) s = .next (settled s (macGo s.regs h (setFeeder h w (some (takeLine x r d)) m))))
      ∧ (∀ x, feederOf (anvAt s.m h) r.id = some (none, x) → isDone c = false →
        exec (.feedReadComplete h) s = .next (settled s (feedMore s.regs h (macFail h x c m))))
      ∧ (∀ k x, feederOf (anvAt s.m h) r.id = some (some k, x) → isDone c = false →
        exec (.feedReadComplete h) s = .next (settled s (feedMore s.regs h (aheadFails s.regs h k (takeAwait x r) c m))))
      ∧ (feederOf (anvAt s.m h) r.id = none → exec (.feedReadComplete h) s = .next (settled s (feedMore s.regs h m))))
    ∧ (∀ x, (anvAt s.m h).mac = some x → x.st = .spill → clocked s.m h = true →
      exec (.anvilSpill h) s = .next (settled s (spillNow s.regs h x s.m)))
    ∧ (∀ x ck, (anvAt s.m h).mac = some x → (anvAt s.m h).ck = some ck → x.st = .overflow → clocked s.m h = true →
      exec (.anvilOverflow h) s = .next (settled s (rerun s.regs h x ck s.m)))
    ∧ (∀ x rest, (anvAt s.m h).tree = x :: rest →
      exec (.anvilOpComplete h) s = .next (settled s (writeStatus h x.op x.word (modAnv h (fun a => { a with tree := rest }) s.m))))
    ∧ (∀ x, s.m.unitDone = [(r, c, d)] → r.origin = .drain h → (anvAt s.m h).drn = some x → x.await = [r.id] → x.left = [] → isDone c = true →
      exec (.drainWriteComplete h) s = .next (settled s (drainEnd h { x with await := [] } { s.m with unitDone := [] })))

/-- Follows R284, R285: in every shape each role of each cell holds the band of one output, and that output's band stands in that cell and role. -/
def Obligations.OutputsHaveTheirCells : Prop :=
  ∀ (shape i j role : Nat), shape ≤ 4 → i < 32 → j < 32 → role < shapeSlots shape →
    let p := placeOut shape i j role
    p.1 < (shapeDims shape).1 ∧ p.2.1 < (shapeDims shape).2 ∧ p.2.2 < shapeBands shape ∧ outPlace shape p.1 p.2.1 p.2.2 = (i, j, role)

/-! ## Error protection (chapter 14) -/

/-- Follows R438, R439, R454, Tables 14.1 and 14.6: a stored code word with one flipped bit reads back corrected, and one with two flipped bits
reads as uncorrectable; what is read depends on the flipped positions alone. The three copies of a structure word are voted: two that agree
give the word, one that alone can be read gives it, anything else none; the vote of a half is taken. -/
def Obligations.StoredWordsAreCorrectedAndVoted : Prop :=
  (∀ (d : BitVec 256) (mask : CodeWord), syndrome (eccEncode d ^^^ mask) = syndrome mask ∧ parityP (eccEncode d ^^^ mask) = parityP mask)
  ∧ eccRead 0 = .clean 0
  ∧ (∀ i : Fin 266, ∃ r, eccRead (1#266 <<< i.val) = .corrected r ∧ r = 0)
  ∧ (∀ i j : Fin 266, i ≠ j → eccRead ((1#266 <<< i.val) ^^^ (1#266 <<< j.val)) = .bad)
  ∧ (∀ (x : BitVec 32) (c : Option (BitVec 32)), vote (some x) (some x) c = some x ∧ vote (some x) c (some x) = some x ∧ vote c (some x) (some x) = some x)
  ∧ (∀ x y z : BitVec 32, x ≠ y → x ≠ z → y ≠ z → vote (some x) (some y) (some z) = none)
  ∧ (∀ x y : BitVec 32, x ≠ y → vote (some x) (some y) none = none ∧ vote (some x) none (some y) = none ∧ vote none (some x) (some y) = none)
  ∧ (∀ x : BitVec 32, vote (some x) none none = some x ∧ vote none (some x) none = some x ∧ vote none none (some x) = some x)
  ∧ vote none none none = none
  ∧ (∀ (h : Half) (s : State), clocked s.m h = true → voteNeeded s.m h = true →
      exec (.structVote h) s = .next (settled s (voteHalf s.regs h s.m)))

/-- Follows R165, R441, R459 to R462, R464: what error protection and the sweep do by themselves. The oldest corrected word is written back and
stands to be read again (what is written is the model's choice, log 56); the re-read acts on what it shows, and an error in a frame makes the frame hard-failing, which with AUTO takes a
free remap entry; a remap copies its next code word, and after the eighth its entry is swapped in or out (when a copy starts, and which word is
its next, are the model's choice, log 40); a Quench pass reads and counts its
next word, and ends behind its last; a sweep passes a frame that may stay, evicts one that may not where it can leave, and ends behind its
last way. -/
def Obligations.ProtectionWorksOn : Prop :=
  (∀ (h : Half) (s : State), clocked s.m h = true →
    let hs := halfAt s.m h
    (∀ a i rest, hs.wback = (a, i) :: rest → exec (.eccWriteback h) s = .next (settled s
      (let m := modHalf h (fun x => { x with wback := rest, recheck := x.recheck ++ [(a, i)] }) s.m
       let left := eccEncode (leftOf (errMask m a h i))
       let t := if a = .structs then setErr a h i 0 m else noteWrite s.regs a h i m
       setErr a h i (errMask t a h i ^^^ left) t)))
    ∧ (∀ a i rest, hs.recheck = (a, i) :: rest →
      let m := scanWord s.regs h a i (modHalf h (fun x => { x with recheck := rest }) s.m)
      (scanKind s.m a h i = 0 ∨ a ≠ .frames → exec (.eccRecheck h) s = .next (settled s m))
      ∧ (∀ set way, scanKind s.m a h i ≠ 0 → a = .frames → hs.rcopy = none → framePlace (halfAt m h) i = some (set, way) →
        exec (.eccRecheck h) s = .next (settled s (hardFail s.regs h i set way m))))
    ∧ (∀ c, hs.rcopy = some c → c.word < 8 → exec (.remapCopy h) s = .next (settled s (copyWord s.regs h c c.word
        (modHalf h (fun x => { x with rcopy := some { c with word := c.word + 1 } }) s.m))))
    ∧ (∀ c, hs.rcopy = some c → 8 ≤ c.word →
      let free : Remap := ⟨false, false, 0, 0⟩
      let swapped := if c.clear then free else ⟨true, c.auto, c.way, c.set⟩
      exec (.remapCopy h) s = .next (settled s (modHalf h (fun x => { x with
        rcopy := none, remap := tabSet free x.remap c.entry swapped
        qn := if c.pass then { x.qn with rmap := x.qn.rmap + 1 } else x.qn }) s.m)))
    ∧ (hs.qn.busy = true → s.m.dbg.stopped = false →
      (quenchNext 8200 s.regs s.m h hs.qn.set.toNat hs.qn.step = none →
        exec (.quenchRead h) s = .next (settled s (endQuench h 0 s.m)))
      ∧ (∀ set step v i, quenchNext 8200 s.regs s.m h hs.qn.set.toNat hs.qn.step = some (set, step, v) → v.idx = some i →
        let m := scanWord s.regs h v.arr i (modHalf h (fun x => { x with
          qn := quenchCount v (scanKind s.m v.arr h i) { x.qn with set := BitVec.ofNat 13 set, step := step + 1 } }) s.m)
        exec (.quenchRead h) s = .next (settled s (if quenchNext 8200 s.regs m h set (step + 1) = none then endQuench h 0 m else m))))
    ∧ (hs.sweep.run = true →
      (wayFrom hs.sweep.ways hs.sweep.way = none →
        exec (.sweepFrame h) s = .next (settled s (modHalf h (fun x => { x with sweep := ⟨false, 0, 0, 0⟩ }) s.m)))
      ∧ (∀ w, wayFrom hs.sweep.ways hs.sweep.way = some w →
        let set := BitVec.ofNat 13 hs.sweep.set
        let go := modHalf h (fun x => { x with sweep := sweepAdvance hs.sweep w })
        let m1 := readTag s.regs h set (w / 2) s.m
        let m := emptyFrame s.regs h set w m1
        (sweepEvicts s.regs h w (frameAt (halfAt m1 h) set w) = false → exec (.sweepFrame h) s = .next (settled s (go m1)))
        ∧ (sweepEvicts s.regs h w (frameAt (halfAt m1 h) set w) = true → frameBusy (halfAt m h) set w = false →
          isFree (frameAt (halfAt m h) set w) = false → isFree (frameAt (halfAt (evictFrame s.regs h set w m) h) set w) = true →
          exec (.sweepFrame h) s = .next (settled s (go (evictFrame s.regs h set w m)))))))
  ∧ (∀ (g : Regs) (h : Half) (i set way e : Nat) (m : Mach), g.rasAuto = true → freeRemap (halfAt m h) = some e →
    remapOf (halfAt m h) set way = none →
      hardFail g h i set way m = modHalf h (fun x => { x with
        rcopy := some ⟨e, false, true, BitVec.ofNat 5 way, BitVec.ofNat 13 set, 0, x.qn.found.contains (.frames, i)⟩ }) m)

/-! ## Power, resets and start-up (chapters 12 and 15) -/

/-- Follows R475, R477 to R481, R483, R484: the power events of a half, each where it can happen; before step 12 of a start has ended, and after
a failed one, no half stops, enters RET or takes a demand. -/
def Obligations.PowerEventsHappen : Prop :=
  ∀ (h : Half) (s : State), calm s.m = true →
    let x := (halfAt s.m h).pw
    let go := fun (y : Power) => Host.Outcome.next { s with m := modHalf h (fun hs => { hs with pw := y }) s.m }
    (s.regs.holdclk = false → managed s.m = true → x.awake = true → quiet s.m h = true →
      exec (.stopIdleExpiry h) s = go { x with awake := false, tail := true })
    ∧ (s.regs.holdclk = true ∨ managed s.m = false → exec (.stopIdleExpiry h) s = .next s)
    ∧ (managed s.m = false → exec (.retEntry h) s = .next s ∧ exec (.demandSample h) s = .next s)
    ∧ (x.tail = true → exec (.stopTailExpiry h) s = go { x with tail := false, ckreq := false, ckack := false })
    ∧ (s.regs.reten = true → managed s.m = true → x.preq = 3 → x.pack = true → x.ckreq = false → x.awake = false → x.tail = false →
      x.demand = false → exec (.retEntry h) s = go { x with preq := 1, pack := false })
    ∧ (managed s.m = true → x.demand = true → x.preq = 3 → x.pack = true → x.ckreq = false → x.awake = false → x.tail = false →
      exec (.demandSample h) s = go { x with ckreq := true, demand := false })
    ∧ (managed s.m = true → x.demand = true → x.preq = 1 → x.pack = true → exec (.demandSample h) s = go { x with preq := 3, pack := false, demand := false })
    ∧ (x.pack = false → x.preq = 1 → exec (.packRise h) s = go { x with pack := true, inRet := true })
    ∧ (x.pack = false → x.preq = 3 → exec (.packRise h) s = go { x with pack := true, pto := false, ckreq := x.ckreq || managed s.m })
    ∧ ((s.m.jrn.run || s.m.jrn.ready) = true → x.ckreq = true → x.ckack = false → exec (.ckackRise h) s = go { x with ckack := true, ramp := true })
    ∧ (x.preq = 3 → x.pack = false → exec (.packTimeout h) s = go { x with pto := true })
    ∧ (x.ramp = true → s.m.mg.q = [] → (∀ k : Fin 3, fin3Half k = h → (linkAt s.m k).sendQ = []) →
      exec (.clockStartDone h) s = go { x with ramp := false, awake := true, inRet := false, demand := false })

/-- Follows R10, R482, R519, R520, R548: power-on reset clears every register; block reset gives every register its Reset column but those of the
power and journal registers, and of what moves by itself keeps the journal, TS, the latch and SYNCS, and the guard and the accesses of the
management port (the model's reading, log 38). -/
def Obligations.ResetsClear : Prop :=
  ∀ (s : State),
    (∃ t, exec .powerOnReset s = .next t ∧ t.regs = Regs.reset ∧ t.pending = s.pending ∧ t.m = { Mach.reset with
        nextId := s.m.nextId, freeCtr := s.m.freeCtr, out := s.m.out, links := t.m.links }
      ∧ ∀ k : Fin 3, linkAt t.m k = { Link.reset with up := (linkAt s.m k).up })
    ∧ (∃ t, exec .blockReset s = .next t ∧ t.pending = s.pending
      ∧ t.m = { Mach.reset with
        nextId := s.m.nextId, freeCtr := s.m.freeCtr, out := s.m.out, links := t.m.links, jrn := { s.m.jrn with run := false }
        dbg := { Dbg.reset with
          ts := s.m.dbg.ts, latch := s.m.dbg.latch, syncs := s.m.dbg.syncs, tick := s.m.dbg.tick, lastP := s.m.dbg.lastP }
        mg := { Mgmt.reset with q := s.m.mg.q, guard := s.m.mg.guard, fails := s.m.mg.fails, last := s.m.mg.last } }
      ∧ (∀ k : Fin 3, linkAt t.m k = { Link.reset with up := (linkAt s.m k).up })
      ∧ t.regs = { Regs.reset with
        holdclk := s.regs.holdclk, reten := s.regs.reten, iePto := s.regs.iePto, retidle := s.regs.retidle, stopidle := s.regs.stopidle
        jrnIe := s.regs.jrnIe, jrnSteps := s.regs.jrnSteps })

/-- The values that the register tables give after power-on reset (R483, R489, R519, R554, R555, R557; Tables 15.8, 18.4 to 18.8). -/
def Obligations.ResetValuesOfTheTables : Prop :=
  let s := State.reset
  s.pending = [] ∧ s.regs.holdclk = false ∧ s.regs.reten = false ∧ s.regs.retidle = 250 ∧ s.regs.stopidle = 256
    ∧ s.regs.indInc = true ∧ s.regs.indAddr = 0 ∧ s.m.mg.fails = 0 ∧ s.m.mg.last = 0 ∧ s.m.mg.valid = false ∧ s.m.mg.pend = false
    ∧ s.m.mg.lo = 0 ∧ s.m.mg.hi = 0 ∧ s.m.dbg.ts = 0 ∧ s.m.jrn.run = false ∧ s.m.img.loaded = false
    ∧ regRead s.regs s.m 0 = 0x53590301 ∧ regRead s.regs s.m 4 = 0x02184010 ∧ s.regs.svcReg = true ∧ s.regs.svcOrder = true
    ∧ (∀ h : Half, s.regs.hc[h].depth = 4 ∧ s.regs.hc[h].nage = 1 ∧ s.regs.hc[h].pfage = 2)

/-- Follows R396, R483 to R487: the journal starts with the straps; a step that succeeds writes its record and the next one starts; a failure ends the
start; a remote link missing at the limit of step 10 does not; READY rises with step 12. A load that found a failure keeps its RESULT and
line, and one that found none applies the image. -/
def Obligations.JournalRunsTheStart : Prop :=
  ∀ (s : State), calm s.m = true → s.m.mg.q = [] →
    let j := s.m.jrn
    (∀ st, j.run = false → (∀ h : Half, (halfAt s.m h).pw.preq = 0) → ∃ t, exec (.journalStart st) s = .next t
      ∧ t.regs = s.regs ∧ t.m = { s.m with jrn := t.m.jrn } ∧ t.m.jrn.run = true ∧ t.m.jrn.step = 1 ∧ t.m.jrn.ready = false ∧ t.m.jrn.dn = false
      ∧ t.m.jrn.starts = j.starts + 1 ∧ t.m.jrn.tmode = st.tmode ∧ t.m.jrn.die = st.die ∧ t.m.jrn.pos = st.pos ∧ t.m.jrn.boota = st.boota
      ∧ (jrnRec t.m.jrn 1).state = 1 ∧ (∀ k, 2 ≤ k → k ≤ 12 → (jrnRec j k).state ≠ 1 → jrnRec t.m.jrn k = jrnRec j k))
    ∧ (∀ o : StepEnd, j.run = true → j.step = 1 → j.tmode = false → o.ok = true → ∃ t, exec (.journalStepEnd o) s = .next t
      ∧ t.m.jrn.run = true ∧ t.m.jrn.step = 2 ∧ (jrnRec t.m.jrn 1).state = 2 ∧ (jrnRec t.m.jrn 1).fails = 0 ∧ (jrnRec t.m.jrn 1).ticks = o.ticks
      ∧ (jrnRec t.m.jrn 2).state = 1 ∧ (∀ h : Half, (halfAt t.m h).pw.preq = 3 ∧ (halfAt t.m h).pw.pack = false))
    ∧ (∀ o : StepEnd, j.run = true → j.step = 1 → j.tmode = true → ∃ t, exec (.journalStepEnd o) s = .next t
      ∧ t.m.jrn.run = false ∧ t.m.jrn.dn = true ∧ t.m.jrn.ready = false ∧ (jrnRec t.m.jrn 1).state = 3)
    ∧ (∀ o : StepEnd, j.run = true → j.step = 10 → o.ok = false → j.missX = false → isJoined (linkAt s.m 2).hello = false →
      ∃ t, exec (.journalStepEnd o) s = .next t ∧ t.m.jrn.run = true ∧ t.m.jrn.step = 11 ∧ t.m.jrn.missX = true
        ∧ (jrnRec t.m.jrn 10).state = 5 ∧ (jrnRec t.m.jrn 11).state = 1)
    ∧ (∀ o : StepEnd, j.run = true → j.step = 12 → o.ok = true → ∃ t, exec (.journalStepEnd o) s = .next t
      ∧ t.m.jrn.run = false ∧ t.m.jrn.ready = true ∧ t.m.jrn.dn = true ∧ (jrnRec t.m.jrn 12).state = 2)
    ∧ (∀ ld c n, s.m.img.load = some ld → ld.await = 0 → s.m.ras.errs = [] → ld.failed = some (c, n) → exec .imageLoadEnd s = .next { s with m := { s.m with
        img := { s.m.img with result := BitVec.ofNat 4 c, line := BitVec.ofNat 11 n, load := none } } })
    ∧ (∀ ld, s.m.img.load = some ld → ld.await = 0 → s.m.ras.errs = [] → ld.failed = none → imageFailure ld.lines s.m = none → ∃ t, exec .imageLoadEnd s = .next t
      ∧ t = rest s (onMach (fun _ m => loadDone ld m) (applyImage ld.lines (s.regs, s.m))) ∧ t.regs.shadow = t.regs.live
      ∧ t.regs.store = tabOf 0 16384 (fun i => secWord ld.lines typePROGRAMS (1024 + i))
      ∧ t.regs.pool = tabOf 0 4096 (fun i => secWord ld.lines typePROGRAMS (17408 + i)))

/-! ## Service, instances and debug (chapters 13, 16 and 17) -/

/-- Follows R413, R416, R424, R499, R511: an instance command ends when nothing of the instance's work remains, or its record has moved; a logger
OR that fails is counted; the copy of the label table goes on context by context; a class bucket gains GRD; a refill adds RATE to the level
of every enabled label that has one, up to BURST, and leaves a level at or above BURST. -/
def Obligations.ServiceAndInstancesGoOn : Prop :=
  (∀ (s : State) (j : ViCmd), s.m.vi.job = some j →
    let ended := fun (result : BitVec 3) => exec .viCmdDone s = .next (settled s { s.m with vi := { s.m.vi with
      busy := false, result := result, job := none } })
    (j.cmd = 1 → workLeft s.m j.inst (some j.gen) = false → ended 0)
    ∧ (j.cmd = 2 → workLeft s.m j.inst none = false → ended 0)
    ∧ (j.cmd = 1 → workLeft s.m j.inst (some j.gen) = true → exec .viCmdDone s = .next (settled s s.m))
    ∧ (∀ r, 4 ≤ j.cmd.toNat → j.await = [] → j.fail = some r → ended r)
    ∧ (j.cmd = 5 → j.await = [] → j.fail = none → j.len ≤ j.next → recordSound j.lines = false → ∃ m, exec .viCmdDone s = .next (settled s m)
      ∧ m.vi.busy = false ∧ m.vi.result = 2 ∧ m = { s.m with vi := m.vi }))
  ∧ (∀ (s : State) (r : Req) (c : Code) (d : Line), s.m.unitDone = [(r, c, d)] → r.origin = .logger →
      exec .dlOrComplete s = .next (settled s { s.m with unitDone := [], vi := { s.m.vi with
        orsOut := s.m.vi.orsOut.filter (· != r.id), fails := if c = .done then s.m.vi.fails else s.m.vi.fails + 1 } }))
  ∧ (∀ s : State, s.m.svc.copy = true → s.m.svc.copyAt < 4096 → CanonicalStores s.regs → ∃ t, exec .labelShadowCopy s = .next t
      ∧ (∀ i, tabGet LabelCtx.off t.regs.shadow i = if i = s.m.svc.copyAt then tabGet LabelCtx.off s.regs.live i
          else tabGet LabelCtx.off s.regs.shadow i)
      ∧ t.m = { s.m with svc := { s.m.svc with copyAt := s.m.svc.copyAt + 1, copy := decide (s.m.svc.copyAt < 4095) } }
      ∧ t.regs = { s.regs with shadow := t.regs.shadow })
  ∧ (∀ (h : Half) (s : State), calm s.m = true → s.regs.svcOrder = false → tabWf (0 : Int) (chanAt s.m h).bucket = true →
      ∃ ch, exec (.classBucketRefill h) s = .next { s with m := modChan h (fun _ => ch) s.m } ∧ ch = { chanAt s.m h with bucket := ch.bucket }
        ∧ (∀ k : Fin 16, tabGet 0 ch.bucket k.val = if s.regs.cls[k].kind = 1
            then min 0 (tabGet 0 (chanAt s.m h).bucket k.val + s.regs.cls[k].grd.toNat) else tabGet 0 (chanAt s.m h).bucket k.val))
  ∧ (∀ (s : State), s.regs.svcReg = true → CanonicalStores s.regs → tabWf (0 : Int) s.m.svc.level = true → calm s.m = true →
        ∃ t, exec .bucketRefill s = .next t ∧ t.regs = s.regs ∧
          (∀ l : BitVec 12, levelOf t.m l =
            let c := labelCtx s.regs l
            let v := levelOf s.m l
            if c.en = true ∧ c.rate ≠ 0 ∧ v < (c.burst.toNat : Int) then min (c.burst.toNat : Int) (v + c.rate.toNat) else v)
          ∧ t.m = { s.m with svc := { s.m.svc with level := t.m.svc.level } })

/-- Follows R119, R519 to R522, R528, R530, R533: what the debug unit does with a reference tick, an accepted pulse and one that comes too soon, a probe
and its answer (that an entry whose V falls keeps its RTT and OFFSET is the model's choice, log 81), a full trace, a core cycle, a dump that is copied. -/
def Obligations.DebugUnitsGoOn : Prop :=
  ∀ (s : State),
    let d := s.m.dbg
    (∃ t, exec .timestampTick s = .next t ∧ t.regs = s.regs ∧ t.m.dbg = { d with ts := d.ts + 40, tick := d.tick + 1 }
      ∧ ∀ h : Half, halfAt t.m h = { halfAt s.m h with sub := 0 })
    ∧ (pulseAccepted d = true → d.pend = false → exec .syncPulse s = .next { s with m := { s.m with dbg := { d with
        latch := d.ts, syncs := d.syncs + 1, lastP := some d.tick, ts := if d.tsArm then s.regs.tsNext else d.ts, tsArm := false } } })
    ∧ (pulseAccepted d = true → d.pend = true → ∃ t, exec .syncPulse s = .next t ∧ t.m.dbg.stopped = true ∧ t.m.dbg.pend = false
      ∧ t.m.dbg.latch = d.ts ∧ t.m.dbg.syncs = d.syncs + 1)
    ∧ (pulseAccepted d = false → exec .syncPulse s = .next s)
    ∧ (∀ p t1, canHear s 2 p → exec (.tsProbeRequest p t1) s =
        .next (settled s (sendTo 2 p (.probe p true (stampOf s.m 0) 0) (takeMsg 2 3 0 s.m))))
    ∧ (∀ p t2 dt x, canHear s 2 p → d.meas = some x → x.pkg = p → x.sent < 8 →
      let r := probeResult x.t1 t2 (stampOf s.m 0) dt
      let y := { x with best := betterProbe x.best r.1 r.2, sent := x.sent + 1 }
      exec (.tsProbeReply p t2 dt) s = .next (settled s (sendProbe p { takeMsg 2 3 0 s.m with dbg := { d with meas := some y } })))
    ∧ (∀ x, d.meas = some x → x.sent = 8 → x.best = none → d.measQ = [] → tabWf Offset.none d.offs = true → calm s.m = true →
      ∃ t, exec .probeTimeout s = .next t ∧ t.m = { s.m with dbg := { d with meas := none, offs := t.m.dbg.offs } }
        ∧ tabGet Offset.none t.m.dbg.offs x.pkg.toNat = { tabGet Offset.none d.offs x.pkg.toNat with v := false }
        ∧ ∀ i, i ≠ x.pkg.toNat → tabGet Offset.none t.m.dbg.offs i = tabGet Offset.none d.offs i)
    ∧ (∀ h : Half, (halfAt s.m h).trace.act = true → (halfAt s.m h).trace.trgd = true → (halfAt s.m h).trace.left = 0 →
      (halfAt s.m h).trace.queue = [] →
      let ended : Trace := { (halfAt s.m h).trace with act := false, dn := true }
      exec (.traceCaptureEnd h) s = .next { s with m := modHalf h (fun x => { x with trace := ended }) s.m })
    ∧ (∀ (h : Half) (k : Fin 64), clocked s.m h = true → profRuns s.regs s.m h = true → tabWf 0 (halfAt s.m h).prof = true →
      (∀ p, heldOn (portAt s.m p) = []) → stageOp (anvAt s.m h) = none →
      ∃ t, exec (.profilingCycle h) s = .next t ∧ (halfAt t.m h).cycle = (halfAt s.m h).cycle + 1
        ∧ ((profCfg s.regs h k.val).evt = 0 → (profCfg s.regs h k.val).lmode = 0 → (profCfg s.regs h k.val).omask = 0 →
          tabGet 0 (halfAt t.m h).prof k.val = tabGet 0 (halfAt s.m h).prof k.val + 1)
        ∧ ((profCfg s.regs h k.val).evt ≠ 0 → tabGet 0 (halfAt t.m h).prof k.val = tabGet 0 (halfAt s.m h).prof k.val))
    ∧ (∀ j c own, d.jobs = [j] → dumpOver j = true → (seqAt s.m j.seq.1 j.seq.2).stop = some (.ended c own) →
      let ended := fun (x : DumpSt) =>
        { x with armed := false, dn := true, code := if j.code = .done then 0 else j.code.bits, lines := BitVec.ofNat 17 j.copied }
      exec .dumpCopyDone s = .next (settled s
        (endByEnd s.regs j.seq.1 j.seq.2 c own (modDump j.k ended { s.m with dbg := { d with jobs := [] } }))))
end

