-- ==== Sys2Proof/Laws/Sparse.lean ====
section
/-!
SUPPORT. The sparse tables: a read after a write, and the canonical form (`tabWf`) that every operation keeps.
-/

namespace Sys2Proof.Machine

variable {α : Type} [DecidableEq α] {d : α}

theorem tabWfFrom_cons {lo j : Nat} {v : α} {r : Tab α} :
    tabWfFrom d lo ((j, v) :: r) = true ↔ lo ≤ j ∧ v ≠ d ∧ tabWfFrom d (j + 1) r = true := by
  simp only [tabWfFrom, Bool.and_eq_true, decide_eq_true_eq, and_assoc]

theorem tabWfFrom_mono {lo lo' : Nat} {t : Tab α} (h : tabWfFrom d lo t = true) (hl : lo' ≤ lo) : tabWfFrom d lo' t = true := by
  cases t with
  | nil => rfl
  | cons x r => exact tabWfFrom_cons.mpr ⟨Nat.le_trans hl (tabWfFrom_cons.mp h).1, (tabWfFrom_cons.mp h).2⟩

/-- Writing an entry keeps the canonical form. -/
theorem tabSet_wfFrom {lo : Nat} {t : Tab α} (h : tabWfFrom d lo t = true) (k : Nat) (hk : lo ≤ k) (v : α) :
    tabWfFrom d lo (tabSet d t k v) = true := by
  induction t generalizing lo with
  | nil =>
    simp only [tabSet]
    split
    · rfl
    · rename_i hv; exact tabWfFrom_cons.mpr ⟨hk, hv, rfl⟩
  | cons x r ih =>
    obtain ⟨j, w⟩ := x
    have h' := tabWfFrom_cons.mp h
    simp only [tabSet]
    split
    · rename_i e
      have e := eq_of_beq e
      subst e
      split
      · exact tabWfFrom_mono h'.2.2 (by omega)
      · rename_i hv; exact tabWfFrom_cons.mpr ⟨hk, hv, h'.2.2⟩
    · rename_i e
      have e : k ≠ j := by simpa using e
      split
      · rename_i hlt
        split
        · exact h
        · rename_i hv; exact tabWfFrom_cons.mpr ⟨hk, hv, tabWfFrom_cons.mpr ⟨hlt, h'.2⟩⟩
      · rename_i hlt
        exact tabWfFrom_cons.mpr ⟨h'.1, h'.2.1, ih h'.2.2 (by omega)⟩

theorem tabSet_wf {t : Tab α} (h : tabWf d t = true) (k : Nat) (v : α) : tabWf d (tabSet d t k v) = true :=
  tabSet_wfFrom h k (Nat.zero_le k) v

theorem tabMod_wf {t : Tab α} (h : tabWf d t = true) (k : Nat) (f : α → α) : tabWf d (tabMod d t k f) = true := tabSet_wf h k _

/-- A read below the least key gives the default. -/
theorem tabGet_low {lo k : Nat} {t : Tab α} (h : tabWfFrom d lo t = true) (hk : k < lo) : tabGet d t k = d := by
  cases t with
  | nil => rfl
  | cons x r =>
    obtain ⟨j, w⟩ := x
    have h' := tabWfFrom_cons.mp h
    have e : (k == j) = false := by simp; omega
    simp only [tabGet, e, Bool.false_eq_true, if_false, if_pos (show k < j by omega)]

/-- A read after a write to the same key gives what was written. -/
theorem tabGet_tabSet_same {lo : Nat} {t : Tab α} (h : tabWfFrom d lo t = true) (k : Nat) (v : α) : tabGet d (tabSet d t k v) k = v := by
  induction t generalizing lo with
  | nil =>
    simp only [tabSet]
    split
    · rename_i hv; simp [tabGet, hv]
    · simp [tabGet]
  | cons x r ih =>
    obtain ⟨j, w⟩ := x
    have h' := tabWfFrom_cons.mp h
    simp only [tabSet]
    split
    · rename_i e
      have e := eq_of_beq e
      subst e
      split
      · rename_i hv; rw [hv]; exact tabGet_low h'.2.2 (Nat.lt_succ_self k)
      · simp [tabGet]
    · rename_i e
      have e' : k ≠ j := by simpa using e
      split
      · rename_i hlt
        split
        · rename_i hv; simp [tabGet, e', hlt, hv]
        · simp [tabGet]
      · rename_i hlt
        simp only [tabGet, e, if_neg hlt]
        exact ih h'.2.2

/-- A write leaves every other key alone. -/
theorem tabGet_tabSet_ne {lo : Nat} {t : Tab α} (h : tabWfFrom d lo t = true) {k i : Nat} (hi : i ≠ k) (v : α) :
    tabGet d (tabSet d t k v) i = tabGet d t i := by
  induction t generalizing lo with
  | nil =>
    simp only [tabSet]
    split
    · rfl
    · simp [tabGet, hi]
  | cons x r ih =>
    obtain ⟨j, w⟩ := x
    have h' := tabWfFrom_cons.mp h
    simp only [tabSet]
    split
    · rename_i e
      have e := eq_of_beq e
      subst e
      split
      · simp only [tabGet]
        have e : (i == k) = false := by simpa using hi
        simp only [e, Bool.false_eq_true, if_false]
        split
        · rename_i hlt; exact tabGet_low h'.2.2 (by omega)
        · rfl
      · simp [tabGet, hi]
    · rename_i e
      have e' : k ≠ j := by simpa using e
      split
      · rename_i hlt
        split
        · rfl
        · simp only [tabGet]
          have e : (i == k) = false := by simpa using hi
          simp only [e, Bool.false_eq_true, if_false]
          split
          · rename_i hik
            have : (i == j) = false := by simp; omega
            simp [this, show i < j by omega]
          · rfl
      · rename_i hlt
        simp only [tabGet]
        split
        · rfl
        · split
          · rfl
          · exact ih h'.2.2

/-- A table built from a function is canonical. -/
theorem tabOf_wf (n : Nat) (f : Nat → α) : tabWf d (tabOf d n f) = true := by
  have key : ∀ n lo, tabWfFrom d lo ((List.range' lo n).filterMap fun k => if f k = d then none else some (k, f k)) = true := by
    intro n
    induction n with
    | zero => intro lo; rfl
    | succ n ih =>
      intro lo
      simp only [List.range'_succ, List.filterMap_cons]
      split
      · exact tabWfFrom_mono (ih (lo + 1)) (Nat.le_succ lo)
      · rename_i e
        split at e
        · cases e
        · rename_i hv
          obtain rfl := Option.some.inj e
          exact tabWfFrom_cons.mpr ⟨Nat.le_refl lo, hv, ih (lo + 1)⟩
  simpa only [tabWf, tabOf, List.range_eq_range'] using key n 0

end Sys2Proof.Machine
end

