-- ==== Sys2Proof/Laws/Legal.lean ====
section
/-!
SUPPORT. What keeps the registers legal (`LegalRegs`): each register write, a load, INIT and the resets.
-/

namespace Sys2Proof.Machine

/-- Legality looks at twelve fields only. -/
theorem LegalRegs.congr {g g' : Regs} (l : LegalRegs g) (h1 : g'.hc = g.hc) (h2 : g'.hr = g.hr) (h3 : g'.cohHold = g.cohHold)
    (h4 : g'.predMode = g.predMode) (h5 : g'.cls = g.cls) (h6 : g'.stopidle = g.stopidle) (h7 : g'.retidle = g.retidle)
    (h8 : g'.store = g.store) (h9 : g'.pool = g.pool) (h10 : g'.ptab = g.ptab) (h11 : g'.live = g.live) (h12 : g'.shadow = g.shadow) :
    LegalRegs g' := by
  constructor
  · rw [h1]; exact l.hc
  · rw [h2]; exact l.hr
  · rw [h3]; exact l.hold
  · rw [h4]; exact l.mode
  · rw [h5]; exact l.cls
  · rw [h6]; exact l.idle
  · rw [h7]; exact l.ret
  · constructor
    · rw [h8]; exact l.tabs.store
    · rw [h9]; exact l.tabs.pool
    · rw [h10]; exact l.tabs.ptab
    · rw [h11]; exact l.tabs.live
    · rw [h12]; exact l.tabs.shadow

/-- Legal registers stay legal with other canonical stores. -/
theorem LegalRegs.withStores {g g' : Regs} (l : LegalRegs g) (h1 : g'.hc = g.hc) (h2 : g'.hr = g.hr) (h3 : g'.cohHold = g.cohHold)
    (h4 : g'.predMode = g.predMode) (h5 : g'.cls = g.cls) (h6 : g'.stopidle = g.stopidle) (h7 : g'.retidle = g.retidle)
    (h : CanonicalStores g') : LegalRegs g' := by
  constructor
  · rw [h1]; exact l.hc
  · rw [h2]; exact l.hr
  · rw [h3]; exact l.hold
  · rw [h4]; exact l.mode
  · rw [h5]; exact l.cls
  · rw [h6]; exact l.idle
  · rw [h7]; exact l.ret
  · exact h

/-- The stores alone decide whether they are canonical. -/
theorem CanonicalStores.congr {g g' : Regs} (l : CanonicalStores g) (h8 : g'.store = g.store) (h9 : g'.pool = g.pool) (h10 : g'.ptab = g.ptab)
    (h11 : g'.live = g.live) (h12 : g'.shadow = g.shadow) : CanonicalStores g' := by
  constructor
  · rw [h8]; exact l.store
  · rw [h9]; exact l.pool
  · rw [h10]; exact l.ptab
  · rw [h11]; exact l.live
  · rw [h12]; exact l.shadow

theorem vector_get_set {α : Type} {n : Nat} (v : Vector α n) (i j : Fin n) (x : α) :
    (v.set i.val x i.isLt)[j] = if i = j then x else v[j] := by
  simp only [Fin.getElem_fin, Vector.getElem_set, Fin.ext_iff]

theorem modHc_legal {g : Regs} (l : LegalRegs g) (h : Half) (f : HcRegs → HcRegs) (hf : LegalHc (f g.hc[h])) : LegalRegs (modHc h f g) := by
  refine ⟨fun k => ?_, l.hr, l.hold, l.mode, l.cls, l.idle, l.ret, l.tabs.congr rfl rfl rfl rfl rfl⟩
  simp only [modHc, vector_get_set]
  split
  · exact hf
  · exact l.hc k

theorem onRegs_legal {x : Slice} {f : Regs → Regs} (h : LegalRegs (f x.1)) : LegalRegs (onRegs f x).1 := h

theorem onMach_legal {x : Slice} {f : Regs → Mach → Mach} (h : LegalRegs x.1) : LegalRegs (onMach f x).1 := h

/-! ## Cache control -/

theorem profileCmode_ne (p : BitVec 2) : profileCmode p ≠ 3 := by revert p; decide

theorem profileRegs_legal {g : Regs} (l : LegalRegs g) (p : BitVec 2) : LegalRegs (profileRegs p g) := by
  refine ⟨fun h => ?_, l.hr, l.hold, l.mode, l.cls, l.idle, l.ret, l.tabs.congr rfl rfl rfl rfl rfl⟩
  have k := l.hc h
  simp only [profileRegs, Fin.getElem_fin, Vector.getElem_map]
  exact ⟨profileCmode_ne p, k.depth, k.floor, k.uses, k.amask, k.pmask, k.xmask⟩

theorem demandHeld_regs (x : Slice) : (demandHeld x).1 = x.1 := by unfold demandHeld; split <;> rfl

theorem putCmp_legal {c : HcRegs} (l : LegalHc c) (v : BitVec 32) : LegalHc (putCmp v c) := by
  refine ⟨?_, l.depth, l.floor, l.uses, l.amask, l.pmask, l.xmask⟩
  simp only [putCmp]
  split
  · exact l.cmode
  · rename_i hv; simpa using hv

theorem putRepl_legal {c : HcRegs} (l : LegalHc c) (v : BitVec 32) : LegalHc (putRepl v c) :=
  ⟨l.cmode, l.depth, l.floor, l.uses, l.amask, l.pmask, l.xmask⟩

theorem putBlw_legal {c : HcRegs} (l : LegalHc c) (img : Bool) (v : BitVec 32)
    (hi : img = true → 1 ≤ (v.extractLsb' 4 5).toNat ∧ (v.extractLsb' 4 5).toNat ≤ 16) : LegalHc (putBlw img v c) := by
  refine ⟨l.cmode, ?_, l.floor, l.uses, l.amask, l.pmask, l.xmask⟩
  cases img with
  | true => exact hi rfl
  | false =>
    simp only [putBlw, Bool.not_false, Bool.true_and]
    split
    · exact l.depth
    · rename_i hv
      simp only [Bool.or_eq_true, beq_iff_eq, decide_eq_true_eq, not_or, Nat.not_lt] at hv
      refine ⟨Nat.one_le_iff_ne_zero.mpr fun h0 => hv.1 (BitVec.eq_of_toNat_eq h0), hv.2⟩

theorem maskOf_floor (v : BitVec 32) : (maskOf v).extractLsb' 0 4 = 0xF := by
  unfold maskOf
  apply BitVec.eq_of_getLsbD_eq
  intro i hi
  have : i = 0 ∨ i = 1 ∨ i = 2 ∨ i = 3 := by omega
  rcases this with rfl | rfl | rfl | rfl <;> simp

theorem putMask_legal {c : HcRegs} (l : LegalHc c) (off : Nat) (v : BitVec 32) : LegalHc (putMask off v c) := by
  unfold putMask
  split
  · exact ⟨l.cmode, l.depth, l.floor, l.uses, l.amask, maskOf_floor v, l.xmask⟩
  · split
    · exact ⟨l.cmode, l.depth, l.floor, l.uses, l.amask, l.pmask, maskOf_floor v⟩
    · refine ⟨l.cmode, l.depth, l.floor, l.uses, fun k => ?_, l.pmask, l.xmask⟩
      simp only [vector_get_set]
      split
      · exact maskOf_floor v
      · exact l.amask k

theorem newUses_floor (second : Bool) (v : BitVec 32) (old : BitVec 48) (h : old.extractLsb' 0 8 = 0) :
    (newUses second v old).extractLsb' 0 8 = 0 := by
  apply BitVec.eq_of_getLsbD_eq
  intro i hi
  have ho : old.getLsbD i = false := by
    have := congrArg (fun b => b.getLsbD i) h
    simpa [hi] using this
  unfold newUses
  have : i = 0 ∨ i = 1 ∨ i = 2 ∨ i = 3 ∨ i = 4 ∨ i = 5 ∨ i = 6 ∨ i = 7 := by omega
  rcases this with rfl | rfl | rfl | rfl | rfl | rfl | rfl | rfl <;> cases second <;> simp [-BitVec.getLsbD_eq_getElem, ho]

theorem changeUses_legal {x : Slice} (l : LegalRegs x.1) (h : Half) (new : BitVec 48) (h1 : new.extractLsb' 0 8 = 0) (h2 : reservedUse new = false) :
    LegalRegs (changeUses h new x).1 := by
  have k := l.hc h
  unfold changeUses
  dsimp only
  exact onMach_legal (onRegs_legal (modHc_legal l h _ ⟨k.cmode, k.depth, h1, h2, k.amask, k.pmask, k.xmask⟩))

theorem writeUses_legal {x : Slice} (l : LegalRegs x.1) (h : Half) (second : Bool) (v : BitVec 32) : LegalRegs (writeUses h second v x).1 := by
  unfold writeUses
  dsimp only
  split
  · exact l
  · rename_i hv
    simp only [Bool.or_eq_true, not_or, Bool.not_eq_true] at hv
    exact changeUses_legal l h _ (newUses_floor _ _ _ (l.hc h).floor) hv.1

theorem writeCen_legal {x : Slice} (l : LegalRegs x.1) (h : Half) (v : BitVec 32) : LegalRegs (writeCen h v x).1 := by
  have k := l.hc h
  unfold writeCen
  dsimp only
  split <;> exact onRegs_legal (modHc_legal l h _ ⟨k.cmode, k.depth, k.floor, k.uses, k.amask, k.pmask, k.xmask⟩)

/-- A field update that legality does not look at. -/
theorem onRegs_congr {x : Slice} {f : Regs → Regs} (l : LegalRegs x.1) (h1 : (f x.1).hc = x.1.hc) (h2 : (f x.1).hr = x.1.hr)
    (h3 : (f x.1).cohHold = x.1.cohHold) (h4 : (f x.1).predMode = x.1.predMode) (h5 : (f x.1).cls = x.1.cls)
    (h6 : (f x.1).stopidle = x.1.stopidle) (h7 : (f x.1).retidle = x.1.retidle) (h8 : (f x.1).store = x.1.store)
    (h9 : (f x.1).pool = x.1.pool) (h10 : (f x.1).ptab = x.1.ptab) (h11 : (f x.1).live = x.1.live) (h12 : (f x.1).shadow = x.1.shadow) :
    LegalRegs (onRegs f x).1 := l.congr h1 h2 h3 h4 h5 h6 h7 h8 h9 h10 h11 h12

theorem ite_legal {x y : Slice} {c : Prop} [Decidable c] (hx : LegalRegs x.1) (hy : LegalRegs y.1) : LegalRegs (if c then x else y).1 := by
  split
  · exact hx
  · exact hy

theorem hcWrite_legal {x : Slice} (l : LegalRegs x.1) (h : Half) (off : Nat) (v : BitVec 32) : LegalRegs (hcWrite h off v x).1 := by
  have k := l.hc h
  unfold hcWrite
  dsimp only
  refine ite_legal (onRegs_legal (modHc_legal l h _ (putCmp_legal k v))) (ite_legal (onRegs_legal (modHc_legal l h _ (putRepl_legal k v)))
    (ite_legal (onRegs_legal (modHc_legal l h _ (putBlw_legal k false v nofun))) (ite_legal (writeCen_legal l h v) (ite_legal (writeUses_legal l h _ v)
    (ite_legal (writeUses_legal l h _ v) (ite_legal (onRegs_legal (modHc_legal l h _ (putMask_legal k off v))) (ite_legal ?_ (ite_legal ?_ l))))))))
  · exact onRegs_legal (modHc_legal l h _ ⟨k.cmode, k.depth, k.floor, k.uses, k.amask, k.pmask, k.xmask⟩)
  · unfold writeGrpCmd
    exact ite_legal l (onMach_legal l)

theorem modHr_legal {g : Regs} (l : LegalRegs g) (k : Fin 16) (f : Region → Region)
    (hf : (f g.hr[k]).ways.extractLsb' 0 4 = 0) : LegalRegs (modHr k f g) := by
  refine ⟨l.hc, fun j => ?_, l.hold, l.mode, l.cls, l.idle, l.ret, l.tabs.congr rfl rfl rfl rfl rfl⟩
  simp only [modHr, vector_get_set]
  split
  · exact hf
  · exact l.hr j

theorem regionWays_floor (v : BitVec 32) : (vbits v 0 24 &&& 0xFFFFF0).extractLsb' 0 4 = 0 := by
  apply BitVec.eq_of_getLsbD_eq
  intro i hi
  have : i = 0 ∨ i = 1 ∨ i = 2 ∨ i = 3 := by omega
  rcases this with rfl | rfl | rfl | rfl <;> simp

theorem regionWrite_legal {x : Slice} (l : LegalRegs x.1) (off : Nat) (v : BitVec 32) : LegalRegs (regionWrite off v x).1 := by
  unfold regionWrite
  dsimp only
  refine ite_legal (onRegs_legal (modHr_legal l _ _ ?_)) (ite_legal (onRegs_legal (modHr_legal l _ _ ?_)) (ite_legal ?_ l))
  · split <;> exact l.hr _
  · split <;> exact l.hr _
  · unfold writeRegionCtl
    dsimp only
    exact ite_legal (ite_legal (onRegs_legal (modHr_legal l _ _ (l.hr _))) l) (ite_legal l (onRegs_legal (modHr_legal l _ _ (regionWays_floor v))))

theorem reWrite_legal {x : Slice} (l : LegalRegs x.1) (off : Nat) (v : BitVec 32) : LegalRegs (reWrite off v x).1 := by
  unfold reWrite
  dsimp only
  have hset : ∀ f : Regs → Regs, LegalRegs (f x.1) → LegalRegs (if x.2.re.busy = true then x else onRegs f x).1 :=
    fun f hf => ite_legal l (onRegs_legal hf)
  refine ite_legal (hset _ (l.congr rfl rfl rfl rfl rfl rfl rfl rfl rfl rfl rfl rfl)) (ite_legal (hset _ (l.congr rfl rfl rfl rfl rfl rfl rfl rfl rfl rfl rfl rfl))
    (ite_legal (hset _ (l.congr rfl rfl rfl rfl rfl rfl rfl rfl rfl rfl rfl rfl)) (ite_legal ?_ l)))
  unfold writeReCtl
  dsimp only
  refine ite_legal l ?_
  have l1 : LegalRegs (onRegs (fun g => { g with reIe := bitAt v 7, reOp := vbits v 0 3 }) x).1 := l.congr rfl rfl rfl rfl rfl rfl rfl rfl rfl rfl rfl rfl
  have l2 := ite_legal (c := bitAt v 6 = true) (onMach_legal (f := fun _ m => { m with re := { m.re with dn := false } }) l1) l1
  have l3 := ite_legal (c := bitAt v 5 = true) (onMach_legal (f := fun _ m => rangeAbort m) l2) l2
  exact ite_legal (onMach_legal l3) l3

/-! ## Coherence and service -/

theorem putHoldWindow_legal {g : Regs} (l : LegalRegs g) (img : Bool) (v : BitVec 32)
    (hi : img = true → 16 ≤ (v.extractLsb' 0 11).toNat ∧ (v.extractLsb' 0 11).toNat ≤ 1024) : LegalRegs (putHoldWindow img v g) := by
  unfold putHoldWindow
  dsimp only
  split
  · rename_i hv
    have hv : 16 ≤ (vbits v 0 11).toNat ∧ (vbits v 0 11).toNat ≤ 1024 := by
      cases img with
      | true => exact hi rfl
      | false => simpa using hv
    exact ⟨l.hc, l.hr, .inr hv, l.mode, l.cls, l.idle, l.ret, l.tabs.congr rfl rfl rfl rfl rfl⟩
  · exact l

theorem writePred_legal {x : Slice} (l : LegalRegs x.1) (v : BitVec 32) : LegalRegs (writePred v x).1 := by
  unfold writePred
  split
  · exact l
  · rename_i hv
    have hm : vbits v 0 2 ≠ 3 := by simpa using hv
    have l1 : LegalRegs (onRegs (fun g => { g with predMode := vbits v 0 2 }) x).1 := ⟨l.hc, l.hr, l.hold, hm, l.cls, l.idle, l.ret, l.tabs.congr rfl rfl rfl rfl rfl⟩
    exact ite_legal (onMach_legal l1) l1

theorem setIdxInst_legal {g : Regs} (l : LegalRegs g) (i : Nat) (o : Owner) : LegalRegs (setIdxInst i o g) := by
  unfold setIdxInst
  split
  · exact l.congr rfl rfl rfl rfl rfl rfl rfl rfl rfl rfl rfl rfl
  · exact l

theorem putIdx_legal {g : Regs} (l : LegalRegs g) (k : Nat) (v : BitVec 32) : LegalRegs (putIdx k v g) := by
  unfold putIdx
  generalize List.range 4 = js
  induction js generalizing g with
  | nil => exact l
  | cons j js ih => exact ih (setIdxInst_legal l _ _)

theorem putOwner_legal {g : Regs} (l : LegalRegs g) (k : Nat) (v : BitVec 32) : LegalRegs (putOwner k v g) := by
  unfold putOwner
  split
  · exact l.congr rfl rfl rfl rfl rfl rfl rfl rfl rfl rfl rfl rfl
  · exact l

theorem modArb_legal {g : Regs} (l : LegalRegs g) (f : Binding → Binding) : LegalRegs (modArb f g) := l.congr rfl rfl rfl rfl rfl rfl rfl rfl rfl rfl rfl rfl

theorem cohWrite_legal {x : Slice} (l : LegalRegs x.1) (off : Nat) (v : BitVec 32) : LegalRegs (cohWrite off v x).1 := by
  unfold cohWrite
  dsimp only
  refine ite_legal (onRegs_legal (putHoldWindow_legal l false v nofun)) (ite_legal (writePred_legal l v) (ite_legal (onRegs_legal (putIdx_legal l _ v))
    (ite_legal (onRegs_legal (putOwner_legal l _ v)) (ite_legal (l.congr rfl rfl rfl rfl rfl rfl rfl rfl rfl rfl rfl rfl) (ite_legal (modArb_legal l _)
    (ite_legal (modArb_legal l _) (ite_legal (modArb_legal l _) (ite_legal ?_ (ite_legal (l.congr rfl rfl rfl rfl rfl rfl rfl rfl rfl rfl rfl rfl)
    (ite_legal (ite_legal (onMach_legal l) l) l))))))))))
  unfold writeArbCtl
  dsimp only
  exact ite_legal (ite_legal l (modArb_legal l _)) (ite_legal l (modArb_legal l _))

theorem modCls_legal {g : Regs} (l : LegalRegs g) (k : Fin 16) (f : ClassDesc → ClassDesc) (hf : (f g.cls[k]).kind ≠ 3) : LegalRegs (modCls k f g) := by
  refine ⟨l.hc, l.hr, l.hold, l.mode, fun j => ?_, l.idle, l.ret, l.tabs.congr rfl rfl rfl rfl rfl⟩
  simp only [modCls, vector_get_set]
  split
  · exact hf
  · exact l.cls j

theorem putClass0_kind (c : ClassDesc) (v : BitVec 32) (h : c.kind ≠ 3) : (putClass0 v c).kind ≠ 3 := by
  unfold putClass0
  dsimp only
  split
  · exact h
  · rename_i hv; simpa using hv

theorem writeClass1_legal {x : Slice} (l : LegalRegs x.1) (k : Fin 16) (v : BitVec 32) : LegalRegs (writeClass1 k v x).1 := by
  have h := modCls_legal l k (putClass1 false v) (l.cls k)
  unfold writeClass1
  dsimp only
  exact ite_legal (onRegs_legal h) (onMach_legal (onRegs_legal h))

theorem svcWrite_legal {x : Slice} (l : LegalRegs x.1) (off : Nat) (v : BitVec 32) : LegalRegs (svcWrite off v x).1 := by
  unfold svcWrite
  dsimp only
  refine ite_legal (l.congr rfl rfl rfl rfl rfl rfl rfl rfl rfl rfl rfl rfl) (ite_legal ?_ (ite_legal (l.congr rfl rfl rfl rfl rfl rfl rfl rfl rfl rfl rfl rfl) (ite_legal
    (ite_legal (modCls_legal l _ _ (putClass0_kind _ v (l.cls _))) (ite_legal (writeClass1_legal l _ v)
      (ite_legal (modCls_legal l _ _ (l.cls _)) l))) (ite_legal (l.congr rfl rfl rfl rfl rfl rfl rfl rfl rfl rfl rfl rfl) l))))
  unfold writeLblCtl
  dsimp only
  have l1 : LegalRegs (onRegs (fun g => { g with lblSrc := bitAt v 1 }) x).1 := l.congr rfl rfl rfl rfl rfl rfl rfl rfl rfl rfl rfl rfl
  refine ite_legal l (ite_legal ?_ l1)
  exact l1.withStores rfl rfl rfl rfl rfl rfl rfl ⟨l1.tabs.store, l1.tabs.pool, l1.tabs.ptab, l1.tabs.shadow, l1.tabs.live⟩

/-! ## Units, power, host -/

theorem putSeqEn_legal {g : Regs} (l : LegalRegs g) (h : Half) (v : BitVec 32) : LegalRegs (putSeqEn h v g) :=
  l.congr rfl rfl rfl rfl rfl rfl rfl rfl rfl rfl rfl rfl

theorem anvWrite_legal {x : Slice} (l : LegalRegs x.1) (h : Half) (off : Nat) (v : BitVec 32) : LegalRegs (anvWrite h off v x).1 := by
  unfold anvWrite
  refine ite_legal (l.congr rfl rfl rfl rfl rfl rfl rfl rfl rfl rfl rfl rfl) (ite_legal ?_ l)
  exact onMach_legal (onRegs_legal (putSeqEn_legal l h v))

theorem rasWrite_legal {x : Slice} (l : LegalRegs x.1) (off : Nat) (v : BitVec 32) : LegalRegs (rasWrite off v x).1 := by
  unfold rasWrite
  refine ite_legal (l.congr rfl rfl rfl rfl rfl rfl rfl rfl rfl rfl rfl rfl) (ite_legal (l.congr rfl rfl rfl rfl rfl rfl rfl rfl rfl rfl rfl rfl) (ite_legal
    (l.congr rfl rfl rfl rfl rfl rfl rfl rfl rfl rfl rfl rfl) (ite_legal (l.congr rfl rfl rfl rfl rfl rfl rfl rfl rfl rfl rfl rfl) (ite_legal (l.congr rfl rfl rfl rfl rfl rfl rfl rfl rfl rfl rfl rfl)
    (ite_legal ?_ (ite_legal ?_ (ite_legal ?_ l)))))))
  · unfold writeInj
    dsimp only
    exact ite_legal l (l.congr rfl rfl rfl rfl rfl rfl rfl rfl rfl rfl rfl rfl)
  · unfold writeRemap
    dsimp only
    exact ite_legal (l.congr rfl rfl rfl rfl rfl rfl rfl rfl rfl rfl rfl rfl) (ite_legal l (l.congr rfl rfl rfl rfl rfl rfl rfl rfl rfl rfl rfl rfl))
  · unfold qnWrite
    refine ite_legal (ite_legal l (l.congr rfl rfl rfl rfl rfl rfl rfl rfl rfl rfl rfl rfl)) (ite_legal ?_ l)
    unfold writeQuench
    dsimp only
    have hx : LegalRegs (onRegs (fun g => { g with qnArrays := g.qnArrays.set (halfIx ((off - 0x200) / 0x40)).val (vbits v 0 6) (halfIx ((off - 0x200) / 0x40)).isLt }) x).1 :=
      l.congr rfl rfl rfl rfl rfl rfl rfl rfl rfl rfl rfl rfl
    have hy := ite_legal (c := bitAt v 8) (onMach_legal (f := fun _ m => modHalf (halfIx ((off - 0x200) / 0x40)) (fun hs => { hs with qn := { hs.qn with dn := false } }) m) hx) hx
    exact ite_legal (ite_legal (onMach_legal hy) hy) (ite_legal (onMach_legal hy) hy)

theorem putPower_legal {g : Regs} (l : LegalRegs g) (img : Bool) (v : BitVec 32)
    (hi : img = true → v.extractLsb' 16 10 ≠ 0 ∧ 16 ≤ (v.extractLsb' 0 16).toNat) : LegalRegs (putPower img v g) := by
  refine ⟨l.hc, l.hr, l.hold, l.mode, l.cls, ?_, ?_, l.tabs.congr rfl rfl rfl rfl rfl⟩
  · cases img with
    | true => exact (hi rfl).2
    | false =>
      simp only [putPower, Bool.not_false, Bool.true_and]
      split
      · exact l.idle
      · rename_i hv; simpa using hv
  · cases img with
    | true => exact (hi rfl).1
    | false =>
      simp only [putPower, Bool.not_false, Bool.true_and]
      split
      · exact l.ret
      · rename_i hv; simpa using hv

theorem pwrWrite_legal {x : Slice} (l : LegalRegs x.1) (off : Nat) (v : BitVec 32) : LegalRegs (pwrWrite off v x).1 := by
  unfold pwrWrite
  refine ite_legal ?_ (ite_legal ?_ (ite_legal ?_ l))
  · unfold writePower
    rw [demandHeld_regs]
    exact putPower_legal l false v nofun
  · unfold writeJrnCtl
    dsimp only
    refine ite_legal l (ite_legal (onMach_legal ?_) ?_) <;> exact l.congr rfl rfl rfl rfl rfl rfl rfl rfl rfl rfl rfl rfl
  · unfold writeImgCtl
    dsimp only
    refine ite_legal l (ite_legal (onMach_legal ?_) ?_) <;> exact l.congr rfl rfl rfl rfl rfl rfl rfl rfl rfl rfl rfl rfl

theorem writePort_legal {x : Slice} (l : LegalRegs x.1) (p : PortIx) (v : BitVec 32) : LegalRegs (writePort p v x).1 := by
  unfold writePort
  dsimp only
  refine ite_legal (onMach_legal ?_) (ite_legal (onMach_legal ?_) ?_) <;> exact l.congr rfl rfl rfl rfl rfl rfl rfl rfl rfl rfl rfl rfl

theorem portWrite_legal {x : Slice} (l : LegalRegs x.1) (off : Nat) (v : BitVec 32) : LegalRegs (portWrite off v x).1 := by
  unfold portWrite
  exact ite_legal (writePort_legal l _ v) (ite_legal (l.congr rfl rfl rfl rfl rfl rfl rfl rfl rfl rfl rfl rfl) (ite_legal (l.congr rfl rfl rfl rfl rfl rfl rfl rfl rfl rfl rfl rfl) l))

theorem mbWrite_legal {x : Slice} (l : LegalRegs x.1) (off : Nat) (v : BitVec 32) : LegalRegs (mbWrite off v x).1 := by
  unfold mbWrite
  refine ite_legal ?_ (ite_legal (l.congr rfl rfl rfl rfl rfl rfl rfl rfl rfl rfl rfl rfl) (ite_legal (l.congr rfl rfl rfl rfl rfl rfl rfl rfl rfl rfl rfl rfl) l))
  unfold writeMb
  dsimp only
  refine ite_legal l (ite_legal (onMach_legal (ite_legal (onMach_legal ?_) ?_)) (ite_legal (onMach_legal ?_) ?_)) <;>
  exact l.congr rfl rfl rfl rfl rfl rfl rfl rfl rfl rfl rfl rfl

theorem viEffect_regs (cmd : BitVec 3) (i : BitVec 6) (x : Slice) : LegalRegs x.1 → LegalRegs (viEffect cmd i x).1 := by
  intro l
  unfold viEffect
  dsimp only
  have l1 : ∀ f : Instance → Instance, LegalRegs (onRegs (modInst i f) x).1 := fun f => l.congr rfl rfl rfl rfl rfl rfl rfl rfl rfl rfl rfl rfl
  exact ite_legal (onMach_legal (l1 _)) (ite_legal (onMach_legal (l1 _)) (ite_legal (onMach_legal (l1 _)) (ite_legal (onMach_legal l) (onMach_legal l))))

theorem writeViCmd_legal {x : Slice} (l : LegalRegs x.1) (v : BitVec 32) : LegalRegs (writeViCmd v x).1 := by
  unfold writeViCmd
  dsimp only
  exact ite_legal l (ite_legal (viEffect_regs _ _ _ l) l)

theorem viWrite_legal {x : Slice} (l : LegalRegs x.1) (off : Nat) (v : BitVec 32) : LegalRegs (viWrite off v x).1 := by
  unfold viWrite
  dsimp only
  have triv : ∀ {f : Regs → Regs}, LegalRegs (f x.1) → LegalRegs (if x.1.dlEn = true then x else onRegs f x).1 := fun h => ite_legal l h
  refine ite_legal (l.congr rfl rfl rfl rfl rfl rfl rfl rfl rfl rfl rfl rfl) (ite_legal ?_ (ite_legal (writeViCmd_legal l v) (ite_legal
    (l.congr rfl rfl rfl rfl rfl rfl rfl rfl rfl rfl rfl rfl) (ite_legal (l.congr rfl rfl rfl rfl rfl rfl rfl rfl rfl rfl rfl rfl) (ite_legal (l.congr rfl rfl rfl rfl rfl rfl rfl rfl rfl rfl rfl rfl)
    (ite_legal (l.congr rfl rfl rfl rfl rfl rfl rfl rfl rfl rfl rfl rfl) (ite_legal (l.congr rfl rfl rfl rfl rfl rfl rfl rfl rfl rfl rfl rfl) (ite_legal ?_ (ite_legal ?_
    (ite_legal (triv (l.congr rfl rfl rfl rfl rfl rfl rfl rfl rfl rfl rfl rfl)) (ite_legal (triv (l.congr rfl rfl rfl rfl rfl rfl rfl rfl rfl rfl rfl rfl))
    (ite_legal (triv (l.congr rfl rfl rfl rfl rfl rfl rfl rfl rfl rfl rfl rfl)) (ite_legal (triv (l.congr rfl rfl rfl rfl rfl rfl rfl rfl rfl rfl rfl rfl))
    (ite_legal (triv (l.congr rfl rfl rfl rfl rfl rfl rfl rfl rfl rfl rfl rfl)) (ite_legal (triv (l.congr rfl rfl rfl rfl rfl rfl rfl rfl rfl rfl rfl rfl)) l)))))))))))))))
  · unfold writeViCtl
    dsimp only
    exact ite_legal (ite_legal l (l.congr rfl rfl rfl rfl rfl rfl rfl rfl rfl rfl rfl rfl)) (ite_legal (l.congr rfl rfl rfl rfl rfl rfl rfl rfl rfl rfl rfl rfl) l)
  · unfold writeViWctl
    dsimp only
    exact ite_legal l (l.congr rfl rfl rfl rfl rfl rfl rfl rfl rfl rfl rfl rfl)
  · unfold writeDlCtl
    dsimp only
    refine ite_legal l (ite_legal ?_ ?_) <;> exact l.congr rfl rfl rfl rfl rfl rfl rfl rfl rfl rfl rfl rfl

theorem dmpWrite_legal {x : Slice} (l : LegalRegs x.1) (k : Fin 8) (off : Nat) (v : BitVec 32) : LegalRegs (dmpWrite k off v x).1 := by
  unfold dmpWrite
  dsimp only
  have triv : ∀ f : DumpCfg → DumpCfg, LegalRegs (if x.2.dbg.dumps[k].armed = true then x else onRegs (modDmp k f) x).1 :=
    fun f => ite_legal l (l.congr rfl rfl rfl rfl rfl rfl rfl rfl rfl rfl rfl rfl)
  refine ite_legal (triv _) (ite_legal (triv _) (ite_legal (triv _) (ite_legal (triv _) (ite_legal (triv _) (ite_legal (triv _)
    (ite_legal ?_ l))))))
  unfold writeDmpCtl
  dsimp only
  refine ite_legal l (ite_legal (onMach_legal (ite_legal (onMach_legal ?_) ?_)) (ite_legal (onMach_legal ?_) ?_)) <;>
  exact l.congr rfl rfl rfl rfl rfl rfl rfl rfl rfl rfl rfl rfl

theorem dbgWrite_legal {x : Slice} (l : LegalRegs x.1) (off : Nat) (v : BitVec 32) : LegalRegs (dbgWrite off v x).1 := by
  unfold dbgWrite
  dsimp only
  refine ite_legal (l.congr rfl rfl rfl rfl rfl rfl rfl rfl rfl rfl rfl rfl) (ite_legal (onMach_legal (l.congr rfl rfl rfl rfl rfl rfl rfl rfl rfl rfl rfl rfl)) (ite_legal
    (l.congr rfl rfl rfl rfl rfl rfl rfl rfl rfl rfl rfl rfl) (ite_legal (l.congr rfl rfl rfl rfl rfl rfl rfl rfl rfl rfl rfl rfl) (ite_legal (onMach_legal l) (ite_legal ?_ (ite_legal
    (l.congr rfl rfl rfl rfl rfl rfl rfl rfl rfl rfl rfl rfl) (ite_legal (ite_legal (l.congr rfl rfl rfl rfl rfl rfl rfl rfl rfl rfl rfl rfl) l) (ite_legal (onMach_legal l) (ite_legal ?_
    (ite_legal (l.congr rfl rfl rfl rfl rfl rfl rfl rfl rfl rfl rfl rfl) (ite_legal (onMach_legal (l.congr rfl rfl rfl rfl rfl rfl rfl rfl rfl rfl rfl rfl))
    (ite_legal (l.congr rfl rfl rfl rfl rfl rfl rfl rfl rfl rfl rfl rfl) (ite_legal (dmpWrite_legal l _ _ v) (ite_legal ?_ l))))))))))))))
  · unfold writeOfs
    dsimp only
    refine ite_legal (onMach_legal ?_) ?_ <;> exact l.congr rfl rfl rfl rfl rfl rfl rfl rfl rfl rfl rfl rfl
  · unfold writeTrc
    dsimp only
    refine ite_legal (onMach_legal (ite_legal (onMach_legal (ite_legal (onMach_legal ?_) ?_)) (ite_legal (onMach_legal ?_) ?_)))
      (ite_legal (onMach_legal (ite_legal (onMach_legal ?_) ?_)) (ite_legal (onMach_legal ?_) ?_)) <;>
    exact l.congr rfl rfl rfl rfl rfl rfl rfl rfl rfl rfl rfl rfl
  · unfold writeGs
    dsimp only
    refine ite_legal (ite_legal (onMach_legal ?_) ?_) (ite_legal (onMach_legal (ite_legal (onMach_legal ?_) ?_)) (onMach_legal (ite_legal (onMach_legal ?_) ?_))) <;>
    exact l.congr rfl rfl rfl rfl rfl rfl rfl rfl rfl rfl rfl rfl

theorem glbWrite_legal {x : Slice} (l : LegalRegs x.1) (off : Nat) (v : BitVec 32) : LegalRegs (glbWrite off v x).1 := by
  unfold glbWrite
  refine ite_legal ?_ (ite_legal (l.congr rfl rfl rfl rfl rfl rfl rfl rfl rfl rfl rfl rfl) l)
  unfold writeProfile
  dsimp only
  refine ite_legal l ?_
  rw [demandHeld_regs]
  exact profileRegs_legal l _

/-- Every register write keeps the registers legal. -/
theorem applyWrite_legal {x : Slice} (l : LegalRegs x.1) (off : Nat) (v : BitVec 32) : LegalRegs (applyWrite off v x).1 := by
  unfold applyWrite
  refine ite_legal l (ite_legal (glbWrite_legal l off v) (ite_legal (hcWrite_legal l _ _ v) (ite_legal ?_ (ite_legal (hcWrite_legal l _ _ v)
    (ite_legal l (ite_legal (cohWrite_legal l off v) (ite_legal (svcWrite_legal l off v) (ite_legal (anvWrite_legal l _ _ v) (ite_legal l
    (ite_legal (rasWrite_legal l _ v) (ite_legal (pwrWrite_legal l _ v) (ite_legal (viWrite_legal l _ v) (ite_legal (dbgWrite_legal l off v)
    (ite_legal (portWrite_legal l off v) (ite_legal (mbWrite_legal l off v) l)))))))))))))))
  unfold hearthWrite
  exact ite_legal (regionWrite_legal l off v) (reWrite_legal l off v)

theorem aliasWrite_eq (off : Nat) (v : BitVec 32) (x : Slice) : aliasWrite off v x = x ∨ ∃ w u, aliasWrite off v x = applyWrite w u x := by
  by_cases h : (isGuarded (aliasWord off) || (pairOwner (aliasWord off)).isSome) = true
  · exact .inl (if_pos h)
  · exact .inr ⟨_, _, if_neg h⟩
theorem aliasWrite_legal {x : Slice} (l : LegalRegs x.1) (off : Nat) (v : BitVec 32) : LegalRegs (aliasWrite off v x).1 := by
  rcases aliasWrite_eq off v x with h | ⟨w, u, h⟩
  · rw [h]; exact l
  · rw [h]; exact applyWrite_legal l _ _

theorem indWrite_legal {x : Slice} (l : LegalRegs x.1) (a : Nat) (v : BitVec 32) : LegalRegs (indWrite a v x).1 := by
  unfold indWrite
  dsimp only
  have k := l.tabs
  refine ite_legal l (ite_legal (onMach_legal l) (ite_legal (ite_legal l ?_) (ite_legal (onMach_legal ?_) (ite_legal (onMach_legal ?_) l))))
  · exact l.withStores rfl rfl rfl rfl rfl rfl rfl ⟨k.store, k.pool, k.ptab, k.live, tabMod_wf k.shadow _ _⟩
  · exact l.withStores rfl rfl rfl rfl rfl rfl rfl ⟨tabSet_wf k.store _ _, k.pool, k.ptab, k.live, k.shadow⟩
  · exact l.withStores rfl rfl rfl rfl rfl rfl rfl ⟨k.store, tabSet_wf k.pool _ _, k.ptab, k.live, k.shadow⟩

/-! ## Resets, INIT -/

theorem resetHc_legal : LegalHc HcRegs.reset := by
  refine ⟨by decide, by decide, by decide, by decide, by decide, by decide, by decide⟩

theorem resetRegs_legal : LegalRegs Regs.reset := by
  refine ⟨fun h => ?_, by decide, .inl rfl, by decide, by decide, by decide, by decide, ⟨rfl, rfl, rfl, rfl, rfl⟩⟩
  revert h
  intro h
  simpa [Regs.reset] using resetHc_legal

theorem blockRegs_legal {g : Regs} (l : LegalRegs g) : LegalRegs (blockRegs g) :=
  ⟨resetRegs_legal.hc, resetRegs_legal.hr, resetRegs_legal.hold, resetRegs_legal.mode, resetRegs_legal.cls, l.idle, l.ret, ⟨rfl, rfl, rfl, rfl, rfl⟩⟩

theorem initRegs_legal {g : Regs} (l : LegalRegs g) : LegalRegs (initRegs g) :=
  ⟨l.hc, by simp [initRegs], l.hold, l.mode, by simp [initRegs], l.idle, l.ret, ⟨rfl, rfl, rfl, rfl, rfl⟩⟩

/-! ## Loads -/

theorem foldl_legal {α : Type} {f : Slice → α → Slice} (hf : ∀ x a, LegalRegs x.1 → LegalRegs (f x a).1) (as : List α) (x : Slice) (l : LegalRegs x.1) :
    LegalRegs (as.foldl f x).1 := by
  induction as generalizing x with
  | nil => exact l
  | cons a as ih => exact ih _ (hf x a l)

theorem foldl_legalRegs {α : Type} {f : Regs → α → Regs} (hf : ∀ g a, LegalRegs g → LegalRegs (f g a)) (as : List α) (g : Regs) (l : LegalRegs g) :
    LegalRegs (as.foldl f g) := by
  induction as generalizing g with
  | nil => exact l
  | cons a as ih => exact ih _ (hf g a l)

theorem foldl_legalHc {α : Type} {f : HcRegs → α → HcRegs} (hf : ∀ g a, LegalHc g → LegalHc (f g a)) (as : List α) (g : HcRegs) (l : LegalHc g) :
    LegalHc (as.foldl f g) := by
  induction as generalizing g with
  | nil => exact l
  | cons a as ih => exact ih _ (hf g a l)

theorem applyTopology_legal (ls : Image) (s : Nat) {x : Slice} (l : LegalRegs x.1) : LegalRegs (applyTopology ls s x).1 := by
  unfold applyTopology
  dsimp only [onRegs]
  refine foldl_legalRegs (f := fun g k => putOwner k (secWord ls typeSLICE (128 * s + 64 + k)) g) (fun _ _ h => putOwner_legal h _ _) _ _ ?_
  exact foldl_legalRegs (f := fun g k => putIdx k (secWord ls typeTOPOLOGY (36 + k)) g) (fun _ _ h => putIdx_legal h _ _) _ _ l

theorem setAnvEn_legal {g : Regs} (l : LegalRegs g) (h : Half) (v : Bool) : LegalRegs (setAnvEn h v g) := l.congr rfl rfl rfl rfl rfl rfl rfl rfl rfl rfl rfl rfl

theorem putGlobal_legal {g : Regs} (l : LegalRegs g) (p d c b : BitVec 32) (hc : c.extractLsb' 0 2 ≠ 3) : LegalRegs (putGlobal p d c b g) :=
  ⟨l.hc, l.hr, l.hold, hc, l.cls, l.idle, l.ret, l.tabs.congr rfl rfl rfl rfl rfl⟩

theorem applyControl_legal {ls : Image} (hi : ImageInRange ls) (hm : (secWord ls typeCONTROL 3).extractLsb' 0 2 ≠ 3) {x : Slice}
    (l : LegalRegs x.1) : LegalRegs (applyControl ls x).1 :=
  onRegs_legal (putPower_legal (putSeqEn_legal (putSeqEn_legal (setAnvEn_legal (setAnvEn_legal
    (putHoldWindow_legal (putGlobal_legal l _ _ _ _ hm) true _ fun _ => hi.hold) _ _) _ _) _ _) _ _) true _ fun _ => ⟨hi.ret, hi.idle⟩)

theorem getLsbD_mask32 (i : Nat) : (4294967295#48).getLsbD i = decide (i < 32) := by
  rcases Nat.lt_or_ge i 48 with h | h
  · exact (by decide : ∀ i : Fin 48, (4294967295#48).getLsbD i.val = decide (i.val < 32)) ⟨i, h⟩
  · rw [BitVec.getLsbD_of_ge _ _ h]; simp; omega

theorem getLsbD_mask24 (i : Nat) (h : 8 ≤ i) (h' : i < 32) : (4294967040#32).getLsbD i = true :=
  (by decide : ∀ i : Fin 32, 8 ≤ i.val → (4294967040#32).getLsbD i.val = true) ⟨i, h'⟩ h

theorem getLsbD_maskHigh (i : Nat) (h : i < 32) : (281470681743360#48).getLsbD i = false :=
  (by decide : ∀ i : Fin 32, (281470681743360#48).getLsbD i.val = false) ⟨i, h⟩

theorem newUses_first (a b : BitVec 32) (old : BitVec 48) (i : Nat) (h : 8 ≤ i) (h' : i < 32) :
    (newUses true b (newUses false a old)).getLsbD i = a.getLsbD i := by
  have h1 : i < 48 := by omega
  have e : (newUses true b (newUses false a old)).getLsbD i = (newUses false a old).getLsbD i := by
    show (((newUses false a old) &&& 4294967295#48) ||| _).getLsbD i = _
    rw [BitVec.getLsbD_or, BitVec.getLsbD_and, getLsbD_mask32, BitVec.getLsbD_shiftLeft]
    simp [h']
  rw [e]
  show ((old &&& 281470681743360#48) ||| (a &&& 4294967040#32).setWidth 48).getLsbD i = _
  rw [BitVec.getLsbD_or, BitVec.getLsbD_and, getLsbD_maskHigh i h', BitVec.getLsbD_setWidth, BitVec.getLsbD_and, getLsbD_mask24 i h h']
  simp [h1]

theorem newUses_second (b : BitVec 32) (old : BitVec 48) (i : Nat) (h : i < 16) : (newUses true b old).getLsbD (32 + i) = b.getLsbD i := by
  show ((old &&& 4294967295#48) ||| ((b.extractLsb' 0 16).setWidth 48 <<< 32)).getLsbD (32 + i) = _
  rw [BitVec.getLsbD_or, BitVec.getLsbD_and, getLsbD_mask32, BitVec.getLsbD_shiftLeft, BitVec.getLsbD_setWidth, BitVec.getLsbD_extractLsb']
  have h1 : 32 + i < 48 := by omega
  have h2 : i < 48 := by omega
  have h3 : ¬ 32 + i < 32 := by omega
  simp [h1, h2, h, h3]

/-- The use codes of a PARTITION record that passes the check of step 6 are legal. -/
theorem imageUses (a b : BitVec 32) (old : BitVec 48) (h0 : old.extractLsb' 0 8 = 0)
    (ha : ∀ k, k < 12 → a.extractLsb' (2 * (4 + k)) 2 ≠ 3) (hb : ∀ k, k < 8 → b.extractLsb' (2 * (0 + k)) 2 ≠ 3) :
    reservedUse (newUses true b (newUses false a old)) = false := by
  unfold reservedUse
  rw [List.any_eq_false]
  intro w hw
  have hw := List.mem_range.mp hw
  simp only [beq_iff_eq]
  intro he
  rcases Nat.lt_or_ge w 4 with h4 | h4
  · have h := congrArg (fun b => b.getLsbD 0) he
    have hz : (newUses true b (newUses false a old)).getLsbD (2 * w) = false := by
      have := newUses_floor true b _ (newUses_floor false a old h0)
      have := congrArg (fun b => b.getLsbD (2 * w)) this
      simpa [show 2 * w < 8 by omega] using this
    simp [useCode, hz] at h
  · rcases Nat.lt_or_ge w 16 with h16 | h16
    · apply ha (w - 4) (by omega)
      rw [← he, show 2 * (4 + (w - 4)) = 2 * w by omega]
      apply BitVec.eq_of_getLsbD_eq
      intro i hi
      simp only [useCode, BitVec.getLsbD_extractLsb', hi, decide_true, Bool.true_and]
      exact (newUses_first a b old _ (by omega) (by omega)).symm
    · apply hb (w - 16) (by omega)
      rw [← he]
      apply BitVec.eq_of_getLsbD_eq
      intro i hi
      simp only [useCode, BitVec.getLsbD_extractLsb', hi, decide_true, Bool.true_and]
      rw [show 2 * w + i = 32 + (2 * (w - 16) + i) by omega, newUses_second _ _ _ (by omega), Nat.zero_add]

/-- No word of a PARTITION record that passed step 6 holds a reserved code. -/
theorem partition_codes {ls : Image} (h : fieldFailure ls = none) {r : Nat} (hr : r < secLen ls typePARTITION / 128) :
    (∀ k, k < 12 → (secWord ls typePARTITION (32 * r + 6)).extractLsb' (2 * (4 + k)) 2 ≠ 3)
      ∧ ∀ k, k < 8 → (secWord ls typePARTITION (32 * r + 7)).extractLsb' (2 * (0 + k)) 2 ≠ 3 := by
  unfold fieldFailure at h
  rw [List.findSome?_eq_none_iff] at h
  have h4 := h typePARTITION (by decide)
  rw [Option.map_eq_none_iff, List.find?_eq_none] at h4
  have word : ∀ i, i < 32 → reservedValue typePARTITION i (secWord ls typePARTITION (32 * r + i)) = false := by
    intro i hi
    have := h4 (32 * r + i) (List.mem_range.mpr (by simp only [checkedWords, typePARTITION, typePROGRAMS] at *; simp; omega))
    simp only [wordFails, Bool.not_eq_true, Bool.or_eq_false_iff] at this
    have e : (32 * r + i) % recordWords typePARTITION = i := by
      simp only [recordWords, typePARTITION, typeTOPOLOGY, typeCONTROL, typeSLICE]
      simp; omega
    rw [e] at this
    exact this.2
  refine ⟨fun k hk he => ?_, fun k hk he => ?_⟩
  · have := word 6 (by decide)
    simp only [reservedValue, typePARTITION, typeCONTROL, typeCLASSES] at this
    simp at this
    exact this k hk (by simpa [typePARTITION] using he)
  · have := word 7 (by decide)
    simp only [reservedValue, typePARTITION, typeCONTROL, typeCLASSES] at this
    simp at this
    exact this k hk (by simpa [typePARTITION] using he)

/-- Word 3 of a CONTROL section that passed steps 4 and 6 holds no reserved predictor mode. -/
theorem control_mode {ls : Image} (hs : sectionsOk ls = true) (h : fieldFailure ls = none) : (secWord ls typeCONTROL 3).extractLsb' 0 2 ≠ 3 := by
  intro he
  have hl : lenOk ls typeCONTROL = true := by
    simp only [sectionsOk, Bool.and_eq_true, List.all_eq_true] at hs
    exact (hs.1 typeCONTROL (by decide)).2
  have hn : secLen ls typeCONTROL = 256 := by
    simpa [lenOk, typeCONTROL, typeSLICE, typePARTITION, typeBINDINGS, typeLABELS, typePROGRAMS] using hl
  unfold fieldFailure at h
  rw [List.findSome?_eq_none_iff] at h
  have h4 := h typeCONTROL (by decide)
  rw [Option.map_eq_none_iff, List.find?_eq_none] at h4
  have := h4 3 (List.mem_range.mpr (by
    simp only [checkedWords]
    rw [if_neg (by decide), hn]
    decide))
  simp only [wordFails, Bool.not_eq_true, Bool.or_eq_false_iff] at this
  have e : 3 % recordWords typeCONTROL = 3 := by decide
  rw [e] at this
  have h3 := this.2
  simp [reservedValue, typeCONTROL, typePARTITION, typeCLASSES] at h3
  exact h3 (by simpa [typeCONTROL] using he)

theorem partRecord_lt {ls : Image} {s : Nat} {h : Half} {r : Nat} (e : partRecord ls s h = some r) : r < secLen ls typePARTITION / 128 :=
  List.mem_range.mp (List.mem_of_find?_eq_some e)

theorem applyPartition_legal {ls : Image} (hf : fieldFailure ls = none) {r : Nat} (hr : r < secLen ls typePARTITION / 128) (h : Half) {x : Slice}
    (hi : ImageInRange ls) (l : LegalRegs x.1) : LegalRegs (applyPartition ls r h x).1 := by
  unfold applyPartition
  dsimp only
  have l1 := writeCen_legal l h (secWord ls typePARTITION (32 * r + 2))
  generalize writeCen h (secWord ls typePARTITION (32 * r + 2)) x = y at l1 ⊢
  have k1 : LegalHc (putBlw true (secWord ls typePARTITION (32 * r + 5)) (putRepl (secWord ls typePARTITION (32 * r + 4))
      (putCmp (secWord ls typePARTITION (32 * r + 3)) y.1.hc[h]))) :=
    putBlw_legal (putRepl_legal (putCmp_legal (l1.hc h) _) _) true _ fun _ => hi.depth r hr
  have l2 := modHc_legal l1 h (fun c => (List.range 18).foldl (fun c i => putMask (if i < 16 then 0x240 + 4 * i else 0x280 + 4 * (i - 16))
    (secWord ls typePARTITION (32 * r + (8 + i))) c) (putBlw true (secWord ls typePARTITION (32 * r + 5)) (putRepl (secWord ls typePARTITION (32 * r + 4))
      (putCmp (secWord ls typePARTITION (32 * r + 3)) c)))) (foldl_legalHc (fun _ _ k => putMask_legal k _ _) _ _ k1)
  dsimp only [onRegs]
  generalize modHc h _ y.1 = g at l2 ⊢
  have k := l2.hc h
  have u := partition_codes hf hr
  exact changeUses_legal (x := (g, y.2)) l2 h _ (newUses_floor _ _ _ (newUses_floor _ _ _ k.floor)) (imageUses _ _ _ k.floor u.1 u.2)

theorem applyHalf_legal {ls : Image} (hf : fieldFailure ls = none) (hi : ImageInRange ls) (s : Nat) (h : Half) {x : Slice} (l : LegalRegs x.1) : LegalRegs (applyHalf ls s x h).1 := by
  unfold applyHalf
  split
  · rename_i r e; exact applyPartition_legal hf (partRecord_lt e) h hi l
  · exact l

theorem imgRegion_floor (ls : Image) (k : Fin 16) : (imgRegion ls k).ways.extractLsb' 0 4 = 0 := regionWays_floor _

theorem regionRegs_legal (ls : Image) {g : Regs} (l : LegalRegs g) : LegalRegs (regionRegs ls g) := by
  have hr : ∀ k : Fin 16, (regionRegs ls g).hr[k].ways.extractLsb' 0 4 = 0 := by
    intro k
    unfold regionRegs
    rw [Fin.getElem_fin, Vector.getElem_ofFn]
    exact imgRegion_floor ls k
  unfold regionRegs at hr ⊢
  exact ⟨l.hc, hr, l.hold, l.mode, l.cls, l.idle, l.ret, l.tabs.congr rfl rfl rfl rfl rfl⟩

theorem applyRegions_legal (ls : Image) {x : Slice} (l : LegalRegs x.1) : LegalRegs (applyRegions ls x).1 :=
  onRegs_legal (regionRegs_legal ls (onMach_legal (x := x) l))

theorem serviceRegs_legal (ls : Image) {g : Regs} (l : LegalRegs g) : LegalRegs (serviceRegs ls g) := by
  have hc : ∀ k : Fin 16, (serviceRegs ls g).cls[k].kind ≠ 3 := by
    intro k
    unfold serviceRegs
    rw [Fin.getElem_fin, Vector.getElem_ofFn]
    exact putClass0_kind _ _ (l.cls k)
  have hl : ∀ t, t = tabOf LabelCtx.off 4096 (imgLabel ls) → tabWf LabelCtx.off t = true := fun t e => by rw [e]; exact tabOf_wf _ _
  unfold serviceRegs at hc ⊢
  dsimp only at hc ⊢
  generalize tabOf LabelCtx.off 4096 (imgLabel ls) = t at hc hl ⊢
  exact ⟨l.hc, l.hr, l.hold, l.mode, hc, l.idle, l.ret, ⟨l.tabs.store, l.tabs.pool, l.tabs.ptab, hl t rfl, hl t rfl⟩⟩

theorem applyService_legal (ls : Image) {x : Slice} (l : LegalRegs x.1) : LegalRegs (applyService ls x).1 :=
  onMach_legal (onRegs_legal (serviceRegs_legal ls l))

theorem programRegs_legal (ls : Image) {g : Regs} (l : LegalRegs g) : LegalRegs (programRegs ls g) := by
  unfold programRegs
  have h1 := tabOf_wf (d := ProgEntry.none) 512 (imgProg ls)
  have h2 := tabOf_wf (d := (0 : BitVec 32)) 16384 (fun i => secWord ls typePROGRAMS (1024 + i))
  have h3 := tabOf_wf (d := (0 : BitVec 32)) 4096 (fun i => secWord ls typePROGRAMS (17408 + i))
  generalize tabOf ProgEntry.none 512 _ = a at h1 ⊢
  generalize tabOf (0 : BitVec 32) 16384 _ = b at h2 ⊢
  generalize tabOf (0 : BitVec 32) 4096 _ = c at h3 ⊢
  exact l.withStores rfl rfl rfl rfl rfl rfl rfl ⟨h2, h3, h1, l.tabs.live, l.tabs.shadow⟩

theorem applyPrograms_legal (ls : Image) {x : Slice} (l : LegalRegs x.1) : LegalRegs (applyPrograms ls x).1 :=
  onMach_legal (onRegs_legal (programRegs_legal ls l))

theorem applyPorts_legal (ls : Image) (s : Nat) {x : Slice} (l : LegalRegs x.1) : LegalRegs (applyPorts ls s x).1 := by
  unfold applyPorts
  exact foldl_legal (f := applyPort ls s) (fun _ _ h => writePort_legal h _ _) _ _ l

theorem LegalRegs.captureRegs {g : Regs} (l : LegalRegs g) : LegalRegs (Machine.captureRegs g) :=
  l.congr rfl rfl rfl rfl rfl rfl rfl rfl rfl rfl rfl rfl

theorem applyStructs_regs (ls : Image) (x : Slice) : (applyStructs ls x).1 = x.1 := by unfold applyStructs onMach; rfl

theorem leaveSafe_regs (x : Slice) : (leaveSafe x).1 = x.1 := by unfold leaveSafe onMach; rfl

theorem applyImage_legal {ls : Image} (hs : sectionsOk ls = true) (hf : fieldFailure ls = none) (hi : ImageInRange ls) {x : Slice} (l : LegalRegs x.1) : LegalRegs (applyImage ls x).1 := by
  have l1 := foldl_legal (f := applyHalf ls (imgOwn ls x.2.jrn)) (fun x h k => applyHalf_legal hf hi _ h k) bothHalves _
    (applyControl_legal hi (control_mode hs hf) (applyTopology_legal ls (imgOwn ls x.2.jrn) l))
  have l2 := applyPrograms_legal ls (applyService_legal ls (applyRegions_legal ls l1))
  unfold applyImage
  refine onRegs_legal (LegalRegs.captureRegs (applyPorts_legal ls _ ?_))
  rw [demandHeld_regs, leaveSafe_regs, applyStructs_regs]
  exact l2

theorem passed_checks {ls : Image} {m : Mach} (h : imageFailure ls m = none) : sectionsOk ls = true ∧ fieldFailure ls = none := by
  unfold imageFailure at h
  repeat' (split at h)
  all_goals first | contradiction | (refine ⟨?_, by assumption⟩; simp_all)

/-- The end of a load keeps the registers legal, when the image's values are in range. -/
theorem finishLoad_legal (ld : Load) {x : Slice} (hi : ImageInRange (stagedLines x.2 ld.lines)) (l : LegalRegs x.1) : LegalRegs (finishLoad ld x).1 := by
  unfold finishLoad
  dsimp only
  split
  · exact onMach_legal l
  · split
    · exact onMach_legal l
    · rename_i h; exact onMach_legal (applyImage_legal (passed_checks h).1 (passed_checks h).2 hi l)

/-! ## The journal -/

theorem endStep_legal {k : Nat} {o : StepEnd} {x y : Slice} (h : endStep k o x = some y) (l : LegalRegs x.1) : LegalRegs y.1 := by
  unfold endStep at h
  dsimp only at h
  repeat' (split at h)
  all_goals first
    | contradiction
    | (obtain rfl := Option.some.inj h; first | exact l | exact initRegs_legal l)

theorem nextStep_legal (k : Nat) {x : Slice} (l : LegalRegs x.1) : LegalRegs (nextStep k x).1 := onMach_legal l

/-! ## The commands -/

/-- The registers of the answer are legal. -/
def keepsLegal (o : Host.Outcome State Fault Refusal) : Prop := ∀ t, o = .next t → LegalRegs t.regs

theorem rest_legal {s : State} {x : Slice} (l : LegalRegs x.1) : keepsLegal (.next (rest s x)) := by
  intro t e
  obtain rfl := Host.Outcome.next.inj e
  exact l

theorem next_legal {s : State} {m : Mach} (l : LegalRegs s.regs) : keepsLegal (.next { s with m := m }) := by
  intro t e
  obtain rfl := Host.Outcome.next.inj e
  exact l

theorem frontWrite_legal {row : Nat → BitVec 32 → Bool} {effect : Nat → BitVec 32 → Slice → Slice}
    (he : ∀ off v x, LegalRegs x.1 → LegalRegs (effect off v x).1) {s : State} (l : LegalRegs s.regs) : keepsLegal (frontWrite row effect s) := by
  unfold frontWrite
  split
  · dsimp only
    split
    · exact next_legal l
    · split
      · exact rest_legal l
      · split
        · exact rest_legal (he _ _ _ l)
        · exact next_legal l
  · exact next_legal l

theorem execAliasWrite_legal {s : State} (l : LegalRegs s.regs) : keepsLegal (execAliasWrite s) := by
  unfold execAliasWrite
  generalize (fun (off : Nat) (_ : BitVec 32) => decide (0x80000 ≤ off)) = row
  exact frontWrite_legal (fun off v x l => aliasWrite_legal l off v) l

theorem execImageLoadEnd_legal {s : State} (l : LegalRegs s.regs) (hi : ∀ ld, s.m.img.load = some ld → ld.await = 0 → ImageInRange (stagedLines s.m ld.lines)) :
    keepsLegal (execImageLoadEnd s) := by
  unfold execImageLoadEnd
  split
  · rename_i ld h
    split
    · rename_i h0; exact rest_legal (finishLoad_legal ld (x := (s.regs, s.m)) (hi ld h (by simpa using h0)) l)
    · exact next_legal l
  · exact next_legal l

theorem execJournalStepEnd_legal (o : StepEnd) {s : State} (l : LegalRegs s.regs) : keepsLegal (execJournalStepEnd o s) := by
  unfold execJournalStepEnd
  dsimp only
  split
  · exact next_legal l
  · split
    · exact next_legal l
    · rename_i h
      have l' := endStep_legal h l
      exact rest_legal (by split; exact nextStep_legal _ l'; exact l')

theorem execPowerOnReset_legal (s : State) : keepsLegal (execPowerOnReset s) := by
  intro t e
  obtain rfl := Host.Outcome.next.inj e
  exact resetRegs_legal

theorem execBlockReset_legal {s : State} (l : LegalRegs s.regs) : keepsLegal (execBlockReset s) := by
  intro t e
  obtain rfl := Host.Outcome.next.inj e
  exact blockRegs_legal l

theorem stepInd_legal {g : Regs} (l : LegalRegs g) : LegalRegs (stepInd g) := by
  unfold stepInd
  split
  · exact l.congr rfl rfl rfl rfl rfl rfl rfl rfl rfl rfl rfl rfl
  · exact l

theorem execIndDataRead_legal {s : State} (l : LegalRegs s.regs) : keepsLegal (execIndDataRead s) := by
  unfold execIndDataRead
  split
  · split
    · exact next_legal l
    · dsimp only
      split
      · exact next_legal l
      · exact rest_legal (stepInd_legal l)
  · exact next_legal l

theorem execIndDataWrite_legal {s : State} (l : LegalRegs s.regs) : keepsLegal (execIndDataWrite s) := by
  unfold execIndDataWrite
  split
  · split
    · exact next_legal l
    · dsimp only
      split
      · exact next_legal l
      · exact rest_legal (stepInd_legal (indWrite_legal (x := (s.regs, _)) l _ _))
  · exact next_legal l

theorem execLabelShadowCopy_legal {s : State} (l : LegalRegs s.regs) : keepsLegal (execLabelShadowCopy s) := by
  unfold execLabelShadowCopy
  dsimp only
  split
  · exact next_legal l
  · intro t e
    obtain rfl := Host.Outcome.next.inj e
    exact l.withStores rfl rfl rfl rfl rfl rfl rfl ⟨l.tabs.store, l.tabs.pool, l.tabs.ptab, l.tabs.live, tabSet_wf l.tabs.shadow _ _⟩

end Sys2Proof.Machine
end

