-- ==== Sys2Proof/Laws/Mgmt.lean ====
section
/-!
SUPPORT. The management port: waking the halves of an access, and the write at the front of the queue taken by its row.
-/

namespace Sys2Proof.Machine

/-- Halves that are AWAKE need no waking. -/
theorem wakeHalves_awake {hs : List Half} {m : Mach} (h : ∀ x ∈ hs, (halfAt m x).pw.awake = true) : wakeHalves hs m = m := by
  induction hs with
  | nil => rfl
  | cons x hs ih =>
    have h1 := h x (by simp)
    simp only [wakeHalves, List.foldl_cons, rouse, h1, if_true] at ih ⊢
    exact ih (fun y hy => h y (by simp [hy]))

/-- A demand leaves a half with clocks. -/
theorem clocked_raiseDemand {h x : Half} {m : Mach} (hc : clocked m x = true) : clocked (raiseDemand h m) x = true := by
  revert hc
  obtain ⟨h, hh⟩ := h
  obtain ⟨x, hx⟩ := x
  by_cases e : h = x
  · subst e
    simp only [clocked, raiseDemand, modHalf, setHalf, halfAt, Fin.getElem_fin, Vector.getElem_set_self]
    by_cases h1 : (m.halves[h]).pw.tail = true <;> simp [h1]
  · simp only [clocked, raiseDemand, modHalf, setHalf, halfAt, Fin.getElem_fin]
    rw [Vector.getElem_set_ne _ _ (by simpa using e)]
    exact id

theorem clocked_wakeHalves {hs : List Half} {m : Mach} {x : Half} (hc : clocked m x = true) : clocked (wakeHalves hs m) x = true := by
  induction hs generalizing m with
  | nil => exact hc
  | cons h hs ih =>
    simp only [wakeHalves, List.foldl_cons]
    apply ih
    unfold rouse
    split
    · exact hc
    · exact clocked_raiseDemand hc

/-- A row that takes the write at the front applies it. -/
theorem frontWrite_takes {row : Nat → BitVec 32 → Bool} {effect : Nat → BitVec 32 → Slice → Slice} {off : Nat} {v : BitVec 32} {s : State}
    (hr : row off v = true) (hw : writeAtFront s off v) :
    frontWrite row effect s = .next (rest s (effect off v (s.regs, accessTaken s off))) := by
  obtain ⟨a, q, hq, rfl, hd, hc⟩ := hw
  have : ((neededHalves s.m (wordOff (offsetOf a))).all (clocked (wakeHalves (neededHalves s.m (wordOff (offsetOf a))) s.m))) = true := by
    rw [List.all_eq_true]; intro x hx; exact clocked_wakeHalves (hc x hx)
  simp [frontWrite, hq, hr, hd, this, accessTaken]

/-- A row of the register table is its test and the whole effect of the write. -/
theorem registerRow_exec {c : Instr} {row : Nat → BitVec 32 → Bool} (h : registerRow c = some row) (s : State) :
    exec c s = frontWrite row applyWrite s := by
  cases c <;> first | (simp only [registerRow] at h; contradiction) | (simp only [registerRow, Option.some.injEq] at h; subst h; rfl)

end Sys2Proof.Machine
end

