-- ==== Sys2Proof/Laws/Settle.lean ====
section
/-!
SUPPORT. A slice at rest stays as it is: `settle` is the identity on a calm slice.
-/

namespace Sys2Proof.Machine

theorem settle_of_rest {g : Regs} {m : Mach} (h : settleStep g m = none) : settle g m = m := by
  simp only [settle, settleFuel, settleLoop, h]

theorem settleStep_of_calm {g : Regs} {m : Mach} (h : calm m = true) : settleStep g m = none := by
  simp only [calm, Bool.and_eq_true, List.isEmpty_iff] at h
  obtain ⟨⟨⟨⟨⟨⟨⟨ha, hg⟩, hf⟩, ht⟩, hc⟩, hu⟩, hp⟩, hs⟩ := h
  have hunit : (m.unitDone.find? fun x => takenAtOnce x.1.origin) = none := by
    rw [List.find?_eq_none]
    intro x hx
    simpa using List.all_eq_true.mp hu x hx
  have hport : ∀ p : PortIx, (((portAt m p).departed = false ∧ parseReady m p = false) ∧ (portAt m p).deferred = []) ∧
      canPresent (portAt m p) = false := by
    intro p
    have hp' := List.all_eq_true.mp hp p (by revert p; decide)
    simpa [Bool.and_eq_true, List.isEmpty_iff] using hp'
  have hdep : (allPorts.find? fun p => (portAt m p).departed && !(portReady (portAt m p)).isEmpty) = none := by
    rw [List.find?_eq_none]; intro p _; simp [(hport p).1.1.1]
  have hparse : allPorts.find? (parseReady m) = none := by
    rw [List.find?_eq_none]; intro p _; simp [(hport p).1.1.2]
  have hsnp : allPorts.find? (snoopReady m) = none := by
    rw [List.find?_eq_none]; intro p _; simp [snoopReady, (hport p).1.2]
  have h0 := List.all_eq_true.mp hs 0 (by simp [bothHalves])
  have h1 := List.all_eq_true.mp hs 1 (by simp [bothHalves])
  simp only [Bool.and_eq_true, Option.isNone_iff_eq_none] at h0 h1
  have hsafe : safeWaiting m = none := by simp [safeWaiting, bothHalves, h0.1, h1.1]
  have hclose : (bothHalves.findSome? fun h => (closedNow (halfAt m h)).map fun gid => (h, gid)) = none := by
    simp [bothHalves, h0.2, h1.2]
  have hpres : (allPorts.find? fun p => canPresent (portAt m p)) = none := by
    rw [List.find?_eq_none]; intro p _; simp [(hport p).2]
  simp only [Option.isNone_iff_eq_none] at hc
  simp only [settleStep, ha, hg, hf, hunit, hclose, hdep, hparse, hsnp, ht, List.find?_nil, hc, hsafe, hpres, Option.map_none]

theorem settle_of_calm {g : Regs} {m : Mach} (h : calm m = true) : settle g m = m := settle_of_rest (settleStep_of_calm h)

/-- A command whose effect leaves the slice calm has that effect and no other. -/
theorem run_of_calm {f : Regs → Mach → Mach} {s : State} (h : calm (f s.regs s.m) = true) :
    run f s = .next { s with m := f s.regs s.m } := by
  simp only [run, settle_of_calm h]

end Sys2Proof.Machine
end

