-- ==== Sys2Proof/Laws/Outcome.lean ====
section
/-!
SUPPORT. What the shared shapes of a meaning answer: a next state, with the registers and the queue as they were.
-/

namespace Sys2Proof.Machine

/-- The answer is a next state with the same registers and the same queue of commands. -/
def keepsRegs (s : State) (o : Host.Outcome State Fault Refusal) : Prop :=
  ∃ m', o = .next { s with m := m' }

/-- The answer is a next state with the same queue of commands. -/
def completes (s : State) (o : Host.Outcome State Fault Refusal) : Prop :=
  ∃ g' m', o = .next ⟨g', m', s.pending⟩

theorem keepsRegs.completes {s : State} {o : Host.Outcome State Fault Refusal} (h : keepsRegs s o) : completes s o := by
  obtain ⟨m', rfl⟩ := h
  exact ⟨s.regs, m', rfl⟩

theorem next_keepsRegs (s : State) (m' : Mach) : keepsRegs s (.next { s with m := m' }) := ⟨m', rfl⟩

theorem next_same (s : State) : keepsRegs s (.next s) := ⟨s.m, rfl⟩

theorem run_keepsRegs (f : Regs → Mach → Mach) (s : State) : keepsRegs s (run f s) := ⟨_, rfl⟩

theorem ite_keepsRegs {s : State} {c : Prop} [Decidable c] {a b : Host.Outcome State Fault Refusal}
    (ha : keepsRegs s a) (hb : keepsRegs s b) : keepsRegs s (if c then a else b) := by
  split
  · exact ha
  · exact hb

theorem rest_completes (s : State) (x : Slice) : completes s (.next (rest s x)) := ⟨x.1, _, rfl⟩

theorem frontWrite_completes (row : Nat → BitVec 32 → Bool) (effect : Nat → BitVec 32 → Slice → Slice) (s : State) :
    completes s (frontWrite row effect s) := by
  unfold frontWrite
  split
  · dsimp only
    split
    · exact (next_same s).completes
    · split
      · exact rest_completes s _
      · split
        · exact rest_completes s _
        · exact (next_keepsRegs s _).completes
  · exact (next_same s).completes

theorem message_keepsRegs (k : Fin 3) (src : BitVec 5) (cls : Fin 4) (units : Nat) (mtype : BitVec 6) (a : Addr) (f : Regs → Mach → Mach)
    (s : State) : keepsRegs s (message k src cls units mtype a f s) :=
  ite_keepsRegs (run_keepsRegs _ s) (run_keepsRegs _ s)

theorem memResponse_keepsRegs {α : Type} (c : Half) (f : MemChan → Option α) (k : Regs → α → Mach → Mach) (s : State) :
    keepsRegs s (memResponse c f k s) := run_keepsRegs _ s

theorem helloCommand_keepsRegs (src : HelloSrc) (f : Regs → Mach → Mach) (s : State) : keepsRegs s (helloCommand src f s) :=
  ite_keepsRegs (run_keepsRegs _ s) (run_keepsRegs _ s)

theorem instruction_keepsRegs (code : Nat) (h k : Half) (e : Regs → BitVec 32 → Mach → Mach) (t : Seq → BitVec 32 → Option (BitVec 12))
    (s : State) : keepsRegs s (instruction code h k e t s) := run_keepsRegs _ s


theorem reqBeat_outcome (opc : BitVec 6) (p : PortIx) (b : ReqBeat) (s : State) :
    keepsRegs s (reqBeat opc p b s) ∨ ∃ f, reqBeat opc p b s = .fault f := by
  unfold reqBeat
  try dsimp only
  repeat' (split)
  all_goals first
    | exact .inl (run_keepsRegs _ s)
    | exact .inr ⟨_, rfl⟩

theorem powerEvent_keepsRegs (h : Half) (w : Regs → Mach → Bool) (f : Power → Power) (s : State) : keepsRegs s (powerEvent h w f s) :=
  run_keepsRegs _ s

theorem seqComplete_keepsRegs (h k : Half) (p : Op → Bool) (s : State) : keepsRegs s (seqComplete h k p s) := run_keepsRegs _ s

theorem probeCommand_keepsRegs (p : BitVec 5) (f : Mach → Mach) (s : State) : keepsRegs s (probeCommand p f s) :=
  ite_keepsRegs (run_keepsRegs _ s) (run_keepsRegs _ s)

/-! ## One lemma per meaning -/

theorem execRdNc_outcome (p : PortIx) (b : ReqBeat) (s : State) :
    keepsRegs s (execRdNc p b s) ∨ ∃ f, execRdNc p b s = .fault f := reqBeat_outcome _ _ _ s
theorem execRdS_outcome (p : PortIx) (b : ReqBeat) (s : State) :
    keepsRegs s (execRdS p b s) ∨ ∃ f, execRdS p b s = .fault f := reqBeat_outcome _ _ _ s
theorem execRdU_outcome (p : PortIx) (b : ReqBeat) (s : State) :
    keepsRegs s (execRdU p b s) ∨ ∃ f, execRdU p b s = .fault f := reqBeat_outcome _ _ _ s
theorem execPref_outcome (p : PortIx) (b : ReqBeat) (s : State) :
    keepsRegs s (execPref p b s) ∨ ∃ f, execPref p b s = .fault f := reqBeat_outcome _ _ _ s
theorem execWr_outcome (p : PortIx) (b : ReqBeat) (s : State) :
    keepsRegs s (execWr p b s) ∨ ∃ f, execWr p b s = .fault f := reqBeat_outcome _ _ _ s
theorem execPlace_outcome (p : PortIx) (b : ReqBeat) (s : State) :
    keepsRegs s (execPlace p b s) ∨ ∃ f, execPlace p b s = .fault f := reqBeat_outcome _ _ _ s
theorem execUpg_outcome (p : PortIx) (b : ReqBeat) (s : State) :
    keepsRegs s (execUpg p b s) ∨ ∃ f, execUpg p b s = .fault f := reqBeat_outcome _ _ _ s
theorem execEvict_outcome (p : PortIx) (b : ReqBeat) (s : State) :
    keepsRegs s (execEvict p b s) ∨ ∃ f, execEvict p b s = .fault f := reqBeat_outcome _ _ _ s
theorem execAtomR_outcome (p : PortIx) (b : ReqBeat) (s : State) :
    keepsRegs s (execAtomR p b s) ∨ ∃ f, execAtomR p b s = .fault f := reqBeat_outcome _ _ _ s
theorem execAtomN_outcome (p : PortIx) (b : ReqBeat) (s : State) :
    keepsRegs s (execAtomN p b s) ∨ ∃ f, execAtomN p b s = .fault f := reqBeat_outcome _ _ _ s
theorem execAddl_outcome (p : PortIx) (b : ReqBeat) (s : State) :
    keepsRegs s (execAddl p b s) ∨ ∃ f, execAddl p b s = .fault f := reqBeat_outcome _ _ _ s
theorem execGrpOpen_outcome (p : PortIx) (b : ReqBeat) (s : State) :
    keepsRegs s (execGrpOpen p b s) ∨ ∃ f, execGrpOpen p b s = .fault f := reqBeat_outcome _ _ _ s
theorem execGrpContrib_outcome (p : PortIx) (b : ReqBeat) (s : State) :
    keepsRegs s (execGrpContrib p b s) ∨ ∃ f, execGrpContrib p b s = .fault f := reqBeat_outcome _ _ _ s
theorem execGrpAbort_outcome (p : PortIx) (b : ReqBeat) (s : State) :
    keepsRegs s (execGrpAbort p b s) ∨ ∃ f, execGrpAbort p b s = .fault f := reqBeat_outcome _ _ _ s
theorem execCtrAdd_outcome (p : PortIx) (b : ReqBeat) (s : State) :
    keepsRegs s (execCtrAdd p b s) ∨ ∃ f, execCtrAdd p b s = .fault f := reqBeat_outcome _ _ _ s
theorem execCtrRead_outcome (p : PortIx) (b : ReqBeat) (s : State) :
    keepsRegs s (execCtrRead p b s) ∨ ∃ f, execCtrRead p b s = .fault f := reqBeat_outcome _ _ _ s
theorem execCtrReset_outcome (p : PortIx) (b : ReqBeat) (s : State) :
    keepsRegs s (execCtrReset p b s) ∨ ∃ f, execCtrReset p b s = .fault f := reqBeat_outcome _ _ _ s
theorem execWait_outcome (p : PortIx) (b : ReqBeat) (s : State) :
    keepsRegs s (execWait p b s) ∨ ∃ f, execWait p b s = .fault f := reqBeat_outcome _ _ _ s
theorem execInvoke_outcome (p : PortIx) (b : ReqBeat) (s : State) :
    keepsRegs s (execInvoke p b s) ∨ ∃ f, execInvoke p b s = .fault f := reqBeat_outcome _ _ _ s
theorem execCln_outcome (p : PortIx) (b : ReqBeat) (s : State) :
    keepsRegs s (execCln p b s) ∨ ∃ f, execCln p b s = .fault f := reqBeat_outcome _ _ _ s
theorem execInv_outcome (p : PortIx) (b : ReqBeat) (s : State) :
    keepsRegs s (execInv p b s) ∨ ∃ f, execInv p b s = .fault f := reqBeat_outcome _ _ _ s
theorem execClninv_outcome (p : PortIx) (b : ReqBeat) (s : State) :
    keepsRegs s (execClninv p b s) ∨ ∃ f, execClninv p b s = .fault f := reqBeat_outcome _ _ _ s
theorem execZero_outcome (p : PortIx) (b : ReqBeat) (s : State) :
    keepsRegs s (execZero p b s) ∨ ∃ f, execZero p b s = .fault f := reqBeat_outcome _ _ _ s
theorem execWdBeat_outcome (p : PortIx) (b : WdBeat) (s : State) :
    keepsRegs s (execWdBeat p b s) ∨ ∃ f, execWdBeat p b s = .fault f := by
  unfold execWdBeat
  try dsimp only
  repeat' (split)
  all_goals first
    | exact .inl (run_keepsRegs _ s)
    | exact .inr ⟨_, rfl⟩
theorem execSrsp_outcome (p : PortIx) (stxn : BitVec 8) (had : Bool) (s : State) :
    keepsRegs s (execSrsp p stxn had s) ∨ ∃ f, execSrsp p stxn had s = .fault f := by
  unfold execSrsp
  try dsimp only
  repeat' (split)
  all_goals first
    | exact .inl (run_keepsRegs _ s)
    | exact .inr ⟨_, rfl⟩
theorem execCompletionTransfer_keepsRegs (p : PortIx) (c : Chan) (s : State) : keepsRegs s (execCompletionTransfer p c s) := run_keepsRegs _ s
theorem execCreditReturn_keepsRegs (p : PortIx) (c : Pool) (s : State) : keepsRegs s (execCreditReturn p c s) := run_keepsRegs _ s
theorem execHoldRelease_keepsRegs (p : PortIx) (s : State) : keepsRegs s (execHoldRelease p s) := run_keepsRegs _ s
theorem execBucketRefill_keepsRegs (s : State) : keepsRegs s (execBucketRefill s) := run_keepsRegs _ s
theorem execOrderPointWaitEnd_keepsRegs (h : Half) (s : State) : keepsRegs s (execOrderPointWaitEnd h s) := run_keepsRegs _ s
theorem execSnoopTimeout_keepsRegs (p : PortIx) (stxn : BitVec 8) (s : State) : keepsRegs s (execSnoopTimeout p stxn s) := run_keepsRegs _ s
theorem execHoldWindowEnd_keepsRegs (h : Half) (l : LineAddr) (s : State) : keepsRegs s (execHoldWindowEnd h l s) := run_keepsRegs _ s
theorem execMissWaitRelease_keepsRegs (h : Half) (s : State) : keepsRegs s (execMissWaitRelease h s) := run_keepsRegs _ s
theorem execMemCmdIssue_keepsRegs (h : Half) (s : State) : keepsRegs s (execMemCmdIssue h s) := run_keepsRegs _ s
theorem execMsgCreditReturn_outcome (k : LinkIx) (hcrd : BitVec 4) (dcrd : BitVec 12) (s : State) :
    keepsRegs s (execMsgCreditReturn k hcrd dcrd s) ∨ ∃ f, execMsgCreditReturn k hcrd dcrd s = .fault f := by
  unfold execMsgCreditReturn
  try dsimp only
  repeat' (split)
  all_goals first
    | exact .inl (run_keepsRegs _ s)
    | exact .inr ⟨_, rfl⟩
theorem execMemReadResponse_keepsRegs (c : Half) (tag : BitVec 9) (ok : Bool) (d : Line) (s : State) : keepsRegs s (execMemReadResponse c tag ok d s) := by
  unfold execMemReadResponse
  exact memResponse_keepsRegs _ _ _ s
theorem execMemWriteResponse_keepsRegs (c : Half) (tag : BitVec 9) (ok : Bool) (s : State) : keepsRegs s (execMemWriteResponse c tag ok s) := by
  unfold execMemWriteResponse
  exact memResponse_keepsRegs _ _ _ s
theorem execMemAtomicResponse_keepsRegs (c : Half) (tag : BitVec 9) (ok : Bool) (old : BitVec 64) (s : State) : keepsRegs s (execMemAtomicResponse c tag ok old s) := by
  unfold execMemAtomicResponse
  exact memResponse_keepsRegs _ _ _ s
theorem execFillInstall_keepsRegs (h : Half) (l : LineAddr) (s : State) : keepsRegs s (execFillInstall h l s) := run_keepsRegs _ s
theorem execVictimRecall_keepsRegs (h : Half) (l : LineAddr) (s : State) : keepsRegs s (execVictimRecall h l s) := run_keepsRegs _ s
theorem execMergeEntryTimeout_keepsRegs (h : Half) (l : LineAddr) (sec : Fin 4) (s : State) : keepsRegs s (execMergeEntryTimeout h l sec s) := run_keepsRegs _ s
theorem execMergeDrainEnd_keepsRegs (h : Half) (l : LineAddr) (sec : Fin 4) (s : State) : keepsRegs s (execMergeDrainEnd h l sec s) := run_keepsRegs _ s
theorem execPackMoveOut_keepsRegs (h : Half) (l : LineAddr) (s : State) : keepsRegs s (execPackMoveOut h l s) := run_keepsRegs _ s
theorem execPackMoveEnd_keepsRegs (h : Half) (l : LineAddr) (s : State) : keepsRegs s (execPackMoveEnd h l s) := run_keepsRegs _ s
theorem execBellowsPrefetch_keepsRegs (h : Half) (s : State) : keepsRegs s (execBellowsPrefetch h s) := run_keepsRegs _ s
theorem execFwd_keepsRegs (m : FwdMsg) (s : State) : keepsRegs s (execFwd m s) := by
  unfold execFwd
  exact message_keepsRegs _ _ _ _ _ _ _ s
theorem execCmpl_keepsRegs (m : CmplMsg) (s : State) : keepsRegs s (execCmpl m s) := by
  unfold execCmpl
  exact message_keepsRegs _ _ _ _ _ _ _ s
theorem execSnpf_keepsRegs (m : SnpfMsg) (s : State) : keepsRegs s (execSnpf m s) := message_keepsRegs _ _ _ _ _ _ _ s
theorem execSrspf_keepsRegs (m : SrspfMsg) (s : State) : keepsRegs s (execSrspf m s) := message_keepsRegs _ _ _ _ _ _ _ s
theorem execXreq_keepsRegs (m : XreqMsg) (s : State) : keepsRegs s (execXreq m s) := message_keepsRegs _ _ _ _ _ _ _ s
theorem execXwb_keepsRegs (m : XwbMsg) (s : State) : keepsRegs s (execXwb m s) := message_keepsRegs _ _ _ _ _ _ _ s
theorem execXsnp_keepsRegs (m : XsnpMsg) (s : State) : keepsRegs s (execXsnp m s) := message_keepsRegs _ _ _ _ _ _ _ s
theorem execXrsp_keepsRegs (m : XrspMsg) (s : State) : keepsRegs s (execXrsp m s) := message_keepsRegs _ _ _ _ _ _ _ s
theorem execHello_keepsRegs (src : HelloSrc) (w : BitVec 64) (s : State) : keepsRegs s (execHello src w s) := helloCommand_keepsRegs _ _ s
theorem execJoin_keepsRegs (src : HelloSrc) (w : BitVec 64) (s : State) : keepsRegs s (execJoin src w s) := helloCommand_keepsRegs _ _ s
theorem execBye_keepsRegs (src : HelloSrc) (w : BitVec 64) (s : State) : keepsRegs s (execBye src w s) := helloCommand_keepsRegs _ _ s
theorem execHelloRepeat_keepsRegs (src : HelloSrc) (s : State) : keepsRegs s (execHelloRepeat src s) := run_keepsRegs _ s
theorem execReclaimNotice_keepsRegs (ch : Half) (sslice : BitVec 5) (w : BitVec 64) (s : State) : keepsRegs s (execReclaimNotice ch sslice w s) := message_keepsRegs _ _ _ _ _ _ _ s
theorem execReclaimAnswer_keepsRegs (ch : Half) (sslice : BitVec 5) (w : BitVec 64) (s : State) : keepsRegs s (execReclaimAnswer ch sslice w s) := message_keepsRegs _ _ _ _ _ _ _ s
theorem execReclaimWalkStep_keepsRegs (h : Half) (s : State) : keepsRegs s (execReclaimWalkStep h s) := run_keepsRegs _ s
theorem execLnkUpFall_keepsRegs (ch : Fin 3) (s : State) : keepsRegs s (execLnkUpFall ch s) := run_keepsRegs _ s
theorem execCounterReport_keepsRegs (s : State) : keepsRegs s (execCounterReport s) := run_keepsRegs _ s
theorem execWaitRelease_keepsRegs (s : State) : keepsRegs s (execWaitRelease s) := run_keepsRegs _ s
theorem execMgmtWrite_keepsRegs (a : BitVec 18) (v : BitVec 32) (mclk : Nat) (s : State) : keepsRegs s (execMgmtWrite a v mclk s) := by
  unfold execMgmtWrite
  try dsimp only
  repeat' (split)
  all_goals first
    | exact run_keepsRegs _ s
    | exact ⟨_, rfl⟩
theorem execMgmtRead_keepsRegs (a : BitVec 18) (s : State) : keepsRegs s (execMgmtRead a s) := by
  unfold execMgmtRead
  try dsimp only
  repeat' (split)
  all_goals first
    | exact run_keepsRegs _ s
    | exact ⟨_, rfl⟩
theorem execRegWrite_completes (s : State) : completes s (execRegWrite s) := frontWrite_completes _ _ s
theorem execAliasWrite_completes (s : State) : completes s (execAliasWrite s) := frontWrite_completes _ _ s
theorem execProfileSet_completes (s : State) : completes s (execProfileSet s) := frontWrite_completes _ _ s
theorem execPortDisable_completes (s : State) : completes s (execPortDisable s) := frontWrite_completes _ _ s
theorem execPortEnable_completes (s : State) : completes s (execPortEnable s) := frontWrite_completes _ _ s
theorem execHcCmpWrite_completes (s : State) : completes s (execHcCmpWrite s) := frontWrite_completes _ _ s
theorem execHcBlwWrite_completes (s : State) : completes s (execHcBlwWrite s) := frontWrite_completes _ _ s
theorem execCacheDisable_completes (s : State) : completes s (execCacheDisable s) := frontWrite_completes _ _ s
theorem execCacheEnable_completes (s : State) : completes s (execCacheEnable s) := frontWrite_completes _ _ s
theorem execWayUseWrite_completes (s : State) : completes s (execWayUseWrite s) := frontWrite_completes _ _ s
theorem execMaskWrite_completes (s : State) : completes s (execMaskWrite s) := frontWrite_completes _ _ s
theorem execHrCtlWrite_completes (s : State) : completes s (execHrCtlWrite s) := frontWrite_completes _ _ s
theorem execReCln_completes (s : State) : completes s (execReCln s) := frontWrite_completes _ _ s
theorem execReInv_completes (s : State) : completes s (execReInv s) := frontWrite_completes _ _ s
theorem execReClninv_completes (s : State) : completes s (execReClninv s) := frontWrite_completes _ _ s
theorem execReZero_completes (s : State) : completes s (execReZero s) := frontWrite_completes _ _ s
theorem execRePin_completes (s : State) : completes s (execRePin s) := frontWrite_completes _ _ s
theorem execReUnpin_completes (s : State) : completes s (execReUnpin s) := frontWrite_completes _ _ s
theorem execReAbort_completes (s : State) : completes s (execReAbort s) := frontWrite_completes _ _ s
theorem execReAck_completes (s : State) : completes s (execReAck s) := frontWrite_completes _ _ s
theorem execReLineVisit_keepsRegs (h : Half) (s : State) : keepsRegs s (execReLineVisit h s) := run_keepsRegs _ s
theorem execReComplete_keepsRegs (s : State) : keepsRegs s (execReComplete s) := run_keepsRegs _ s
theorem execCohCtlWrite_completes (s : State) : completes s (execCohCtlWrite s) := frontWrite_completes _ _ s
theorem execCohPredMode_completes (s : State) : completes s (execCohPredMode s) := frontWrite_completes _ _ s
theorem execCohPredRst_completes (s : State) : completes s (execCohPredRst s) := frontWrite_completes _ _ s
theorem execIdxInstWrite_completes (s : State) : completes s (execIdxInstWrite s) := frontWrite_completes _ _ s
theorem execCtrOwnWrite_completes (s : State) : completes s (execCtrOwnWrite s) := frontWrite_completes _ _ s
theorem execArbCtlWrite_completes (s : State) : completes s (execArbCtlWrite s) := frontWrite_completes _ _ s
theorem execCtrCmdReset_completes (s : State) : completes s (execCtrCmdReset s) := frontWrite_completes _ _ s
theorem execAOpen_keepsRegs (h k : Half) (s : State) : keepsRegs s (execAOpen h k s) := run_keepsRegs _ s
theorem execAMma_keepsRegs (h k : Half) (s : State) : keepsRegs s (execAMma h k s) := run_keepsRegs _ s
theorem execAReduce_keepsRegs (h k : Half) (s : State) : keepsRegs s (execAReduce h k s) := run_keepsRegs _ s
theorem execADrain_keepsRegs (h k : Half) (s : State) : keepsRegs s (execADrain h k s) := run_keepsRegs _ s
theorem execADiscard_keepsRegs (h k : Half) (s : State) : keepsRegs s (execADiscard h k s) := run_keepsRegs _ s
theorem execFeedReadComplete_keepsRegs (h : Half) (s : State) : keepsRegs s (execFeedReadComplete h s) := run_keepsRegs _ s
theorem execAnvilSpill_keepsRegs (h : Half) (s : State) : keepsRegs s (execAnvilSpill h s) := run_keepsRegs _ s
theorem execAnvilOverflow_keepsRegs (h : Half) (s : State) : keepsRegs s (execAnvilOverflow h s) := run_keepsRegs _ s
theorem execAnvilOpComplete_keepsRegs (h : Half) (s : State) : keepsRegs s (execAnvilOpComplete h s) := run_keepsRegs _ s
theorem execDrainWriteComplete_keepsRegs (h : Half) (s : State) : keepsRegs s (execDrainWriteComplete h s) := run_keepsRegs _ s
theorem execAnvCtlWrite_completes (s : State) : completes s (execAnvCtlWrite s) := frontWrite_completes _ _ s
theorem execDetCtlWrite_completes (s : State) : completes s (execDetCtlWrite s) := frontWrite_completes _ _ s
theorem execGrpCmdAbort_completes (s : State) : completes s (execGrpCmdAbort s) := frontWrite_completes _ _ s
theorem execInvokeDispatch_keepsRegs (h : Half) (s : State) : keepsRegs s (execInvokeDispatch h s) := run_keepsRegs _ s
theorem execINop_keepsRegs (h k : Half) (s : State) : keepsRegs s (execINop h k s) := instruction_keepsRegs _ _ _ _ _ s
theorem execIMovi_keepsRegs (h k : Half) (s : State) : keepsRegs s (execIMovi h k s) := instruction_keepsRegs _ _ _ _ _ s
theorem execIAddi_keepsRegs (h k : Half) (s : State) : keepsRegs s (execIAddi h k s) := instruction_keepsRegs _ _ _ _ _ s
theorem execIAdd_keepsRegs (h k : Half) (s : State) : keepsRegs s (execIAdd h k s) := instruction_keepsRegs _ _ _ _ _ s
theorem execISub_keepsRegs (h k : Half) (s : State) : keepsRegs s (execISub h k s) := instruction_keepsRegs _ _ _ _ _ s
theorem execIAnd_keepsRegs (h k : Half) (s : State) : keepsRegs s (execIAnd h k s) := instruction_keepsRegs _ _ _ _ _ s
theorem execIOr_keepsRegs (h k : Half) (s : State) : keepsRegs s (execIOr h k s) := instruction_keepsRegs _ _ _ _ _ s
theorem execIXor_keepsRegs (h k : Half) (s : State) : keepsRegs s (execIXor h k s) := instruction_keepsRegs _ _ _ _ _ s
theorem execIShli_keepsRegs (h k : Half) (s : State) : keepsRegs s (execIShli h k s) := instruction_keepsRegs _ _ _ _ _ s
theorem execIShri_keepsRegs (h k : Half) (s : State) : keepsRegs s (execIShri h k s) := instruction_keepsRegs _ _ _ _ _ s
theorem execIMul_keepsRegs (h k : Half) (s : State) : keepsRegs s (execIMul h k s) := instruction_keepsRegs _ _ _ _ _ s
theorem execILdp_keepsRegs (h k : Half) (s : State) : keepsRegs s (execILdp h k s) := instruction_keepsRegs _ _ _ _ _ s
theorem execIBeq_keepsRegs (h k : Half) (s : State) : keepsRegs s (execIBeq h k s) := instruction_keepsRegs _ _ _ _ _ s
theorem execIBne_keepsRegs (h k : Half) (s : State) : keepsRegs s (execIBne h k s) := instruction_keepsRegs _ _ _ _ _ s
theorem execIBltu_keepsRegs (h k : Half) (s : State) : keepsRegs s (execIBltu h k s) := instruction_keepsRegs _ _ _ _ _ s
theorem execIJmp_keepsRegs (h k : Half) (s : State) : keepsRegs s (execIJmp h k s) := instruction_keepsRegs _ _ _ _ _ s
theorem execISetc_keepsRegs (h k : Half) (s : State) : keepsRegs s (execISetc h k s) := instruction_keepsRegs _ _ _ _ _ s
theorem execISetci_keepsRegs (h k : Half) (s : State) : keepsRegs s (execISetci h k s) := instruction_keepsRegs _ _ _ _ _ s
theorem execILoop_keepsRegs (h k : Half) (s : State) : keepsRegs s (execILoop h k s) := instruction_keepsRegs _ _ _ _ _ s
theorem execILd_keepsRegs (h k : Half) (s : State) : keepsRegs s (execILd h k s) := instruction_keepsRegs _ _ _ _ _ s
theorem execLdComplete_keepsRegs (h k : Half) (s : State) : keepsRegs s (execLdComplete h k s) := seqComplete_keepsRegs _ _ _ s
theorem execISt_keepsRegs (h k : Half) (s : State) : keepsRegs s (execISt h k s) := instruction_keepsRegs _ _ _ _ _ s
theorem execIFence_keepsRegs (h k : Half) (s : State) : keepsRegs s (execIFence h k s) := instruction_keepsRegs _ _ _ _ _ s
theorem execICadd_keepsRegs (h k : Half) (s : State) : keepsRegs s (execICadd h k s) := instruction_keepsRegs _ _ _ _ _ s
theorem execICwait_keepsRegs (h k : Half) (s : State) : keepsRegs s (execICwait h k s) := instruction_keepsRegs _ _ _ _ _ s
theorem execICread_keepsRegs (h k : Half) (s : State) : keepsRegs s (execICread h k s) := instruction_keepsRegs _ _ _ _ _ s
theorem execICrst_keepsRegs (h k : Half) (s : State) : keepsRegs s (execICrst h k s) := instruction_keepsRegs _ _ _ _ _ s
theorem execProgramReqComplete_keepsRegs (h k : Half) (s : State) : keepsRegs s (execProgramReqComplete h k s) := seqComplete_keepsRegs _ _ _ s
theorem execIDcopy_keepsRegs (h k : Half) (s : State) : keepsRegs s (execIDcopy h k s) := instruction_keepsRegs _ _ _ _ _ s
theorem execIDset_keepsRegs (h k : Half) (s : State) : keepsRegs s (execIDset h k s) := instruction_keepsRegs _ _ _ _ _ s
theorem execIIssue_keepsRegs (h k : Half) (s : State) : keepsRegs s (execIIssue h k s) := instruction_keepsRegs _ _ _ _ _ s
theorem execIOpwait_keepsRegs (h k : Half) (s : State) : keepsRegs s (execIOpwait h k s) := instruction_keepsRegs _ _ _ _ _ s
theorem execIEnd_keepsRegs (h k : Half) (s : State) : keepsRegs s (execIEnd h k s) := instruction_keepsRegs _ _ _ _ _ s
theorem execEndComplete_keepsRegs (h k : Half) (s : State) : keepsRegs s (execEndComplete h k s) := run_keepsRegs _ s
theorem execSeqFaultComplete_keepsRegs (h k : Half) (s : State) : keepsRegs s (execSeqFaultComplete h k s) := run_keepsRegs _ s
theorem execSeqEnable_completes (s : State) : completes s (execSeqEnable s) := frontWrite_completes _ _ s
theorem execSeqKill_completes (s : State) : completes s (execSeqKill s) := frontWrite_completes _ _ s
theorem execImageLoad_completes (s : State) : completes s (execImageLoad s) := frontWrite_completes _ _ s
theorem execImageLoadEnd_completes (s : State) : completes s (execImageLoadEnd s) := by
  unfold execImageLoadEnd
  try dsimp only
  repeat' (split)
  all_goals exact ⟨_, _, rfl⟩
theorem execLblSwap_completes (s : State) : completes s (execLblSwap s) := frontWrite_completes _ _ s
theorem execSvcCtlWrite_completes (s : State) : completes s (execSvcCtlWrite s) := frontWrite_completes _ _ s
theorem execClassDescWrite_completes (s : State) : completes s (execClassDescWrite s) := frontWrite_completes _ _ s
theorem execClassBucketRefill_keepsRegs (h : Half) (s : State) : keepsRegs s (execClassBucketRefill h s) := run_keepsRegs _ s
theorem execEccWriteback_keepsRegs (h : Half) (s : State) : keepsRegs s (execEccWriteback h s) := run_keepsRegs _ s
theorem execEccRecheck_keepsRegs (h : Half) (s : State) : keepsRegs s (execEccRecheck h s) := run_keepsRegs _ s
theorem execStructVote_keepsRegs (h : Half) (s : State) : keepsRegs s (execStructVote h s) := run_keepsRegs _ s
theorem execRasForce_completes (s : State) : completes s (execRasForce s) := frontWrite_completes _ _ s
theorem execRasInjArm_completes (s : State) : completes s (execRasInjArm s) := frontWrite_completes _ _ s
theorem execRasInjDisarm_completes (s : State) : completes s (execRasInjDisarm s) := frontWrite_completes _ _ s
theorem execRmRemap_completes (s : State) : completes s (execRmRemap s) := frontWrite_completes _ _ s
theorem execRmRelease_completes (s : State) : completes s (execRmRelease s) := frontWrite_completes _ _ s
theorem execRemapCopy_keepsRegs (h : Half) (s : State) : keepsRegs s (execRemapCopy h s) := run_keepsRegs _ s
theorem execQnGo_completes (s : State) : completes s (execQnGo s) := frontWrite_completes _ _ s
theorem execQnAbort_completes (s : State) : completes s (execQnAbort s) := frontWrite_completes _ _ s
theorem execQnAck_completes (s : State) : completes s (execQnAck s) := frontWrite_completes _ _ s
theorem execQuenchRead_keepsRegs (h : Half) (s : State) : keepsRegs s (execQuenchRead h s) := run_keepsRegs _ s
theorem execStopIdleExpiry_keepsRegs (h : Half) (s : State) : keepsRegs s (execStopIdleExpiry h s) := powerEvent_keepsRegs _ _ _ s
theorem execStopTailExpiry_keepsRegs (h : Half) (s : State) : keepsRegs s (execStopTailExpiry h s) := powerEvent_keepsRegs _ _ _ s
theorem execRetEntry_keepsRegs (h : Half) (s : State) : keepsRegs s (execRetEntry h s) := powerEvent_keepsRegs _ _ _ s
theorem execDemandSample_keepsRegs (h : Half) (s : State) : keepsRegs s (execDemandSample h s) := powerEvent_keepsRegs _ _ _ s
theorem execPackRise_keepsRegs (h : Half) (s : State) : keepsRegs s (execPackRise h s) := run_keepsRegs _ s
theorem execCkackRise_keepsRegs (h : Half) (s : State) : keepsRegs s (execCkackRise h s) := powerEvent_keepsRegs _ _ _ s
theorem execClockStartDone_keepsRegs (h : Half) (s : State) : keepsRegs s (execClockStartDone h s) := by
  unfold execClockStartDone
  try dsimp only
  repeat' (split)
  all_goals first
    | exact run_keepsRegs _ s
    | exact ⟨_, rfl⟩
theorem execPackTimeout_keepsRegs (h : Half) (s : State) : keepsRegs s (execPackTimeout h s) := powerEvent_keepsRegs _ _ _ s
theorem execPwrCtlWrite_completes (s : State) : completes s (execPwrCtlWrite s) := frontWrite_completes _ _ s
theorem execPowerOnReset_completes (s : State) : completes s (execPowerOnReset s) := ⟨_, _, rfl⟩
theorem execBlockReset_completes (s : State) : completes s (execBlockReset s) := ⟨_, _, rfl⟩
theorem execJournalStart_keepsRegs (st : Straps) (s : State) : keepsRegs s (execJournalStart st s) := by
  unfold execJournalStart
  try dsimp only
  repeat' (split)
  all_goals first
    | exact run_keepsRegs _ s
    | exact ⟨_, rfl⟩
theorem execJournalStepEnd_completes (o : StepEnd) (s : State) : completes s (execJournalStepEnd o s) := by
  unfold execJournalStepEnd
  try dsimp only
  repeat' (split)
  all_goals exact ⟨_, _, rfl⟩
theorem execPortReset_keepsRegs (p : PortIx) (s : State) : keepsRegs s (execPortReset p s) := run_keepsRegs _ s
theorem execJrnClr_completes (s : State) : completes s (execJrnClr s) := frontWrite_completes _ _ s
theorem execViReset_completes (s : State) : completes s (execViReset s) := frontWrite_completes _ _ s
theorem execViFreeze_completes (s : State) : completes s (execViFreeze s) := frontWrite_completes _ _ s
theorem execViThaw_completes (s : State) : completes s (execViThaw s) := frontWrite_completes _ _ s
theorem execViSave_completes (s : State) : completes s (execViSave s) := frontWrite_completes _ _ s
theorem execViRestore_completes (s : State) : completes s (execViRestore s) := frontWrite_completes _ _ s
theorem execViCmdDone_keepsRegs (s : State) : keepsRegs s (execViCmdDone s) := run_keepsRegs _ s
theorem execViEnable_completes (s : State) : completes s (execViEnable s) := frontWrite_completes _ _ s
theorem execViWctlWrite_completes (s : State) : completes s (execViWctlWrite s) := frontWrite_completes _ _ s
theorem execDlEnable_completes (s : State) : completes s (execDlEnable s) := frontWrite_completes _ _ s
theorem execDlSwitch_completes (s : State) : completes s (execDlSwitch s) := frontWrite_completes _ _ s
theorem execDlOrComplete_keepsRegs (s : State) : keepsRegs s (execDlOrComplete s) := run_keepsRegs _ s
theorem execSyncPulse_keepsRegs (s : State) : keepsRegs s (execSyncPulse s) := ⟨_, rfl⟩
theorem execTsArm_completes (s : State) : completes s (execTsArm s) := frontWrite_completes _ _ s
theorem execOfsRemeasure_completes (s : State) : completes s (execOfsRemeasure s) := frontWrite_completes _ _ s
theorem execTsProbeRequest_keepsRegs (schip : BitVec 5) (t1 : BitVec 64) (s : State) : keepsRegs s (execTsProbeRequest schip t1 s) := probeCommand_keepsRegs _ _ s
theorem execTsProbeReply_keepsRegs (schip : BitVec 5) (t2 : BitVec 64) (dt : BitVec 32) (s : State) : keepsRegs s (execTsProbeReply schip t2 dt s) := probeCommand_keepsRegs _ _ s
theorem execProbeTimeout_keepsRegs (s : State) : keepsRegs s (execProbeTimeout s) := run_keepsRegs _ s
theorem execBreakpointHit_keepsRegs (h k : Half) (s : State) : keepsRegs s (execBreakpointHit h k s) := run_keepsRegs _ s
theorem execSeqHalt_completes (s : State) : completes s (execSeqHalt s) := frontWrite_completes _ _ s
theorem execSeqResume_completes (s : State) : completes s (execSeqResume s) := frontWrite_completes _ _ s
theorem execSeqStep_completes (s : State) : completes s (execSeqStep s) := frontWrite_completes _ _ s
theorem execTrcArm_completes (s : State) : completes s (execTrcArm s) := frontWrite_completes _ _ s
theorem execTrcTrig_completes (s : State) : completes s (execTrcTrig s) := frontWrite_completes _ _ s
theorem execTrcAck_completes (s : State) : completes s (execTrcAck s) := frontWrite_completes _ _ s
theorem execTraceCaptureEnd_keepsRegs (h : Half) (s : State) : keepsRegs s (execTraceCaptureEnd h s) := ⟨_, rfl⟩
theorem execPfClr_completes (s : State) : completes s (execPfClr s) := frontWrite_completes _ _ s
theorem execMbGo_completes (s : State) : completes s (execMbGo s) := frontWrite_completes _ _ s
theorem execMbAck_completes (s : State) : completes s (execMbAck s) := frontWrite_completes _ _ s
theorem execDbgMbselWrite_completes (s : State) : completes s (execDbgMbselWrite s) := frontWrite_completes _ _ s
theorem execMailboxCaptureDone_keepsRegs (s : State) : keepsRegs s (execMailboxCaptureDone s) := by
  unfold execMailboxCaptureDone
  try dsimp only
  repeat' (split)
  all_goals first
    | exact run_keepsRegs _ s
    | exact ⟨_, rfl⟩
theorem execDmpArm_completes (s : State) : completes s (execDmpArm s) := frontWrite_completes _ _ s
theorem execDmpAck_completes (s : State) : completes s (execDmpAck s) := frontWrite_completes _ _ s
theorem execDumpCopyDone_keepsRegs (s : State) : keepsRegs s (execDumpCopyDone s) := run_keepsRegs _ s
theorem execGsGo_completes (s : State) : completes s (execGsGo s) := frontWrite_completes _ _ s
theorem execGsArm_completes (s : State) : completes s (execGsArm s) := frontWrite_completes _ _ s
theorem execGsResume_completes (s : State) : completes s (execGsResume s) := frontWrite_completes _ _ s
theorem execIndDataRead_completes (s : State) : completes s (execIndDataRead s) := by
  unfold execIndDataRead
  try dsimp only
  repeat' (split)
  all_goals exact ⟨_, _, rfl⟩
theorem execIndDataWrite_completes (s : State) : completes s (execIndDataWrite s) := by
  unfold execIndDataWrite
  try dsimp only
  repeat' (split)
  all_goals exact ⟨_, _, rfl⟩
theorem execTimestampTick_keepsRegs (s : State) : keepsRegs s (execTimestampTick s) := ⟨_, rfl⟩
theorem execProfilingCycle_keepsRegs (h : Half) (s : State) : keepsRegs s (execProfilingCycle h s) := by
  unfold execProfilingCycle
  try dsimp only
  repeat' (split)
  all_goals first
    | exact run_keepsRegs _ s
    | exact ⟨_, rfl⟩
theorem execSweepFrame_keepsRegs (h : Half) (s : State) : keepsRegs s (execSweepFrame h s) := run_keepsRegs _ s
theorem execLabelShadowCopy_completes (s : State) : completes s (execLabelShadowCopy s) := by
  unfold execLabelShadowCopy
  try dsimp only
  repeat' (split)
  all_goals exact ⟨_, _, rfl⟩
theorem execLnkUpRise_keepsRegs (ch : Fin 3) (s : State) : keepsRegs s (execLnkUpRise ch s) := run_keepsRegs _ s
theorem execReservedOpcode_outcome (p : PortIx) (opc : BitVec 6) (b : ReqBeat) (s : State) :
    keepsRegs s (execReservedOpcode p opc b s) ∨ ∃ f, execReservedOpcode p opc b s = .fault f := reqBeat_outcome _ _ _ s
theorem execReservedAnvilOp_keepsRegs (h k : Half) (s : State) : keepsRegs s (execReservedAnvilOp h k s) := run_keepsRegs _ s
theorem execReservedInstruction_keepsRegs (h k : Half) (s : State) : keepsRegs s (execReservedInstruction h k s) := run_keepsRegs _ s

end Sys2Proof.Machine
end

