-- ==== Sys2Proof/Laws/State.lean ====
section
/-!
SUPPORT. The small lemmas of the named updates of the state: what each update leaves as it was, and what it reads back. They are true by
definition and let no later proof unfold a record update.
-/

namespace Sys2Proof.Machine

variable (m : Mach)


/-! ## setHalf -/

@[simp] theorem setHalf_nextId (h : Half) (x : HalfSt) : (setHalf h x m).nextId = m.nextId := rfl
@[simp] theorem setHalf_freeCtr (h : Half) (x : HalfSt) : (setHalf h x m).freeCtr = m.freeCtr := rfl
@[simp] theorem setHalf_out (h : Half) (x : HalfSt) : (setHalf h x m).out = m.out := rfl
@[simp] theorem setHalf_todo (h : Half) (x : HalfSt) : (setHalf h x m).todo = m.todo := rfl
@[simp] theorem setHalf_unitDone (h : Half) (x : HalfSt) : (setHalf h x m).unitDone = m.unitDone := rfl
@[simp] theorem setHalf_finished (h : Half) (x : HalfSt) : (setHalf h x m).finished = m.finished := rfl
@[simp] theorem setHalf_answers (h : Half) (x : HalfSt) : (setHalf h x m).answers = m.answers := rfl
@[simp] theorem setHalf_again (h : Half) (x : HalfSt) : (setHalf h x m).again = m.again := rfl
@[simp] theorem setHalf_ports (h : Half) (x : HalfSt) : (setHalf h x m).ports = m.ports := rfl
@[simp] theorem setHalf_chans (h : Half) (x : HalfSt) : (setHalf h x m).chans = m.chans := rfl
@[simp] theorem setHalf_links (h : Half) (x : HalfSt) : (setHalf h x m).links = m.links := rfl
@[simp] theorem setHalf_ctrs (h : Half) (x : HalfSt) : (setHalf h x m).ctrs = m.ctrs := rfl
@[simp] theorem setHalf_parked (h : Half) (x : HalfSt) : (setHalf h x m).parked = m.parked := rfl
@[simp] theorem setHalf_ctrPtr (h : Half) (x : HalfSt) : (setHalf h x m).ctrPtr = m.ctrPtr := rfl
@[simp] theorem setHalf_spanPtr (h : Half) (x : HalfSt) : (setHalf h x m).spanPtr = m.spanPtr := rfl
@[simp] theorem setHalf_lblPtr (h : Half) (x : HalfSt) : (setHalf h x m).lblPtr = m.lblPtr := rfl
@[simp] theorem setHalf_reports (h : Half) (x : HalfSt) : (setHalf h x m).reports = m.reports := rfl
@[simp] theorem setHalf_coh (h : Half) (x : HalfSt) : (setHalf h x m).coh = m.coh := rfl
@[simp] theorem setHalf_re (h : Half) (x : HalfSt) : (setHalf h x m).re = m.re := rfl
@[simp] theorem setHalf_anvs (h : Half) (x : HalfSt) : (setHalf h x m).anvs = m.anvs := rfl
@[simp] theorem setHalf_seqs (h : Half) (x : HalfSt) : (setHalf h x m).seqs = m.seqs := rfl
@[simp] theorem setHalf_img (h : Half) (x : HalfSt) : (setHalf h x m).img = m.img := rfl
@[simp] theorem setHalf_svc (h : Half) (x : HalfSt) : (setHalf h x m).svc = m.svc := rfl
@[simp] theorem setHalf_ras (h : Half) (x : HalfSt) : (setHalf h x m).ras = m.ras := rfl
@[simp] theorem setHalf_jrn (h : Half) (x : HalfSt) : (setHalf h x m).jrn = m.jrn := rfl
@[simp] theorem setHalf_vi (h : Half) (x : HalfSt) : (setHalf h x m).vi = m.vi := rfl
@[simp] theorem setHalf_dbg (h : Half) (x : HalfSt) : (setHalf h x m).dbg = m.dbg := rfl
@[simp] theorem setHalf_mg (h : Half) (x : HalfSt) : (setHalf h x m).mg = m.mg := rfl
@[simp] theorem setHalf_detRefn (h : Half) (x : HalfSt) : (setHalf h x m).detRefn = m.detRefn := rfl
@[simp] theorem setHalf_portAt (h : Half) (x : HalfSt) (j : PortIx) : portAt (setHalf h x m) j = portAt m j := rfl
@[simp] theorem setHalf_chanAt (h : Half) (x : HalfSt) (j : Half) : chanAt (setHalf h x m) j = chanAt m j := rfl
@[simp] theorem setHalf_linkAt (h : Half) (x : HalfSt) (j : Fin 3) : linkAt (setHalf h x m) j = linkAt m j := rfl
@[simp] theorem setHalf_anvAt (h : Half) (x : HalfSt) (j : Half) : anvAt (setHalf h x m) j = anvAt m j := rfl
@[simp] theorem setHalf_seqAt (h : Half) (x : HalfSt) (j j2 : Half) : seqAt (setHalf h x m) j j2 = seqAt m j j2 := rfl

/-! ## modHalf -/

@[simp] theorem modHalf_nextId (h : Half) (f : HalfSt → HalfSt) : (modHalf h f m).nextId = m.nextId := rfl
@[simp] theorem modHalf_freeCtr (h : Half) (f : HalfSt → HalfSt) : (modHalf h f m).freeCtr = m.freeCtr := rfl
@[simp] theorem modHalf_out (h : Half) (f : HalfSt → HalfSt) : (modHalf h f m).out = m.out := rfl
@[simp] theorem modHalf_todo (h : Half) (f : HalfSt → HalfSt) : (modHalf h f m).todo = m.todo := rfl
@[simp] theorem modHalf_unitDone (h : Half) (f : HalfSt → HalfSt) : (modHalf h f m).unitDone = m.unitDone := rfl
@[simp] theorem modHalf_finished (h : Half) (f : HalfSt → HalfSt) : (modHalf h f m).finished = m.finished := rfl
@[simp] theorem modHalf_answers (h : Half) (f : HalfSt → HalfSt) : (modHalf h f m).answers = m.answers := rfl
@[simp] theorem modHalf_again (h : Half) (f : HalfSt → HalfSt) : (modHalf h f m).again = m.again := rfl
@[simp] theorem modHalf_ports (h : Half) (f : HalfSt → HalfSt) : (modHalf h f m).ports = m.ports := rfl
@[simp] theorem modHalf_chans (h : Half) (f : HalfSt → HalfSt) : (modHalf h f m).chans = m.chans := rfl
@[simp] theorem modHalf_links (h : Half) (f : HalfSt → HalfSt) : (modHalf h f m).links = m.links := rfl
@[simp] theorem modHalf_ctrs (h : Half) (f : HalfSt → HalfSt) : (modHalf h f m).ctrs = m.ctrs := rfl
@[simp] theorem modHalf_parked (h : Half) (f : HalfSt → HalfSt) : (modHalf h f m).parked = m.parked := rfl
@[simp] theorem modHalf_ctrPtr (h : Half) (f : HalfSt → HalfSt) : (modHalf h f m).ctrPtr = m.ctrPtr := rfl
@[simp] theorem modHalf_spanPtr (h : Half) (f : HalfSt → HalfSt) : (modHalf h f m).spanPtr = m.spanPtr := rfl
@[simp] theorem modHalf_lblPtr (h : Half) (f : HalfSt → HalfSt) : (modHalf h f m).lblPtr = m.lblPtr := rfl
@[simp] theorem modHalf_reports (h : Half) (f : HalfSt → HalfSt) : (modHalf h f m).reports = m.reports := rfl
@[simp] theorem modHalf_coh (h : Half) (f : HalfSt → HalfSt) : (modHalf h f m).coh = m.coh := rfl
@[simp] theorem modHalf_re (h : Half) (f : HalfSt → HalfSt) : (modHalf h f m).re = m.re := rfl
@[simp] theorem modHalf_anvs (h : Half) (f : HalfSt → HalfSt) : (modHalf h f m).anvs = m.anvs := rfl
@[simp] theorem modHalf_seqs (h : Half) (f : HalfSt → HalfSt) : (modHalf h f m).seqs = m.seqs := rfl
@[simp] theorem modHalf_img (h : Half) (f : HalfSt → HalfSt) : (modHalf h f m).img = m.img := rfl
@[simp] theorem modHalf_svc (h : Half) (f : HalfSt → HalfSt) : (modHalf h f m).svc = m.svc := rfl
@[simp] theorem modHalf_ras (h : Half) (f : HalfSt → HalfSt) : (modHalf h f m).ras = m.ras := rfl
@[simp] theorem modHalf_jrn (h : Half) (f : HalfSt → HalfSt) : (modHalf h f m).jrn = m.jrn := rfl
@[simp] theorem modHalf_vi (h : Half) (f : HalfSt → HalfSt) : (modHalf h f m).vi = m.vi := rfl
@[simp] theorem modHalf_dbg (h : Half) (f : HalfSt → HalfSt) : (modHalf h f m).dbg = m.dbg := rfl
@[simp] theorem modHalf_mg (h : Half) (f : HalfSt → HalfSt) : (modHalf h f m).mg = m.mg := rfl
@[simp] theorem modHalf_detRefn (h : Half) (f : HalfSt → HalfSt) : (modHalf h f m).detRefn = m.detRefn := rfl
@[simp] theorem modHalf_portAt (h : Half) (f : HalfSt → HalfSt) (j : PortIx) : portAt (modHalf h f m) j = portAt m j := rfl
@[simp] theorem modHalf_chanAt (h : Half) (f : HalfSt → HalfSt) (j : Half) : chanAt (modHalf h f m) j = chanAt m j := rfl
@[simp] theorem modHalf_linkAt (h : Half) (f : HalfSt → HalfSt) (j : Fin 3) : linkAt (modHalf h f m) j = linkAt m j := rfl
@[simp] theorem modHalf_anvAt (h : Half) (f : HalfSt → HalfSt) (j : Half) : anvAt (modHalf h f m) j = anvAt m j := rfl
@[simp] theorem modHalf_seqAt (h : Half) (f : HalfSt → HalfSt) (j j2 : Half) : seqAt (modHalf h f m) j j2 = seqAt m j j2 := rfl

/-! ## modPort -/

@[simp] theorem modPort_nextId (p : PortIx) (f : Port → Port) : (modPort p f m).nextId = m.nextId := rfl
@[simp] theorem modPort_freeCtr (p : PortIx) (f : Port → Port) : (modPort p f m).freeCtr = m.freeCtr := rfl
@[simp] theorem modPort_out (p : PortIx) (f : Port → Port) : (modPort p f m).out = m.out := rfl
@[simp] theorem modPort_todo (p : PortIx) (f : Port → Port) : (modPort p f m).todo = m.todo := rfl
@[simp] theorem modPort_unitDone (p : PortIx) (f : Port → Port) : (modPort p f m).unitDone = m.unitDone := rfl
@[simp] theorem modPort_finished (p : PortIx) (f : Port → Port) : (modPort p f m).finished = m.finished := rfl
@[simp] theorem modPort_answers (p : PortIx) (f : Port → Port) : (modPort p f m).answers = m.answers := rfl
@[simp] theorem modPort_again (p : PortIx) (f : Port → Port) : (modPort p f m).again = m.again := rfl
@[simp] theorem modPort_chans (p : PortIx) (f : Port → Port) : (modPort p f m).chans = m.chans := rfl
@[simp] theorem modPort_links (p : PortIx) (f : Port → Port) : (modPort p f m).links = m.links := rfl
@[simp] theorem modPort_halves (p : PortIx) (f : Port → Port) : (modPort p f m).halves = m.halves := rfl
@[simp] theorem modPort_ctrs (p : PortIx) (f : Port → Port) : (modPort p f m).ctrs = m.ctrs := rfl
@[simp] theorem modPort_parked (p : PortIx) (f : Port → Port) : (modPort p f m).parked = m.parked := rfl
@[simp] theorem modPort_ctrPtr (p : PortIx) (f : Port → Port) : (modPort p f m).ctrPtr = m.ctrPtr := rfl
@[simp] theorem modPort_spanPtr (p : PortIx) (f : Port → Port) : (modPort p f m).spanPtr = m.spanPtr := rfl
@[simp] theorem modPort_lblPtr (p : PortIx) (f : Port → Port) : (modPort p f m).lblPtr = m.lblPtr := rfl
@[simp] theorem modPort_reports (p : PortIx) (f : Port → Port) : (modPort p f m).reports = m.reports := rfl
@[simp] theorem modPort_coh (p : PortIx) (f : Port → Port) : (modPort p f m).coh = m.coh := rfl
@[simp] theorem modPort_re (p : PortIx) (f : Port → Port) : (modPort p f m).re = m.re := rfl
@[simp] theorem modPort_anvs (p : PortIx) (f : Port → Port) : (modPort p f m).anvs = m.anvs := rfl
@[simp] theorem modPort_seqs (p : PortIx) (f : Port → Port) : (modPort p f m).seqs = m.seqs := rfl
@[simp] theorem modPort_img (p : PortIx) (f : Port → Port) : (modPort p f m).img = m.img := rfl
@[simp] theorem modPort_svc (p : PortIx) (f : Port → Port) : (modPort p f m).svc = m.svc := rfl
@[simp] theorem modPort_ras (p : PortIx) (f : Port → Port) : (modPort p f m).ras = m.ras := rfl
@[simp] theorem modPort_jrn (p : PortIx) (f : Port → Port) : (modPort p f m).jrn = m.jrn := rfl
@[simp] theorem modPort_vi (p : PortIx) (f : Port → Port) : (modPort p f m).vi = m.vi := rfl
@[simp] theorem modPort_dbg (p : PortIx) (f : Port → Port) : (modPort p f m).dbg = m.dbg := rfl
@[simp] theorem modPort_mg (p : PortIx) (f : Port → Port) : (modPort p f m).mg = m.mg := rfl
@[simp] theorem modPort_detRefn (p : PortIx) (f : Port → Port) : (modPort p f m).detRefn = m.detRefn := rfl
@[simp] theorem modPort_halfAt (p : PortIx) (f : Port → Port) (j : Half) : halfAt (modPort p f m) j = halfAt m j := rfl
@[simp] theorem modPort_chanAt (p : PortIx) (f : Port → Port) (j : Half) : chanAt (modPort p f m) j = chanAt m j := rfl
@[simp] theorem modPort_linkAt (p : PortIx) (f : Port → Port) (j : Fin 3) : linkAt (modPort p f m) j = linkAt m j := rfl
@[simp] theorem modPort_anvAt (p : PortIx) (f : Port → Port) (j : Half) : anvAt (modPort p f m) j = anvAt m j := rfl
@[simp] theorem modPort_seqAt (p : PortIx) (f : Port → Port) (j j2 : Half) : seqAt (modPort p f m) j j2 = seqAt m j j2 := rfl

/-! ## modChan -/

@[simp] theorem modChan_nextId (c : Half) (f : MemChan → MemChan) : (modChan c f m).nextId = m.nextId := rfl
@[simp] theorem modChan_freeCtr (c : Half) (f : MemChan → MemChan) : (modChan c f m).freeCtr = m.freeCtr := rfl
@[simp] theorem modChan_out (c : Half) (f : MemChan → MemChan) : (modChan c f m).out = m.out := rfl
@[simp] theorem modChan_todo (c : Half) (f : MemChan → MemChan) : (modChan c f m).todo = m.todo := rfl
@[simp] theorem modChan_unitDone (c : Half) (f : MemChan → MemChan) : (modChan c f m).unitDone = m.unitDone := rfl
@[simp] theorem modChan_finished (c : Half) (f : MemChan → MemChan) : (modChan c f m).finished = m.finished := rfl
@[simp] theorem modChan_answers (c : Half) (f : MemChan → MemChan) : (modChan c f m).answers = m.answers := rfl
@[simp] theorem modChan_again (c : Half) (f : MemChan → MemChan) : (modChan c f m).again = m.again := rfl
@[simp] theorem modChan_ports (c : Half) (f : MemChan → MemChan) : (modChan c f m).ports = m.ports := rfl
@[simp] theorem modChan_links (c : Half) (f : MemChan → MemChan) : (modChan c f m).links = m.links := rfl
@[simp] theorem modChan_halves (c : Half) (f : MemChan → MemChan) : (modChan c f m).halves = m.halves := rfl
@[simp] theorem modChan_ctrs (c : Half) (f : MemChan → MemChan) : (modChan c f m).ctrs = m.ctrs := rfl
@[simp] theorem modChan_parked (c : Half) (f : MemChan → MemChan) : (modChan c f m).parked = m.parked := rfl
@[simp] theorem modChan_ctrPtr (c : Half) (f : MemChan → MemChan) : (modChan c f m).ctrPtr = m.ctrPtr := rfl
@[simp] theorem modChan_spanPtr (c : Half) (f : MemChan → MemChan) : (modChan c f m).spanPtr = m.spanPtr := rfl
@[simp] theorem modChan_lblPtr (c : Half) (f : MemChan → MemChan) : (modChan c f m).lblPtr = m.lblPtr := rfl
@[simp] theorem modChan_reports (c : Half) (f : MemChan → MemChan) : (modChan c f m).reports = m.reports := rfl
@[simp] theorem modChan_coh (c : Half) (f : MemChan → MemChan) : (modChan c f m).coh = m.coh := rfl
@[simp] theorem modChan_re (c : Half) (f : MemChan → MemChan) : (modChan c f m).re = m.re := rfl
@[simp] theorem modChan_anvs (c : Half) (f : MemChan → MemChan) : (modChan c f m).anvs = m.anvs := rfl
@[simp] theorem modChan_seqs (c : Half) (f : MemChan → MemChan) : (modChan c f m).seqs = m.seqs := rfl
@[simp] theorem modChan_img (c : Half) (f : MemChan → MemChan) : (modChan c f m).img = m.img := rfl
@[simp] theorem modChan_svc (c : Half) (f : MemChan → MemChan) : (modChan c f m).svc = m.svc := rfl
@[simp] theorem modChan_ras (c : Half) (f : MemChan → MemChan) : (modChan c f m).ras = m.ras := rfl
@[simp] theorem modChan_jrn (c : Half) (f : MemChan → MemChan) : (modChan c f m).jrn = m.jrn := rfl
@[simp] theorem modChan_vi (c : Half) (f : MemChan → MemChan) : (modChan c f m).vi = m.vi := rfl
@[simp] theorem modChan_dbg (c : Half) (f : MemChan → MemChan) : (modChan c f m).dbg = m.dbg := rfl
@[simp] theorem modChan_mg (c : Half) (f : MemChan → MemChan) : (modChan c f m).mg = m.mg := rfl
@[simp] theorem modChan_detRefn (c : Half) (f : MemChan → MemChan) : (modChan c f m).detRefn = m.detRefn := rfl
@[simp] theorem modChan_halfAt (c : Half) (f : MemChan → MemChan) (j : Half) : halfAt (modChan c f m) j = halfAt m j := rfl
@[simp] theorem modChan_portAt (c : Half) (f : MemChan → MemChan) (j : PortIx) : portAt (modChan c f m) j = portAt m j := rfl
@[simp] theorem modChan_linkAt (c : Half) (f : MemChan → MemChan) (j : Fin 3) : linkAt (modChan c f m) j = linkAt m j := rfl
@[simp] theorem modChan_anvAt (c : Half) (f : MemChan → MemChan) (j : Half) : anvAt (modChan c f m) j = anvAt m j := rfl
@[simp] theorem modChan_seqAt (c : Half) (f : MemChan → MemChan) (j j2 : Half) : seqAt (modChan c f m) j j2 = seqAt m j j2 := rfl

/-! ## modLink -/

@[simp] theorem modLink_nextId (k : Fin 3) (f : Link → Link) : (modLink k f m).nextId = m.nextId := rfl
@[simp] theorem modLink_freeCtr (k : Fin 3) (f : Link → Link) : (modLink k f m).freeCtr = m.freeCtr := rfl
@[simp] theorem modLink_out (k : Fin 3) (f : Link → Link) : (modLink k f m).out = m.out := rfl
@[simp] theorem modLink_todo (k : Fin 3) (f : Link → Link) : (modLink k f m).todo = m.todo := rfl
@[simp] theorem modLink_unitDone (k : Fin 3) (f : Link → Link) : (modLink k f m).unitDone = m.unitDone := rfl
@[simp] theorem modLink_finished (k : Fin 3) (f : Link → Link) : (modLink k f m).finished = m.finished := rfl
@[simp] theorem modLink_answers (k : Fin 3) (f : Link → Link) : (modLink k f m).answers = m.answers := rfl
@[simp] theorem modLink_again (k : Fin 3) (f : Link → Link) : (modLink k f m).again = m.again := rfl
@[simp] theorem modLink_ports (k : Fin 3) (f : Link → Link) : (modLink k f m).ports = m.ports := rfl
@[simp] theorem modLink_chans (k : Fin 3) (f : Link → Link) : (modLink k f m).chans = m.chans := rfl
@[simp] theorem modLink_halves (k : Fin 3) (f : Link → Link) : (modLink k f m).halves = m.halves := rfl
@[simp] theorem modLink_ctrs (k : Fin 3) (f : Link → Link) : (modLink k f m).ctrs = m.ctrs := rfl
@[simp] theorem modLink_parked (k : Fin 3) (f : Link → Link) : (modLink k f m).parked = m.parked := rfl
@[simp] theorem modLink_ctrPtr (k : Fin 3) (f : Link → Link) : (modLink k f m).ctrPtr = m.ctrPtr := rfl
@[simp] theorem modLink_spanPtr (k : Fin 3) (f : Link → Link) : (modLink k f m).spanPtr = m.spanPtr := rfl
@[simp] theorem modLink_lblPtr (k : Fin 3) (f : Link → Link) : (modLink k f m).lblPtr = m.lblPtr := rfl
@[simp] theorem modLink_reports (k : Fin 3) (f : Link → Link) : (modLink k f m).reports = m.reports := rfl
@[simp] theorem modLink_coh (k : Fin 3) (f : Link → Link) : (modLink k f m).coh = m.coh := rfl
@[simp] theorem modLink_re (k : Fin 3) (f : Link → Link) : (modLink k f m).re = m.re := rfl
@[simp] theorem modLink_anvs (k : Fin 3) (f : Link → Link) : (modLink k f m).anvs = m.anvs := rfl
@[simp] theorem modLink_seqs (k : Fin 3) (f : Link → Link) : (modLink k f m).seqs = m.seqs := rfl
@[simp] theorem modLink_img (k : Fin 3) (f : Link → Link) : (modLink k f m).img = m.img := rfl
@[simp] theorem modLink_svc (k : Fin 3) (f : Link → Link) : (modLink k f m).svc = m.svc := rfl
@[simp] theorem modLink_ras (k : Fin 3) (f : Link → Link) : (modLink k f m).ras = m.ras := rfl
@[simp] theorem modLink_jrn (k : Fin 3) (f : Link → Link) : (modLink k f m).jrn = m.jrn := rfl
@[simp] theorem modLink_vi (k : Fin 3) (f : Link → Link) : (modLink k f m).vi = m.vi := rfl
@[simp] theorem modLink_dbg (k : Fin 3) (f : Link → Link) : (modLink k f m).dbg = m.dbg := rfl
@[simp] theorem modLink_mg (k : Fin 3) (f : Link → Link) : (modLink k f m).mg = m.mg := rfl
@[simp] theorem modLink_detRefn (k : Fin 3) (f : Link → Link) : (modLink k f m).detRefn = m.detRefn := rfl
@[simp] theorem modLink_halfAt (k : Fin 3) (f : Link → Link) (j : Half) : halfAt (modLink k f m) j = halfAt m j := rfl
@[simp] theorem modLink_portAt (k : Fin 3) (f : Link → Link) (j : PortIx) : portAt (modLink k f m) j = portAt m j := rfl
@[simp] theorem modLink_chanAt (k : Fin 3) (f : Link → Link) (j : Half) : chanAt (modLink k f m) j = chanAt m j := rfl
@[simp] theorem modLink_anvAt (k : Fin 3) (f : Link → Link) (j : Half) : anvAt (modLink k f m) j = anvAt m j := rfl
@[simp] theorem modLink_seqAt (k : Fin 3) (f : Link → Link) (j j2 : Half) : seqAt (modLink k f m) j j2 = seqAt m j j2 := rfl

/-! ## modAnv -/

@[simp] theorem modAnv_nextId (h : Half) (f : Anvil → Anvil) : (modAnv h f m).nextId = m.nextId := rfl
@[simp] theorem modAnv_freeCtr (h : Half) (f : Anvil → Anvil) : (modAnv h f m).freeCtr = m.freeCtr := rfl
@[simp] theorem modAnv_out (h : Half) (f : Anvil → Anvil) : (modAnv h f m).out = m.out := rfl
@[simp] theorem modAnv_todo (h : Half) (f : Anvil → Anvil) : (modAnv h f m).todo = m.todo := rfl
@[simp] theorem modAnv_unitDone (h : Half) (f : Anvil → Anvil) : (modAnv h f m).unitDone = m.unitDone := rfl
@[simp] theorem modAnv_finished (h : Half) (f : Anvil → Anvil) : (modAnv h f m).finished = m.finished := rfl
@[simp] theorem modAnv_answers (h : Half) (f : Anvil → Anvil) : (modAnv h f m).answers = m.answers := rfl
@[simp] theorem modAnv_again (h : Half) (f : Anvil → Anvil) : (modAnv h f m).again = m.again := rfl
@[simp] theorem modAnv_ports (h : Half) (f : Anvil → Anvil) : (modAnv h f m).ports = m.ports := rfl
@[simp] theorem modAnv_chans (h : Half) (f : Anvil → Anvil) : (modAnv h f m).chans = m.chans := rfl
@[simp] theorem modAnv_links (h : Half) (f : Anvil → Anvil) : (modAnv h f m).links = m.links := rfl
@[simp] theorem modAnv_halves (h : Half) (f : Anvil → Anvil) : (modAnv h f m).halves = m.halves := rfl
@[simp] theorem modAnv_ctrs (h : Half) (f : Anvil → Anvil) : (modAnv h f m).ctrs = m.ctrs := rfl
@[simp] theorem modAnv_parked (h : Half) (f : Anvil → Anvil) : (modAnv h f m).parked = m.parked := rfl
@[simp] theorem modAnv_ctrPtr (h : Half) (f : Anvil → Anvil) : (modAnv h f m).ctrPtr = m.ctrPtr := rfl
@[simp] theorem modAnv_spanPtr (h : Half) (f : Anvil → Anvil) : (modAnv h f m).spanPtr = m.spanPtr := rfl
@[simp] theorem modAnv_lblPtr (h : Half) (f : Anvil → Anvil) : (modAnv h f m).lblPtr = m.lblPtr := rfl
@[simp] theorem modAnv_reports (h : Half) (f : Anvil → Anvil) : (modAnv h f m).reports = m.reports := rfl
@[simp] theorem modAnv_coh (h : Half) (f : Anvil → Anvil) : (modAnv h f m).coh = m.coh := rfl
@[simp] theorem modAnv_re (h : Half) (f : Anvil → Anvil) : (modAnv h f m).re = m.re := rfl
@[simp] theorem modAnv_seqs (h : Half) (f : Anvil → Anvil) : (modAnv h f m).seqs = m.seqs := rfl
@[simp] theorem modAnv_img (h : Half) (f : Anvil → Anvil) : (modAnv h f m).img = m.img := rfl
@[simp] theorem modAnv_svc (h : Half) (f : Anvil → Anvil) : (modAnv h f m).svc = m.svc := rfl
@[simp] theorem modAnv_ras (h : Half) (f : Anvil → Anvil) : (modAnv h f m).ras = m.ras := rfl
@[simp] theorem modAnv_jrn (h : Half) (f : Anvil → Anvil) : (modAnv h f m).jrn = m.jrn := rfl
@[simp] theorem modAnv_vi (h : Half) (f : Anvil → Anvil) : (modAnv h f m).vi = m.vi := rfl
@[simp] theorem modAnv_dbg (h : Half) (f : Anvil → Anvil) : (modAnv h f m).dbg = m.dbg := rfl
@[simp] theorem modAnv_mg (h : Half) (f : Anvil → Anvil) : (modAnv h f m).mg = m.mg := rfl
@[simp] theorem modAnv_detRefn (h : Half) (f : Anvil → Anvil) : (modAnv h f m).detRefn = m.detRefn := rfl
@[simp] theorem modAnv_halfAt (h : Half) (f : Anvil → Anvil) (j : Half) : halfAt (modAnv h f m) j = halfAt m j := rfl
@[simp] theorem modAnv_portAt (h : Half) (f : Anvil → Anvil) (j : PortIx) : portAt (modAnv h f m) j = portAt m j := rfl
@[simp] theorem modAnv_chanAt (h : Half) (f : Anvil → Anvil) (j : Half) : chanAt (modAnv h f m) j = chanAt m j := rfl
@[simp] theorem modAnv_linkAt (h : Half) (f : Anvil → Anvil) (j : Fin 3) : linkAt (modAnv h f m) j = linkAt m j := rfl
@[simp] theorem modAnv_seqAt (h : Half) (f : Anvil → Anvil) (j j2 : Half) : seqAt (modAnv h f m) j j2 = seqAt m j j2 := rfl

/-! ## modSeq -/

@[simp] theorem modSeq_nextId (h k : Half) (f : Seq → Seq) : (modSeq h k f m).nextId = m.nextId := rfl
@[simp] theorem modSeq_freeCtr (h k : Half) (f : Seq → Seq) : (modSeq h k f m).freeCtr = m.freeCtr := rfl
@[simp] theorem modSeq_out (h k : Half) (f : Seq → Seq) : (modSeq h k f m).out = m.out := rfl
@[simp] theorem modSeq_todo (h k : Half) (f : Seq → Seq) : (modSeq h k f m).todo = m.todo := rfl
@[simp] theorem modSeq_unitDone (h k : Half) (f : Seq → Seq) : (modSeq h k f m).unitDone = m.unitDone := rfl
@[simp] theorem modSeq_finished (h k : Half) (f : Seq → Seq) : (modSeq h k f m).finished = m.finished := rfl
@[simp] theorem modSeq_answers (h k : Half) (f : Seq → Seq) : (modSeq h k f m).answers = m.answers := rfl
@[simp] theorem modSeq_again (h k : Half) (f : Seq → Seq) : (modSeq h k f m).again = m.again := rfl
@[simp] theorem modSeq_ports (h k : Half) (f : Seq → Seq) : (modSeq h k f m).ports = m.ports := rfl
@[simp] theorem modSeq_chans (h k : Half) (f : Seq → Seq) : (modSeq h k f m).chans = m.chans := rfl
@[simp] theorem modSeq_links (h k : Half) (f : Seq → Seq) : (modSeq h k f m).links = m.links := rfl
@[simp] theorem modSeq_halves (h k : Half) (f : Seq → Seq) : (modSeq h k f m).halves = m.halves := rfl
@[simp] theorem modSeq_ctrs (h k : Half) (f : Seq → Seq) : (modSeq h k f m).ctrs = m.ctrs := rfl
@[simp] theorem modSeq_parked (h k : Half) (f : Seq → Seq) : (modSeq h k f m).parked = m.parked := rfl
@[simp] theorem modSeq_ctrPtr (h k : Half) (f : Seq → Seq) : (modSeq h k f m).ctrPtr = m.ctrPtr := rfl
@[simp] theorem modSeq_spanPtr (h k : Half) (f : Seq → Seq) : (modSeq h k f m).spanPtr = m.spanPtr := rfl
@[simp] theorem modSeq_lblPtr (h k : Half) (f : Seq → Seq) : (modSeq h k f m).lblPtr = m.lblPtr := rfl
@[simp] theorem modSeq_reports (h k : Half) (f : Seq → Seq) : (modSeq h k f m).reports = m.reports := rfl
@[simp] theorem modSeq_coh (h k : Half) (f : Seq → Seq) : (modSeq h k f m).coh = m.coh := rfl
@[simp] theorem modSeq_re (h k : Half) (f : Seq → Seq) : (modSeq h k f m).re = m.re := rfl
@[simp] theorem modSeq_anvs (h k : Half) (f : Seq → Seq) : (modSeq h k f m).anvs = m.anvs := rfl
@[simp] theorem modSeq_img (h k : Half) (f : Seq → Seq) : (modSeq h k f m).img = m.img := rfl
@[simp] theorem modSeq_svc (h k : Half) (f : Seq → Seq) : (modSeq h k f m).svc = m.svc := rfl
@[simp] theorem modSeq_ras (h k : Half) (f : Seq → Seq) : (modSeq h k f m).ras = m.ras := rfl
@[simp] theorem modSeq_jrn (h k : Half) (f : Seq → Seq) : (modSeq h k f m).jrn = m.jrn := rfl
@[simp] theorem modSeq_vi (h k : Half) (f : Seq → Seq) : (modSeq h k f m).vi = m.vi := rfl
@[simp] theorem modSeq_dbg (h k : Half) (f : Seq → Seq) : (modSeq h k f m).dbg = m.dbg := rfl
@[simp] theorem modSeq_mg (h k : Half) (f : Seq → Seq) : (modSeq h k f m).mg = m.mg := rfl
@[simp] theorem modSeq_detRefn (h k : Half) (f : Seq → Seq) : (modSeq h k f m).detRefn = m.detRefn := rfl
@[simp] theorem modSeq_halfAt (h k : Half) (f : Seq → Seq) (j : Half) : halfAt (modSeq h k f m) j = halfAt m j := rfl
@[simp] theorem modSeq_portAt (h k : Half) (f : Seq → Seq) (j : PortIx) : portAt (modSeq h k f m) j = portAt m j := rfl
@[simp] theorem modSeq_chanAt (h k : Half) (f : Seq → Seq) (j : Half) : chanAt (modSeq h k f m) j = chanAt m j := rfl
@[simp] theorem modSeq_linkAt (h k : Half) (f : Seq → Seq) (j : Fin 3) : linkAt (modSeq h k f m) j = linkAt m j := rfl
@[simp] theorem modSeq_anvAt (h k : Half) (f : Seq → Seq) (j : Half) : anvAt (modSeq h k f m) j = anvAt m j := rfl

/-! ## emit -/

@[simp] theorem emit_nextId (o : Output) : (emit o m).nextId = m.nextId := rfl
@[simp] theorem emit_freeCtr (o : Output) : (emit o m).freeCtr = m.freeCtr := rfl
@[simp] theorem emit_todo (o : Output) : (emit o m).todo = m.todo := rfl
@[simp] theorem emit_unitDone (o : Output) : (emit o m).unitDone = m.unitDone := rfl
@[simp] theorem emit_finished (o : Output) : (emit o m).finished = m.finished := rfl
@[simp] theorem emit_answers (o : Output) : (emit o m).answers = m.answers := rfl
@[simp] theorem emit_again (o : Output) : (emit o m).again = m.again := rfl
@[simp] theorem emit_ports (o : Output) : (emit o m).ports = m.ports := rfl
@[simp] theorem emit_chans (o : Output) : (emit o m).chans = m.chans := rfl
@[simp] theorem emit_links (o : Output) : (emit o m).links = m.links := rfl
@[simp] theorem emit_halves (o : Output) : (emit o m).halves = m.halves := rfl
@[simp] theorem emit_ctrs (o : Output) : (emit o m).ctrs = m.ctrs := rfl
@[simp] theorem emit_parked (o : Output) : (emit o m).parked = m.parked := rfl
@[simp] theorem emit_ctrPtr (o : Output) : (emit o m).ctrPtr = m.ctrPtr := rfl
@[simp] theorem emit_spanPtr (o : Output) : (emit o m).spanPtr = m.spanPtr := rfl
@[simp] theorem emit_lblPtr (o : Output) : (emit o m).lblPtr = m.lblPtr := rfl
@[simp] theorem emit_reports (o : Output) : (emit o m).reports = m.reports := rfl
@[simp] theorem emit_coh (o : Output) : (emit o m).coh = m.coh := rfl
@[simp] theorem emit_re (o : Output) : (emit o m).re = m.re := rfl
@[simp] theorem emit_anvs (o : Output) : (emit o m).anvs = m.anvs := rfl
@[simp] theorem emit_seqs (o : Output) : (emit o m).seqs = m.seqs := rfl
@[simp] theorem emit_img (o : Output) : (emit o m).img = m.img := rfl
@[simp] theorem emit_svc (o : Output) : (emit o m).svc = m.svc := rfl
@[simp] theorem emit_ras (o : Output) : (emit o m).ras = m.ras := rfl
@[simp] theorem emit_jrn (o : Output) : (emit o m).jrn = m.jrn := rfl
@[simp] theorem emit_vi (o : Output) : (emit o m).vi = m.vi := rfl
@[simp] theorem emit_dbg (o : Output) : (emit o m).dbg = m.dbg := rfl
@[simp] theorem emit_mg (o : Output) : (emit o m).mg = m.mg := rfl
@[simp] theorem emit_detRefn (o : Output) : (emit o m).detRefn = m.detRefn := rfl
@[simp] theorem emit_halfAt (o : Output) (j : Half) : halfAt (emit o m) j = halfAt m j := rfl
@[simp] theorem emit_portAt (o : Output) (j : PortIx) : portAt (emit o m) j = portAt m j := rfl
@[simp] theorem emit_chanAt (o : Output) (j : Half) : chanAt (emit o m) j = chanAt m j := rfl
@[simp] theorem emit_linkAt (o : Output) (j : Fin 3) : linkAt (emit o m) j = linkAt m j := rfl
@[simp] theorem emit_anvAt (o : Output) (j : Half) : anvAt (emit o m) j = anvAt m j := rfl
@[simp] theorem emit_seqAt (o : Output) (j j2 : Half) : seqAt (emit o m) j j2 = seqAt m j j2 := rfl

/-! ## spend -/

@[simp] theorem spend_nextId : (spend m).nextId = m.nextId := rfl
@[simp] theorem spend_out : (spend m).out = m.out := rfl
@[simp] theorem spend_todo : (spend m).todo = m.todo := rfl
@[simp] theorem spend_unitDone : (spend m).unitDone = m.unitDone := rfl
@[simp] theorem spend_finished : (spend m).finished = m.finished := rfl
@[simp] theorem spend_answers : (spend m).answers = m.answers := rfl
@[simp] theorem spend_again : (spend m).again = m.again := rfl
@[simp] theorem spend_ports : (spend m).ports = m.ports := rfl
@[simp] theorem spend_chans : (spend m).chans = m.chans := rfl
@[simp] theorem spend_links : (spend m).links = m.links := rfl
@[simp] theorem spend_halves : (spend m).halves = m.halves := rfl
@[simp] theorem spend_ctrs : (spend m).ctrs = m.ctrs := rfl
@[simp] theorem spend_parked : (spend m).parked = m.parked := rfl
@[simp] theorem spend_ctrPtr : (spend m).ctrPtr = m.ctrPtr := rfl
@[simp] theorem spend_spanPtr : (spend m).spanPtr = m.spanPtr := rfl
@[simp] theorem spend_lblPtr : (spend m).lblPtr = m.lblPtr := rfl
@[simp] theorem spend_reports : (spend m).reports = m.reports := rfl
@[simp] theorem spend_coh : (spend m).coh = m.coh := rfl
@[simp] theorem spend_re : (spend m).re = m.re := rfl
@[simp] theorem spend_anvs : (spend m).anvs = m.anvs := rfl
@[simp] theorem spend_seqs : (spend m).seqs = m.seqs := rfl
@[simp] theorem spend_img : (spend m).img = m.img := rfl
@[simp] theorem spend_svc : (spend m).svc = m.svc := rfl
@[simp] theorem spend_ras : (spend m).ras = m.ras := rfl
@[simp] theorem spend_jrn : (spend m).jrn = m.jrn := rfl
@[simp] theorem spend_vi : (spend m).vi = m.vi := rfl
@[simp] theorem spend_dbg : (spend m).dbg = m.dbg := rfl
@[simp] theorem spend_mg : (spend m).mg = m.mg := rfl
@[simp] theorem spend_detRefn : (spend m).detRefn = m.detRefn := rfl
@[simp] theorem spend_halfAt (j : Half) : halfAt (spend m) j = halfAt m j := rfl
@[simp] theorem spend_portAt (j : PortIx) : portAt (spend m) j = portAt m j := rfl
@[simp] theorem spend_chanAt (j : Half) : chanAt (spend m) j = chanAt m j := rfl
@[simp] theorem spend_linkAt (j : Fin 3) : linkAt (spend m) j = linkAt m j := rfl
@[simp] theorem spend_anvAt (j : Half) : anvAt (spend m) j = anvAt m j := rfl
@[simp] theorem spend_seqAt (j j2 : Half) : seqAt (spend m) j j2 = seqAt m j j2 := rfl

/-! ## logLoss -/

@[simp] theorem logLoss_nextId (e : LossEntry) : (logLoss e m).nextId = m.nextId := rfl
@[simp] theorem logLoss_freeCtr (e : LossEntry) : (logLoss e m).freeCtr = m.freeCtr := rfl
@[simp] theorem logLoss_out (e : LossEntry) : (logLoss e m).out = m.out := rfl
@[simp] theorem logLoss_todo (e : LossEntry) : (logLoss e m).todo = m.todo := rfl
@[simp] theorem logLoss_unitDone (e : LossEntry) : (logLoss e m).unitDone = m.unitDone := rfl
@[simp] theorem logLoss_finished (e : LossEntry) : (logLoss e m).finished = m.finished := rfl
@[simp] theorem logLoss_answers (e : LossEntry) : (logLoss e m).answers = m.answers := rfl
@[simp] theorem logLoss_again (e : LossEntry) : (logLoss e m).again = m.again := rfl
@[simp] theorem logLoss_ports (e : LossEntry) : (logLoss e m).ports = m.ports := rfl
@[simp] theorem logLoss_chans (e : LossEntry) : (logLoss e m).chans = m.chans := rfl
@[simp] theorem logLoss_links (e : LossEntry) : (logLoss e m).links = m.links := rfl
@[simp] theorem logLoss_halves (e : LossEntry) : (logLoss e m).halves = m.halves := rfl
@[simp] theorem logLoss_ctrs (e : LossEntry) : (logLoss e m).ctrs = m.ctrs := rfl
@[simp] theorem logLoss_parked (e : LossEntry) : (logLoss e m).parked = m.parked := rfl
@[simp] theorem logLoss_ctrPtr (e : LossEntry) : (logLoss e m).ctrPtr = m.ctrPtr := rfl
@[simp] theorem logLoss_spanPtr (e : LossEntry) : (logLoss e m).spanPtr = m.spanPtr := rfl
@[simp] theorem logLoss_lblPtr (e : LossEntry) : (logLoss e m).lblPtr = m.lblPtr := rfl
@[simp] theorem logLoss_reports (e : LossEntry) : (logLoss e m).reports = m.reports := rfl
@[simp] theorem logLoss_coh (e : LossEntry) : (logLoss e m).coh = m.coh := rfl
@[simp] theorem logLoss_re (e : LossEntry) : (logLoss e m).re = m.re := rfl
@[simp] theorem logLoss_anvs (e : LossEntry) : (logLoss e m).anvs = m.anvs := rfl
@[simp] theorem logLoss_seqs (e : LossEntry) : (logLoss e m).seqs = m.seqs := rfl
@[simp] theorem logLoss_img (e : LossEntry) : (logLoss e m).img = m.img := rfl
@[simp] theorem logLoss_svc (e : LossEntry) : (logLoss e m).svc = m.svc := rfl
@[simp] theorem logLoss_jrn (e : LossEntry) : (logLoss e m).jrn = m.jrn := rfl
@[simp] theorem logLoss_vi (e : LossEntry) : (logLoss e m).vi = m.vi := rfl
@[simp] theorem logLoss_dbg (e : LossEntry) : (logLoss e m).dbg = m.dbg := rfl
@[simp] theorem logLoss_mg (e : LossEntry) : (logLoss e m).mg = m.mg := rfl
@[simp] theorem logLoss_detRefn (e : LossEntry) : (logLoss e m).detRefn = m.detRefn := rfl
@[simp] theorem logLoss_halfAt (e : LossEntry) (j : Half) : halfAt (logLoss e m) j = halfAt m j := rfl
@[simp] theorem logLoss_portAt (e : LossEntry) (j : PortIx) : portAt (logLoss e m) j = portAt m j := rfl
@[simp] theorem logLoss_chanAt (e : LossEntry) (j : Half) : chanAt (logLoss e m) j = chanAt m j := rfl
@[simp] theorem logLoss_linkAt (e : LossEntry) (j : Fin 3) : linkAt (logLoss e m) j = linkAt m j := rfl
@[simp] theorem logLoss_anvAt (e : LossEntry) (j : Half) : anvAt (logLoss e m) j = anvAt m j := rfl
@[simp] theorem logLoss_seqAt (e : LossEntry) (j j2 : Half) : seqAt (logLoss e m) j j2 = seqAt m j j2 := rfl

/-! ## logVio -/

@[simp] theorem logVio_nextId (e : VioEntry) : (logVio e m).nextId = m.nextId := rfl
@[simp] theorem logVio_freeCtr (e : VioEntry) : (logVio e m).freeCtr = m.freeCtr := rfl
@[simp] theorem logVio_out (e : VioEntry) : (logVio e m).out = m.out := rfl
@[simp] theorem logVio_todo (e : VioEntry) : (logVio e m).todo = m.todo := rfl
@[simp] theorem logVio_unitDone (e : VioEntry) : (logVio e m).unitDone = m.unitDone := rfl
@[simp] theorem logVio_finished (e : VioEntry) : (logVio e m).finished = m.finished := rfl
@[simp] theorem logVio_answers (e : VioEntry) : (logVio e m).answers = m.answers := rfl
@[simp] theorem logVio_again (e : VioEntry) : (logVio e m).again = m.again := rfl
@[simp] theorem logVio_ports (e : VioEntry) : (logVio e m).ports = m.ports := rfl
@[simp] theorem logVio_chans (e : VioEntry) : (logVio e m).chans = m.chans := rfl
@[simp] theorem logVio_links (e : VioEntry) : (logVio e m).links = m.links := rfl
@[simp] theorem logVio_halves (e : VioEntry) : (logVio e m).halves = m.halves := rfl
@[simp] theorem logVio_ctrs (e : VioEntry) : (logVio e m).ctrs = m.ctrs := rfl
@[simp] theorem logVio_parked (e : VioEntry) : (logVio e m).parked = m.parked := rfl
@[simp] theorem logVio_ctrPtr (e : VioEntry) : (logVio e m).ctrPtr = m.ctrPtr := rfl
@[simp] theorem logVio_spanPtr (e : VioEntry) : (logVio e m).spanPtr = m.spanPtr := rfl
@[simp] theorem logVio_lblPtr (e : VioEntry) : (logVio e m).lblPtr = m.lblPtr := rfl
@[simp] theorem logVio_reports (e : VioEntry) : (logVio e m).reports = m.reports := rfl
@[simp] theorem logVio_coh (e : VioEntry) : (logVio e m).coh = m.coh := rfl
@[simp] theorem logVio_re (e : VioEntry) : (logVio e m).re = m.re := rfl
@[simp] theorem logVio_anvs (e : VioEntry) : (logVio e m).anvs = m.anvs := rfl
@[simp] theorem logVio_seqs (e : VioEntry) : (logVio e m).seqs = m.seqs := rfl
@[simp] theorem logVio_img (e : VioEntry) : (logVio e m).img = m.img := rfl
@[simp] theorem logVio_svc (e : VioEntry) : (logVio e m).svc = m.svc := rfl
@[simp] theorem logVio_jrn (e : VioEntry) : (logVio e m).jrn = m.jrn := rfl
@[simp] theorem logVio_vi (e : VioEntry) : (logVio e m).vi = m.vi := rfl
@[simp] theorem logVio_dbg (e : VioEntry) : (logVio e m).dbg = m.dbg := rfl
@[simp] theorem logVio_mg (e : VioEntry) : (logVio e m).mg = m.mg := rfl
@[simp] theorem logVio_detRefn (e : VioEntry) : (logVio e m).detRefn = m.detRefn := rfl
@[simp] theorem logVio_halfAt (e : VioEntry) (j : Half) : halfAt (logVio e m) j = halfAt m j := rfl
@[simp] theorem logVio_portAt (e : VioEntry) (j : PortIx) : portAt (logVio e m) j = portAt m j := rfl
@[simp] theorem logVio_chanAt (e : VioEntry) (j : Half) : chanAt (logVio e m) j = chanAt m j := rfl
@[simp] theorem logVio_linkAt (e : VioEntry) (j : Fin 3) : linkAt (logVio e m) j = linkAt m j := rfl
@[simp] theorem logVio_anvAt (e : VioEntry) (j : Half) : anvAt (logVio e m) j = anvAt m j := rfl
@[simp] theorem logVio_seqAt (e : VioEntry) (j j2 : Half) : seqAt (logVio e m) j j2 = seqAt m j j2 := rfl

/-! ## setErr -/

@[simp] theorem setErr_nextId (a : Arr) (h : Half) (i : Nat) (mask : CodeWord) : (setErr a h i mask m).nextId = m.nextId := rfl
@[simp] theorem setErr_freeCtr (a : Arr) (h : Half) (i : Nat) (mask : CodeWord) : (setErr a h i mask m).freeCtr = m.freeCtr := rfl
@[simp] theorem setErr_out (a : Arr) (h : Half) (i : Nat) (mask : CodeWord) : (setErr a h i mask m).out = m.out := rfl
@[simp] theorem setErr_todo (a : Arr) (h : Half) (i : Nat) (mask : CodeWord) : (setErr a h i mask m).todo = m.todo := rfl
@[simp] theorem setErr_unitDone (a : Arr) (h : Half) (i : Nat) (mask : CodeWord) : (setErr a h i mask m).unitDone = m.unitDone := rfl
@[simp] theorem setErr_finished (a : Arr) (h : Half) (i : Nat) (mask : CodeWord) : (setErr a h i mask m).finished = m.finished := rfl
@[simp] theorem setErr_answers (a : Arr) (h : Half) (i : Nat) (mask : CodeWord) : (setErr a h i mask m).answers = m.answers := rfl
@[simp] theorem setErr_again (a : Arr) (h : Half) (i : Nat) (mask : CodeWord) : (setErr a h i mask m).again = m.again := rfl
@[simp] theorem setErr_ports (a : Arr) (h : Half) (i : Nat) (mask : CodeWord) : (setErr a h i mask m).ports = m.ports := rfl
@[simp] theorem setErr_chans (a : Arr) (h : Half) (i : Nat) (mask : CodeWord) : (setErr a h i mask m).chans = m.chans := rfl
@[simp] theorem setErr_links (a : Arr) (h : Half) (i : Nat) (mask : CodeWord) : (setErr a h i mask m).links = m.links := rfl
@[simp] theorem setErr_halves (a : Arr) (h : Half) (i : Nat) (mask : CodeWord) : (setErr a h i mask m).halves = m.halves := rfl
@[simp] theorem setErr_ctrs (a : Arr) (h : Half) (i : Nat) (mask : CodeWord) : (setErr a h i mask m).ctrs = m.ctrs := rfl
@[simp] theorem setErr_parked (a : Arr) (h : Half) (i : Nat) (mask : CodeWord) : (setErr a h i mask m).parked = m.parked := rfl
@[simp] theorem setErr_ctrPtr (a : Arr) (h : Half) (i : Nat) (mask : CodeWord) : (setErr a h i mask m).ctrPtr = m.ctrPtr := rfl
@[simp] theorem setErr_spanPtr (a : Arr) (h : Half) (i : Nat) (mask : CodeWord) : (setErr a h i mask m).spanPtr = m.spanPtr := rfl
@[simp] theorem setErr_lblPtr (a : Arr) (h : Half) (i : Nat) (mask : CodeWord) : (setErr a h i mask m).lblPtr = m.lblPtr := rfl
@[simp] theorem setErr_reports (a : Arr) (h : Half) (i : Nat) (mask : CodeWord) : (setErr a h i mask m).reports = m.reports := rfl
@[simp] theorem setErr_coh (a : Arr) (h : Half) (i : Nat) (mask : CodeWord) : (setErr a h i mask m).coh = m.coh := rfl
@[simp] theorem setErr_re (a : Arr) (h : Half) (i : Nat) (mask : CodeWord) : (setErr a h i mask m).re = m.re := rfl
@[simp] theorem setErr_anvs (a : Arr) (h : Half) (i : Nat) (mask : CodeWord) : (setErr a h i mask m).anvs = m.anvs := rfl
@[simp] theorem setErr_seqs (a : Arr) (h : Half) (i : Nat) (mask : CodeWord) : (setErr a h i mask m).seqs = m.seqs := rfl
@[simp] theorem setErr_img (a : Arr) (h : Half) (i : Nat) (mask : CodeWord) : (setErr a h i mask m).img = m.img := rfl
@[simp] theorem setErr_svc (a : Arr) (h : Half) (i : Nat) (mask : CodeWord) : (setErr a h i mask m).svc = m.svc := rfl
@[simp] theorem setErr_jrn (a : Arr) (h : Half) (i : Nat) (mask : CodeWord) : (setErr a h i mask m).jrn = m.jrn := rfl
@[simp] theorem setErr_vi (a : Arr) (h : Half) (i : Nat) (mask : CodeWord) : (setErr a h i mask m).vi = m.vi := rfl
@[simp] theorem setErr_dbg (a : Arr) (h : Half) (i : Nat) (mask : CodeWord) : (setErr a h i mask m).dbg = m.dbg := rfl
@[simp] theorem setErr_mg (a : Arr) (h : Half) (i : Nat) (mask : CodeWord) : (setErr a h i mask m).mg = m.mg := rfl
@[simp] theorem setErr_detRefn (a : Arr) (h : Half) (i : Nat) (mask : CodeWord) : (setErr a h i mask m).detRefn = m.detRefn := rfl
@[simp] theorem setErr_halfAt (a : Arr) (h : Half) (i : Nat) (mask : CodeWord) (j : Half) : halfAt (setErr a h i mask m) j = halfAt m j := rfl
@[simp] theorem setErr_portAt (a : Arr) (h : Half) (i : Nat) (mask : CodeWord) (j : PortIx) : portAt (setErr a h i mask m) j = portAt m j := rfl
@[simp] theorem setErr_chanAt (a : Arr) (h : Half) (i : Nat) (mask : CodeWord) (j : Half) : chanAt (setErr a h i mask m) j = chanAt m j := rfl
@[simp] theorem setErr_linkAt (a : Arr) (h : Half) (i : Nat) (mask : CodeWord) (j : Fin 3) : linkAt (setErr a h i mask m) j = linkAt m j := rfl
@[simp] theorem setErr_anvAt (a : Arr) (h : Half) (i : Nat) (mask : CodeWord) (j : Half) : anvAt (setErr a h i mask m) j = anvAt m j := rfl
@[simp] theorem setErr_seqAt (a : Arr) (h : Half) (i : Nat) (mask : CodeWord) (j j2 : Half) : seqAt (setErr a h i mask m) j j2 = seqAt m j j2 := rfl

/-! ## raiseDemand -/

@[simp] theorem raiseDemand_nextId (h : Half) : (raiseDemand h m).nextId = m.nextId := rfl
@[simp] theorem raiseDemand_freeCtr (h : Half) : (raiseDemand h m).freeCtr = m.freeCtr := rfl
@[simp] theorem raiseDemand_out (h : Half) : (raiseDemand h m).out = m.out := rfl
@[simp] theorem raiseDemand_todo (h : Half) : (raiseDemand h m).todo = m.todo := rfl
@[simp] theorem raiseDemand_unitDone (h : Half) : (raiseDemand h m).unitDone = m.unitDone := rfl
@[simp] theorem raiseDemand_finished (h : Half) : (raiseDemand h m).finished = m.finished := rfl
@[simp] theorem raiseDemand_answers (h : Half) : (raiseDemand h m).answers = m.answers := rfl
@[simp] theorem raiseDemand_again (h : Half) : (raiseDemand h m).again = m.again := rfl
@[simp] theorem raiseDemand_ports (h : Half) : (raiseDemand h m).ports = m.ports := rfl
@[simp] theorem raiseDemand_chans (h : Half) : (raiseDemand h m).chans = m.chans := rfl
@[simp] theorem raiseDemand_links (h : Half) : (raiseDemand h m).links = m.links := rfl
@[simp] theorem raiseDemand_ctrs (h : Half) : (raiseDemand h m).ctrs = m.ctrs := rfl
@[simp] theorem raiseDemand_parked (h : Half) : (raiseDemand h m).parked = m.parked := rfl
@[simp] theorem raiseDemand_ctrPtr (h : Half) : (raiseDemand h m).ctrPtr = m.ctrPtr := rfl
@[simp] theorem raiseDemand_spanPtr (h : Half) : (raiseDemand h m).spanPtr = m.spanPtr := rfl
@[simp] theorem raiseDemand_lblPtr (h : Half) : (raiseDemand h m).lblPtr = m.lblPtr := rfl
@[simp] theorem raiseDemand_reports (h : Half) : (raiseDemand h m).reports = m.reports := rfl
@[simp] theorem raiseDemand_coh (h : Half) : (raiseDemand h m).coh = m.coh := rfl
@[simp] theorem raiseDemand_re (h : Half) : (raiseDemand h m).re = m.re := rfl
@[simp] theorem raiseDemand_anvs (h : Half) : (raiseDemand h m).anvs = m.anvs := rfl
@[simp] theorem raiseDemand_seqs (h : Half) : (raiseDemand h m).seqs = m.seqs := rfl
@[simp] theorem raiseDemand_img (h : Half) : (raiseDemand h m).img = m.img := rfl
@[simp] theorem raiseDemand_svc (h : Half) : (raiseDemand h m).svc = m.svc := rfl
@[simp] theorem raiseDemand_ras (h : Half) : (raiseDemand h m).ras = m.ras := rfl
@[simp] theorem raiseDemand_jrn (h : Half) : (raiseDemand h m).jrn = m.jrn := rfl
@[simp] theorem raiseDemand_vi (h : Half) : (raiseDemand h m).vi = m.vi := rfl
@[simp] theorem raiseDemand_dbg (h : Half) : (raiseDemand h m).dbg = m.dbg := rfl
@[simp] theorem raiseDemand_mg (h : Half) : (raiseDemand h m).mg = m.mg := rfl
@[simp] theorem raiseDemand_detRefn (h : Half) : (raiseDemand h m).detRefn = m.detRefn := rfl
@[simp] theorem raiseDemand_portAt (h : Half) (j : PortIx) : portAt (raiseDemand h m) j = portAt m j := rfl
@[simp] theorem raiseDemand_chanAt (h : Half) (j : Half) : chanAt (raiseDemand h m) j = chanAt m j := rfl
@[simp] theorem raiseDemand_linkAt (h : Half) (j : Fin 3) : linkAt (raiseDemand h m) j = linkAt m j := rfl
@[simp] theorem raiseDemand_anvAt (h : Half) (j : Half) : anvAt (raiseDemand h m) j = anvAt m j := rfl
@[simp] theorem raiseDemand_seqAt (h : Half) (j j2 : Half) : seqAt (raiseDemand h m) j j2 = seqAt m j j2 := rfl

/-! ## Reading back -/

@[simp] theorem halfAt_setHalf (h : Half) (x : HalfSt) : halfAt (setHalf h x m) h = x := by simp [halfAt, setHalf]
@[simp] theorem halfAt_modHalf (h : Half) (f : HalfSt → HalfSt) : halfAt (modHalf h f m) h = f (halfAt m h) := by simp [modHalf]
@[simp] theorem portAt_modPort (p : PortIx) (f : Port → Port) : portAt (modPort p f m) p = f (portAt m p) := by simp [portAt, modPort]
@[simp] theorem chanAt_modChan (c : Half) (f : MemChan → MemChan) : chanAt (modChan c f m) c = f (chanAt m c) := by simp [chanAt, modChan]
@[simp] theorem linkAt_modLink (k : Fin 3) (f : Link → Link) : linkAt (modLink k f m) k = f (linkAt m k) := by simp [linkAt, modLink]
@[simp] theorem anvAt_modAnv (h : Half) (f : Anvil → Anvil) : anvAt (modAnv h f m) h = f (anvAt m h) := by simp [anvAt, modAnv]
@[simp] theorem seqAt_modSeq (h k : Half) (f : Seq → Seq) : seqAt (modSeq h k f m) h k = f (seqAt m h k) := by simp [seqAt, modSeq]

/-! ## Reading elsewhere -/

theorem halfAt_setHalf_ne {h j : Half} (x : HalfSt) (e : j ≠ h) : halfAt (setHalf h x m) j = halfAt m j := by
  have : h.val ≠ j.val := fun q => e (Fin.ext q.symm)
  simp [halfAt, setHalf, this]

theorem halfAt_modHalf_ne {h j : Half} (f : HalfSt → HalfSt) (e : j ≠ h) : halfAt (modHalf h f m) j = halfAt m j :=
  halfAt_setHalf_ne m _ e

theorem portAt_modPort_ne {p j : PortIx} (f : Port → Port) (e : j ≠ p) : portAt (modPort p f m) j = portAt m j := by
  have : p.val ≠ j.val := fun q => e (Fin.ext q.symm)
  simp [portAt, modPort, this]

theorem chanAt_modChan_ne {c j : Half} (f : MemChan → MemChan) (e : j ≠ c) : chanAt (modChan c f m) j = chanAt m j := by
  have : c.val ≠ j.val := fun q => e (Fin.ext q.symm)
  simp [chanAt, modChan, this]

theorem linkAt_modLink_ne {k j : Fin 3} (f : Link → Link) (e : j ≠ k) : linkAt (modLink k f m) j = linkAt m j := by
  have : k.val ≠ j.val := fun q => e (Fin.ext q.symm)
  simp [linkAt, modLink, this]

theorem anvAt_modAnv_ne {h j : Half} (f : Anvil → Anvil) (e : j ≠ h) : anvAt (modAnv h f m) j = anvAt m j := by
  have : h.val ≠ j.val := fun q => e (Fin.ext q.symm)
  simp [anvAt, modAnv, this]

theorem seqAt_modSeq_ne {h k j i : Half} (f : Seq → Seq) (e : (j, i) ≠ (h, k)) : seqAt (modSeq h k f m) j i = seqAt m j i := by
  have : (seqIx h k).val ≠ (seqIx j i).val := by
    intro q
    simp only [seqIx] at q
    have := h.isLt; have := k.isLt; have := j.isLt; have := i.isLt
    exact e (by rw [Prod.mk.injEq]; exact ⟨Fin.ext (by omega), Fin.ext (by omega)⟩)
  simp [seqAt, modSeq, this]

end Sys2Proof.Machine
end

