-- ==== Sys2Proof/Laws/Port.lean ====
section
/-!
SUPPORT. What a request port does with one beat when nothing else of the port is in the slice.
-/

namespace Sys2Proof.Machine

theorem modPort_modPort (p : PortIx) (f f' : Port → Port) (m : Mach) : modPort p f (modPort p f' m) = modPort p (fun x => f (f' x)) m := by
  simp [modPort, Vector.set_set]

theorem modPort_congr {p : PortIx} {f f' : Port → Port} {m : Mach} (h : f (portAt m p) = f' (portAt m p)) : modPort p f m = modPort p f' m := by
  have : f m.ports[p] = f' m.ports[p] := h
  simp only [modPort, this]

theorem takeReqCredit_in0 (l : Bool) (x : Port) : (takeReqCredit l x).in0 = x.in0 := by cases l <;> rfl
theorem takeReqCredit_in1 (l : Bool) (x : Port) : (takeReqCredit l x).in1 = x.in1 := by cases l <;> rfl
theorem takeReqCredit_txns (l : Bool) (x : Port) : (takeReqCredit l x).txns = x.txns := by cases l <;> rfl
theorem takeReqCredit_wd (l : Bool) (x : Port) : (takeReqCredit l x).wd = x.wd := by cases l <;> rfl
theorem takeReqCredit_wdIn (l : Bool) (x : Port) : (takeReqCredit l x).wdIn = x.wdIn := by cases l <;> rfl
theorem takeReqCredit_idx (l : Bool) (x : Port) : (takeReqCredit l x).idx = x.idx := by cases l <;> rfl
theorem takeReqCredit_caching (l : Bool) (x : Port) : (takeReqCredit l x).caching = x.caching := by cases l <;> rfl
theorem takeReqCredit_laneRun (l : Bool) (x : Port) : (takeReqCredit l x).laneRun = x.laneRun := by cases l <;> rfl

theorem takeReqCredit_txnOut (l : Bool) (x : Port) (t : BitVec 10) : txnOut (takeReqCredit l x) t = txnOut x t := by cases l <;> rfl

theorem holdFull_of_txns {x : Port} (h : x.txns = []) : holdFull x = false := by simp [holdFull, heldOn, h, Config.holdEntries]

/-- One lane-1 beat in the ingress buffer is parsed, and no WD beat waits. -/
theorem drainPort_one1 {g : Regs} {p : PortIx} {m : Mach} {i : InBeat} (hs : m.dbg.stopped = false) (h0 : (portAt m p).in0 = [])
    (h1 : (portAt m p).in1 = [i]) (hw : (portAt m p).wdIn = []) :
    drainPort g p m = parseReq g p i (modPort p (fun y => { y with in1 := [], laneRun := y.laneRun + 1 }) m) := by
  simp [drainPort, drainIngress, h0, h1, hw, hs, ingressLoop, wdLoop]

/-- One lane-0 beat in the ingress buffer of a port that holds nothing is parsed, and no WD beat waits. -/
theorem drainPort_one0 {g : Regs} {p : PortIx} {m : Mach} {i : InBeat} (hs : m.dbg.stopped = false) (h0 : (portAt m p).in0 = [i])
    (h1 : (portAt m p).in1 = []) (hx : (portAt m p).txns = []) (hw : (portAt m p).wdIn = []) :
    drainPort g p m = parseReq g p i (modPort p (fun y => { y with in0 := [], laneRun := 0 }) m) := by
  simp [drainPort, drainIngress, h0, h1, hw, hs, ingressLoop, wdLoop, holdFull_of_txns hx]

/-- A beat at a port with empty buffers is parsed at once. -/
theorem takeReq_free {g : Regs} {p : PortIx} {opc : BitVec 6} {b : ReqBeat} {m : Mach} (ht : (halfAt m (portHalf p)).pw.tail = false)
    (hs : m.dbg.stopped = false) (h0 : (portAt m p).in0 = []) (h1 : (portAt m p).in1 = []) (hx : (portAt m p).txns = [])
    (hd : (portAt m p).wd = []) (hw : (portAt m p).wdIn = []) :
    takeReq g p opc b m = parseReq g p (inBeat g p opc b m) (beatIn p b (beatsOf opc b.size) m) := by
  have hi : inBeat g p opc b (modPort p (takeReqCredit b.lane) m) = inBeat g p opc b m := by
    simp [inBeat, takeReqCredit_idx, takeReqCredit_txnOut, coreTime]
  have hm : takeBeat (portHalf p) (modPort p (takeReqCredit b.lane) m) = modPort p (takeReqCredit b.lane) m := by simp [takeBeat, ht]
  unfold takeReq
  simp only [hm, hi]
  have hl (f : Port → Port) : { modPort p f m with nextId := m.nextId + 1 } = modPort p f { m with nextId := m.nextId + 1 } := rfl
  have hp : portAt { m with nextId := m.nextId + 1 } p = portAt m p := rfl
  have hid : (inBeat g p opc b m).req.id = m.nextId := rfl
  generalize inBeat g p opc b m = i at hid ⊢
  simp only [beatIn, modPort_nextId, hl, modPort_modPort]
  have hg : ({ m with nextId := m.nextId + 1 } : Mach).dbg.stopped = false := hs
  generalize { m with nextId := m.nextId + 1 } = w at hp hl hg ⊢
  cases hb : b.lane with
  | true =>
    rw [drainPort_one1 (i := i), modPort_modPort]
    · congr 1
      apply modPort_congr
      by_cases hz : beatsOf opc b.size = 0 <;> simp [takeReqCredit, hp, hd, h1, hid, hz]
    all_goals by_cases hz : beatsOf opc b.size = 0 <;> simp [portAt_modPort, takeReqCredit, hp, h0, h1, hw, hz, hg]
  | false =>
    rw [drainPort_one0 (i := i), modPort_modPort]
    · congr 1
      apply modPort_congr
      by_cases hz : beatsOf opc b.size = 0 <;> simp [takeReqCredit, hp, hd, h0, hid, hz]
    all_goals by_cases hz : beatsOf opc b.size = 0 <;> simp [portAt_modPort, takeReqCredit, hp, h0, h1, hw, hx, hz, hg]

/-- The port with one transaction. -/
def oneTxn (t : Txn) (x : Port) : Port := { x with txns := [t] }

/-- A transaction alone on its port, complete and not held back, enters the pipeline. -/
theorem enterReady_one {g : Regs} {p : PortIx} {m : Mach} {t : Txn} (h : (portAt m p).txns = [t]) (h0 : (portAt m p).in0 = [])
    (h1 : (portAt m p).in1 = []) (hp : t.phase = .ranged) (hn : t.need = 0) :
    enterReady g p m = sendHome g t.req (trainBellows g p t.req (modPort p (oneTxn { t with phase := .home }) m)) := by
  have hq : nextEntry (unparsed (portAt m p)) (portAt m p).txns = some t := by
    simp [nextEntry, unparsed, h, h0, h1, presentedBefore, heldBack, hp, hn]
  simp only [enterReady, h, List.length_cons, List.length_nil, Nat.zero_add, enterLoop]
  simp only [h] at hq
  simp only [hq, setPhase]
  congr 2
  apply modPort_congr
  simp [h, hn, oneTxn]

/-- A transaction whose write data are still to come waits. -/
theorem enterReady_waits {g : Regs} {p : PortIx} {m : Mach} {t : Txn} (h : (portAt m p).txns = [t]) (hn : t.need ≠ 0) : enterReady g p m = m := by
  simp [enterReady, h, enterLoop, nextEntry, hn]

end Sys2Proof.Machine
end

