-- ==== Sys2Proof/Laws/Seqs.lean ====
section
/-!
SUPPORT. What an instruction of a sequencer does when it issues: its effect on the sequencer, and the move of PC.
-/

namespace Sys2Proof.Machine

@[simp] theorem modSeq_modSeq (h k : Half) (f f' : Seq → Seq) (m : Mach) :
    modSeq h k f (modSeq h k f' m) = modSeq h k (fun q => f (f' q)) m := by
  simp [modSeq]

theorem modSeq_congr {h k : Half} {f f' : Seq → Seq} {m : Mach} (e : f (seqAt m h k) = f' (seqAt m h k)) : modSeq h k f m = modSeq h k f' m := by
  simp only [modSeq, seqAt] at *; rw [e]

@[simp] theorem setA_stop (r : Fin 16) (v : BitVec 64) (q : Seq) : (setA r v q).stop = q.stop := by simp only [setA]; split <;> rfl
@[simp] theorem setA_pc (r : Fin 16) (v : BitVec 64) (q : Seq) : (setA r v q).pc = q.pc := by simp only [setA]; split <;> rfl
@[simp] theorem setA_oneStep (r : Fin 16) (v : BitVec 64) (q : Seq) : (setA r v q).oneStep = q.oneStep := by simp only [setA]; split <;> rfl

theorem fetches_stop {s : State} {h k : Half} {w : BitVec 32} (hf : fetches s h k w) : (seqAt s.m h k).stop = none := by
  have := hf.2.2.2.2.1
  simp only [canIssue, issuing, Bool.and_eq_true, Option.isNone_iff_eq_none] at this
  exact this.1.1.1.1.1.2

/-- An instruction whose effect is a change of its own sequencer has that effect; then PC moves. -/
theorem instruction_issues {s : State} {h k : Half} {w : BitVec 32} (hf : fetches s h k w) {code : Nat} (hc : insCode w = code) (f : Seq → Seq)
    (e : Regs → BitVec 32 → Mach → Mach) (tg : Seq → BitVec 32 → Option (BitVec 12)) (he : e s.regs w s.m = modSeq h k f s.m)
    (hs : (f (seqAt s.m h k)).stop = none) (h1 : (f (seqAt s.m h k)).oneStep = false) (hp : (f (seqAt s.m h k)).pc = (seqAt s.m h k).pc) :
    instruction code h k e tg s =
      seqAfter s h k fun q => { f q with pc := ((tg (seqAt s.m h k) w).getD ((f q).pc + 1)), skipBp := false } := by
  obtain ⟨a1, a2, a3, a4, a5, a6, a7, a8, a9, a10⟩ := hf
  have hb : fetchBad s.m h k = false := by
    simp only [fetchBad, errMask, a2, List.find?_nil]
    rfl
  have hw : storeSeen s.regs s.m h k (seqAt s.m h k).pc.toNat = w := by
    rw [← a6]
    simp only [storeSeen, errMask, a2, List.find?_nil]
    have h0 : leftOf (0#266 : CodeWord) = 0#256 := by rw [leftOf, eccRead, if_pos (by rfl)]; rfl
    have hx : ∀ (x : BitVec 32) (a : Nat), x ^^^ BitVec.extractLsb' a 32 (leftOf (0#266 : CodeWord)) = x := by
      intro x a; rw [h0, BitVec.extractLsb'_zero]; exact BitVec.xor_zero
    exact hx _ _
  have hpr : ∀ l, progRead s.regs h l s.m = (false, s.m) := by intro l; simp [progRead, a2]
  have hfl : faulted (seqAt (modSeq h k f s.m) h k) = false := by simp [faulted, seqAt_modSeq, hs]
  have hpf : ∀ x m, profile s.regs h 0x10 x 1 m = m := by intro x m; simp [profile, profRuns, a3]
  have htr : (halfAt (modSeq h k f s.m) h).trace.act = false := a4
  simp only [instruction, run, a5, hw, hc, bne_self_eq_false, hb, a7, a8, hpr, he, hfl, Bool.not_true, Bool.false_or, Bool.false_eq_true, if_false]
  simp only [issued, traceInstr, htr, Bool.false_and, Bool.false_eq_true, if_false, hpf, seqAt_modSeq, hs, Option.isSome_none, h1, modSeq_modSeq]
  have h10 : ((tg (seqAt s.m h k) w).isNone && (f (seqAt s.m h k)).pc == 0xFFF) = false := by
    rw [hp]
    have : ((seqAt s.m h k).pc == 0xFFF) = false := by simpa using a10
    rw [this, Bool.and_false]
  simp only [h10, Bool.false_eq_true, if_false, seqAfter]
  rw [settle_of_calm (by exact a1)]

theorem insCode_of {w : BitVec 32} {n : Nat} (h : w.extractLsb' 26 6 = BitVec.ofNat 6 n) (hn : n < 64) : insCode w = n := by
  simp only [insCode, h, BitVec.toNat_ofNat]; omega

end Sys2Proof.Machine
end

