-- ==== Sys2Proof/WellFormed.lean ====
section
/-!
DEFINITION. Well-formed commands: what the sender of a command must keep for its row of the table to be the right one. A beat that is
merely refused by the checks of R73 is well formed.
-/

namespace Sys2Proof

/-- The opcodes of Table 2.6; every other OPC is reserved (R49). -/
def assignedOpcodes : List (BitVec 6) :=
  [0x00, 0x01, 0x02, 0x03, 0x08, 0x0A, 0x0B, 0x0C, 0x10, 0x11, 0x12, 0x18, 0x19, 0x1A, 0x20, 0x21, 0x22, 0x23, 0x28, 0x30, 0x31, 0x32, 0x33]

/-- KIND of a hello word (Table 3.7). -/
def kindOf (w : BitVec 64) : BitVec 2 := w.extractLsb' 62 2

/-- A NOTICE word of a reclaim (R218): ROLE 0xB, and the bit that tells an answer from a notice. -/
def noticeOk (ans : Bool) (w : BitVec 64) : Bool := kindOf w == 0 && w.extractLsb' 58 4 == 0xB && bitAt w 48 == ans

/-- The failing rows of a half: places of frames, each once (R13, R459). -/
def rowsOk (rows : List (BitVec 13 × BitVec 5)) : Bool := rows.all (fun r => decide (r.2.toNat < Config.ways)) && decide rows.Nodup

/-- A command is well formed. -/
def Instr.wellFormed (i : Instr) : Bool :=
  match i with
  | .hello _ w => kindOf w == 1
  | .join _ w => kindOf w == 2
  | .bye _ w => kindOf w == 3
  | .reclaimNotice _ _ w => noticeOk false w
  | .reclaimAnswer _ _ w => noticeOk true w
  | .reservedOpcode _ opc _ => !assignedOpcodes.contains opc
  | .fwd m => assignedOpcodes.contains m.opc
  | .xrsp m => m.line.isSome || m.dsmask == 0
  | .journalStepEnd o => rowsOk o.rows0 && rowsOk o.rows1
  | .rdNc .. | .rdS .. | .rdU .. | .pref .. | .wr .. | .place .. | .upg .. | .evict .. | .atomR .. | .atomN .. | .addl ..
  | .grpOpen .. | .grpContrib .. | .grpAbort .. | .ctrAdd .. | .ctrRead .. | .ctrReset .. | .wait .. | .invoke .. | .cln ..
  | .inv .. | .clninv .. | .zero .. | .wdBeat .. | .srsp .. | .completionTransfer .. | .creditReturn .. | .holdRelease ..
  | .bucketRefill | .orderPointWaitEnd .. | .snoopTimeout .. | .holdWindowEnd .. | .missWaitRelease .. | .memCmdIssue ..
  | .msgCreditReturn .. | .memReadResponse .. | .memWriteResponse .. | .memAtomicResponse .. | .fillInstall ..
  | .victimRecall .. | .mergeEntryTimeout .. | .mergeDrainEnd .. | .packMoveOut .. | .packMoveEnd .. | .bellowsPrefetch ..
  | .cmpl .. | .snpf .. | .srspf .. | .xreq .. | .xwb .. | .xsnp .. | .helloRepeat .. | .reclaimWalkStep .. | .lnkUpFall ..
  | .counterReport | .waitRelease | .mgmtWrite .. | .mgmtRead .. | .regWrite | .aliasWrite | .profileSet | .portDisable
  | .portEnable | .hcCmpWrite | .hcBlwWrite | .cacheDisable | .cacheEnable | .wayUseWrite | .maskWrite | .hrCtlWrite
  | .reCln | .reInv | .reClninv | .reZero | .rePin | .reUnpin | .reAbort | .reAck | .reLineVisit .. | .reComplete
  | .cohCtlWrite | .cohPredMode | .cohPredRst | .idxInstWrite | .ctrOwnWrite | .arbCtlWrite | .ctrCmdReset | .aOpen ..
  | .aMma .. | .aReduce .. | .aDrain .. | .aDiscard .. | .feedReadComplete .. | .anvilSpill .. | .anvilOverflow ..
  | .anvilOpComplete .. | .drainWriteComplete .. | .anvCtlWrite | .detCtlWrite | .grpCmdAbort | .invokeDispatch ..
  | .iNop .. | .iMovi .. | .iAddi .. | .iAdd .. | .iSub .. | .iAnd .. | .iOr .. | .iXor .. | .iShli .. | .iShri ..
  | .iMul .. | .iLdp .. | .iBeq .. | .iBne .. | .iBltu .. | .iJmp .. | .iSetc .. | .iSetci .. | .iLoop .. | .iLd ..
  | .ldComplete .. | .iSt .. | .iFence .. | .iCadd .. | .iCwait .. | .iCread .. | .iCrst .. | .programReqComplete ..
  | .iDcopy .. | .iDset .. | .iIssue .. | .iOpwait .. | .iEnd .. | .endComplete .. | .seqFaultComplete .. | .seqEnable
  | .seqKill | .imageLoad | .imageLoadEnd | .lblSwap | .svcCtlWrite | .classDescWrite | .classBucketRefill ..
  | .eccWriteback .. | .eccRecheck .. | .structVote .. | .rasForce | .rasInjArm | .rasInjDisarm | .rmRemap | .rmRelease
  | .remapCopy .. | .qnGo | .qnAbort | .qnAck | .quenchRead .. | .stopIdleExpiry .. | .stopTailExpiry .. | .retEntry ..
  | .demandSample .. | .packRise .. | .ckackRise .. | .clockStartDone .. | .packTimeout .. | .pwrCtlWrite | .powerOnReset
  | .blockReset | .journalStart .. | .portReset .. | .jrnClr | .viReset | .viFreeze | .viThaw | .viSave | .viRestore
  | .viCmdDone | .viEnable | .viWctlWrite | .dlEnable | .dlSwitch | .dlOrComplete | .syncPulse | .tsArm | .ofsRemeasure
  | .tsProbeRequest .. | .tsProbeReply .. | .probeTimeout | .breakpointHit .. | .seqHalt | .seqResume | .seqStep | .trcArm
  | .trcTrig | .trcAck | .traceCaptureEnd .. | .pfClr | .mbGo | .mbAck | .dbgMbselWrite | .mailboxCaptureDone | .dmpArm
  | .dmpAck | .dumpCopyDone | .gsGo | .gsArm | .gsResume | .indDataRead | .indDataWrite | .timestampTick
  | .profilingCycle .. | .sweepFrame .. | .labelShadowCopy | .lnkUpRise .. | .reservedAnvilOp .. | .reservedInstruction .. => true

end Sys2Proof
end

