-- ==== Sys2Proof/Tests/Slice0.lean ====
section
/-!
SUPPORT. Tests: a term that each check of WellFormed refuses, worked examples of the spec, and for every statement states that meet the
hypotheses of each of its clauses.
-/

namespace Sys2Proof.Tests

open Sys2Proof Sys2Proof.Machine

-- one theorem at a time: waiting ones would take a thread each
set_option Elab.async false

/-! ## Ill-formed commands -/

def beat (addr : Addr) (size : BitVec 4) (label : BitVec 12) (aux : BitVec 32) (lane : Bool) : ReqBeat :=
  ⟨0, lane, 7, addr, size, label, 0x51, 0, 0, 0, 0, aux⟩

/-- KIND 0 is no HELLO, a HELLO word no JOIN, a JOIN word no BYE (Table 3.7). -/
theorem test_hello_kinds_refused :
    (Instr.hello (.port 0) 0).wellFormed = false ∧ (Instr.join (.port 0) 0x6000000000000000).wellFormed = false
      ∧ (Instr.bye (.port 0) 0xA000000000000000).wellFormed = false := by decide

/-- A notice is no answer, an answer no notice (R218). -/
theorem test_reclaim_words_refused :
    (Instr.reclaimNotice 0 1 0x2C01000000000000).wellFormed = false ∧ (Instr.reclaimAnswer 0 1 0x2C00000000000000).wellFormed = false
      ∧ (Instr.reclaimAnswer 0 1 0x2C01000000000000).wellFormed = true := by decide

/-- RD_NC is not reserved, and 0x3F is (Table 2.6). -/
theorem test_opcodes_refused :
    (Instr.reservedOpcode 0 0 (beat 0 0 0 0 false)).wellFormed = false
      ∧ (Instr.fwd ⟨0, 1, 0, 0, 0x3F, beat 0 0 0 0 false, 0, none, none⟩).wellFormed = false
      ∧ (Instr.reservedOpcode 0 0x3F (beat 0 0 0 0 false)).wellFormed = true := by decide

/-- An answer without a line names no dirty sectors (R93, R247). -/
theorem test_xrsp_without_line_refused : (Instr.xrsp ⟨1, 0, .done, none, 1⟩).wellFormed = false := by decide

/-- A set has 24 ways, and a row fails once (R13, R459). -/
theorem test_bist_rows_refused :
    (Instr.journalStepEnd ⟨true, [(5, 24)], [], false, 0⟩).wellFormed = false
      ∧ (Instr.journalStepEnd ⟨true, [], [(5, 3), (5, 3)], false, 0⟩).wellFormed = false
      ∧ (Instr.journalStepEnd ⟨true, [(5, 23)], [(5, 23)], false, 0⟩).wellFormed = true := by decide

/-! ## A slice at work -/

def joined : Hello := ⟨true, true, true, true, none⟩

/-- A half that is AWAKE, its structure words those of a package of one slice whose index map grants indices 0 to 3 here. -/
def awakeHalfSt : HalfSt := { HalfSt.reset with
  pw := ⟨3, true, true, true, true, false, false, false, false, false⟩
  words := Vector.replicate 3 [(16, 0x100), (17, 1), (25, 0x80808080)] }

def joinedPort (p : BitVec 6) : Port := { Port.reset with hello := joined, caching := true, idx := some p, avail := ⟨64, 16, 32, 16⟩ }

def joinedChan : MemChan := { MemChan.reset with
  hello := joined, atm := true, aops := 0x7FF, hcr := Vector.replicate 3 8, dcr := Vector.replicate 3 8 }

def joinedLink : Link := { Link.reset with hello := joined, up := true, part := [(1, joined)], hcr := Vector.replicate 4 8, dcr := Vector.replicate 4 8 }

/-- Both halves AWAKE, ports, channels and links joined; instance 0 runs and reaches the 2 MiB from 0x1000000; label 1 is its own and
unregulated, label 2 has a rate. -/
def live : State := ⟨{ Regs.reset with
    rpEn := Vector.replicate 4 true, anvEn := Vector.replicate 2 true, seqEn := Vector.replicate 4 true
    hc := Vector.replicate 2 { HcRegs.reset with cen := true }
    idxInst := Vector.replicate 64 ⟨true, 0⟩, ctrOwn := Vector.replicate 64 ⟨true, 0⟩
    live := [(1, ⟨true, 0, 0, 0, 0, 0⟩), (2, ⟨true, 0, 0, 0, 100, 40⟩)]
    insts := [(0, ⟨true, 0, false⟩)], windows := [(0, ⟨8, 1, true, 0⟩)], cohHold := 256 },
  { Mach.reset with
    nextId := 100, halves := Vector.replicate 2 awakeHalfSt, chans := Vector.replicate 2 joinedChan, links := Vector.replicate 3 joinedLink
    ports := Vector.ofFn fun p => joinedPort (BitVec.ofNat 6 p.val) }, []⟩

/-- `live` with what moves by itself changed. -/
def withM (f : Mach → Mach) : State := { live with m := f live.m }

def withHalf (f : HalfSt → HalfSt) : State := withM (modHalf 0 f)
def withPort (f : Port → Port) : State := withM (modPort 0 f)
def withChan (f : MemChan → MemChan) : State := withM (modChan 0 f)

/-- A command answers exactly this next state. -/
def gives (o : Host.Outcome State Fault Refusal) (t : State) : Bool := match o with | .next x => decide (x = t) | _ => false

theorem eq_of_gives {o : Host.Outcome State Fault Refusal} {t : State} (h : gives o t = true) : o = .next t := by
  cases o with
  | next x => simpa [gives] using h
  | fault f => simp [gives] at h
  | refused r => simp [gives] at h

/-- The next state of a command satisfies a condition. -/
def after (o : Host.Outcome State Fault Refusal) (p : State → Bool) : Bool := match o with | .next x => p x | _ => false

/-! ## Witnesses: the block -/

/-- StepRunsTheFrontCommand, StepIdlesOnAnEmptyQueue, CommandsEnd, CommandsKeepQueueAndRegisters. -/
theorem witness_block :
    { live with pending := [.waitRelease] }.pending = .waitRelease :: [] ∧ live.pending = [] ∧ fromPartner .waitRelease = false
      ∧ writesRegs .waitRelease = false ∧ exec .waitRelease live = .next live ∧ step { live with pending := [.waitRelease] } = .next live :=
  ⟨rfl, rfl, rfl, rfl, eq_of_gives (by decide +kernel), eq_of_gives (by decide +kernel)⟩

/-- EveryStepKeepsTheRegistersLegal: `live` is legal. -/
theorem witness_legal : LegalRegs live.regs := by
  refine ⟨fun h => ⟨?_, ?_, ?_, ?_, ?_, ?_, ?_⟩, ?_, ?_, ?_, ?_, ?_, ?_, ⟨?_, ?_, ?_, ?_, ?_⟩⟩ <;> (try revert h) <;> decide +kernel

/-! ## Witnesses: ports -/

/-- A legal form of every opcode of Table 2.6, WAIT with acquire and a write of a whole line among them. -/
def forms : List (Instr × Op × ReqBeat) :=
  let a : Addr := 0x1000400
  let f := fun (c : PortIx → ReqBeat → Instr) (o : Op) (b : ReqBeat) => (c 0 b, o, b)
  [f .rdNc .rdNc (beat (a + 0xFF) 0 1 0 false), f .rdS .rdS (beat a 8 1 0 false), f .rdU .rdU (beat a 6 1 0 false),
   f .pref .pref (beat a 8 1 0 false), f .wr .wr (beat a 8 1 0 false), f .wr .wr (beat (a + 0xFF) 0 1 0 false), f .place .place (beat a 8 1 3 false), f .upg .upg (beat a 8 1 0 false),
   f .evict .evict (beat a 8 1 0 false), f .atomR .atomR (beat (a + 8) 3 1 9 false), f .atomN .atomN (beat (a + 4) 2 1 16 false),
   f .addl .addl (beat a 6 1 3 false), f .grpOpen .grpOpen (beat a 8 1 0x82020000 false),
   f .grpContrib .grpContrib (beat a 8 1 0xFF3F false), f .grpAbort .grpAbort (beat a 8 1 0x3F false),
   f .ctrAdd .ctrAdd (beat 0xFFF8 3 1 5 true), f .ctrRead .ctrRead (beat 0 3 1 0 true), f .ctrReset .ctrReset (beat 8 3 1 0 true),
   f .wait .wait (beat 8 3 1 0x80000001 true), f .invoke .invoke (beat a 8 1 7 true), f .cln .cln (beat a 8 1 0 false),
   f .inv .inv (beat a 8 1 0 false), f .clninv .clnInv (beat a 8 1 0 false), f .zero .zero (beat a 8 1 0 false)]

/-- ParsedRequestGoesOnOrIsHeld: every opcode passes the parse of a free port, with and without write beats. -/
theorem witness_parsed : ∀ x ∈ forms, reqRow x.1 = some (x.2.1, 0, x.2.2) ∧ portFree live 0 x.2.2 ∧ parsed live 0 x.2.1 x.2.2
    ∧ notHeld live (portReq live 0 x.2.1 x.2.2) := by
  unfold portFree parsed notHeld; decide +kernel

theorem witness_parsed_beats : wdBeats .rdNc 0 = 0 ∧ wdBeats .wr 8 ≠ 0 := by decide

/-- RequestWithoutACreditFaults: for both lanes. -/
def noCredits : State := withPort fun x => { x with avail := Credits.none }

theorem witness_no_credit : clocked noCredits.m 0 = true ∧ noCredits.regs.rpEn[(0 : PortIx)] = true ∧ isJoined (portAt noCredits.m 0).hello = true
    ∧ ∀ x ∈ forms, laneCredits (portAt noCredits.m 0) x.2.2 = 0 := by decide +kernel

/-- ParsedRequestGoesOnOrIsHeld: label 2, whose bucket is empty. -/
theorem witness_held : ∀ x ∈ [(Op.rdNc, beat 0x1000400 8 2 0 false), (Op.wr, beat 0x1000400 8 2 0 false)],
    portFree live 0 x.2 ∧ parsed live 0 x.1 x.2 ∧ x.2.lane = false
      ∧ regulated live.regs (portReq live 0 x.1 x.2) = true ∧ levelOf live.m x.2.label < 1 := by
  unfold portFree parsed; decide +kernel

/-- ReservedOpcodeIsRefused. -/
theorem witness_reserved_opcode : let b := beat 0x1000400 8 1 0 false
    opOfBits 0x3F = none ∧ portFree live 0 b ∧ homeSafe live.m (portReq live 0 .rdNc b) = false := by
  unfold portFree; decide +kernel

/-- A request of a port, with the serial number 50. -/
def req (o : Op) (a : Addr) (size : BitVec 4) (origin : Origin) : Req :=
  { beatReq 50 origin o (beat a size 1 0 (isLane1 o)) 0 none with be := beRange 0 64 }

def txn (o : Op) (ph : Phase) (need : Nat) : Txn := ⟨req o 0x1000400 8 (.port 0), ph, need, false⟩

def wdState (k : Nat) : State := withPort fun x => { x with txns := [txn .wr .ranged (4 - k)], wd := [(50, 4, k)] }

/-- WriteBeatsJoinTheirRequest: the first of four beats, the last. -/
theorem witness_wd : wdReady (wdState 0) 0 (txn .wr .ranged 4) 4 0 ∧ wdReady (wdState 3) 0 (txn .wr .ranged 1) 4 3 := by
  unfold wdReady; decide +kernel

def snoopOf (k : SnpKind) (src : SnpSrc) : Snoop := ⟨k, 0x10004, 0, src, 0, 0, 0⟩

/-- Port 0 with a snoop, presented or not. -/
def snoopState (sent : Bool) : State :=
  let x : PortSnoop := ⟨9, snoopOf .inv (.home 0), sent⟩
  withPort fun p => { p with snoops := [x], snp := if sent then [] else [x] }

/-- SnoopResponseReachesItsDecider, WaitsEnd on a timeout. -/
theorem witness_srsp : let s := snoopState true
    awakeHalf s.m 0 ∧ (portAt s.m 0).avail.srsp ≠ 0
      ∧ ((portAt s.m 0).snoops.find? fun y => y.stxn == 9 && y.sent) = some ⟨9, snoopOf .inv (.home 0), true⟩
      ∧ ((portAt s.m 0).snoops.any fun y => y.stxn == 9 && y.sent) = true := by
  unfold awakeHalf; decide +kernel

def cmplOn (o : Op) : Cmpl := ⟨req o 0x1000400 8 (.port 0), .done, false, 0, 0⟩

def heldTxn (label : BitVec 12) : Txn := ⟨{ req .rdNc 0x1000400 8 (.port 0) with label := label }, .held, 0, false⟩

/-- PortEventsHappen: the channels' clauses, both beats of a completion and of a placement, the four pools, a held request whose label is not
regulated any more. -/
theorem witness_port_events :
    (portAt (withPort fun x => { x with rspCur := some (cmplOn .wr) }).m 0).rspCur = some (cmplOn .wr)
      ∧ (portAt (withPort fun x => { x with rdCur := some (.cmpl (cmplOn .rdNc), false) }).m 0).rdCur = some (.cmpl (cmplOn .rdNc), false)
      ∧ twoBeats (.cmpl (cmplOn .rdNc)) = true
      ∧ (portAt (withPort fun x => { x with rdCur := some (.cmpl (cmplOn .rdNc), true) }).m 0).rdCur = some (.cmpl (cmplOn .rdNc), true)
      ∧ twoBeats (.cmpl { cmplOn .rdNc with req := req .rdNc 0x1000400 7 (.port 0) }) = false
      ∧ (∀ b ∈ [false, true], (portAt (withPort fun x => { x with rdCur := some (.place 50 9 7 0 0, b) }).m 0).rdCur = some (.place 50 9 7 0 0, b))
      ∧ (∀ k ∈ [SnpKind.inv, .place], let x : PortSnoop := ⟨9, snoopOf k (.home 0), false⟩
        (portAt (withPort fun p => { p with snp := [x], snoops := [x] }).m 0).snp = [x])
      ∧ (∀ c ∈ [Pool.req0, .req1, .wd, .srsp], (returnCredit false c { joinedPort 0 with owed := ⟨1, 1, 1, 1⟩ }).isSome = true)
      ∧ (let s := withPort fun x => { x with txns := [heldTxn 1] }
        nextHeld s.regs s.m [] (heldOn (portAt s.m 0)) = some (heldTxn 1) ∧ parseCode s.regs s.m true false false (heldTxn 1).req = none) := by
  decide +kernel

/-- ServiceAndInstancesGoOn, of a refill: `live`, with label 2 below, at and above its burst. -/
theorem witness_bucket_refill : CanonicalStores live.regs ∧ (labelCtx live.regs 2).en = true ∧ (labelCtx live.regs 2).rate ≠ 0
    ∧ ∀ v ∈ [-1, 99, 100, 101], let m := { live.m with svc := { live.m.svc with level := [(2, v)] } }
      tabWf (0 : Int) m.svc.level = true ∧ calm m = true := by
  refine ⟨⟨by decide, by decide, by decide, by decide, by decide⟩, ?_⟩; decide +kernel

def opWaiting : State := withHalf fun hs => { hs with opWait := [req .rdNc 0x1000400 8 (.port 0)] }
def windowed : Win := ⟨0x10004, .agent 0, [snoopOf .inv (.home 0)], []⟩

/-- WaitsEnd. -/
theorem witness_waits :
    nextWaiter opWaiting.regs opWaiting.m 0 [] (halfAt opWaiting.m 0).opWait = some (req .rdNc 0x1000400 8 (.port 0), [])
      ∧ (halfAt (withHalf fun hs => { hs with wins := [windowed] }).m 0).wins = [windowed] ∧ windowed.line = 0x10004 ∧ windowed.xdelay = []
      ∧ (let s := withHalf fun hs => { hs with missWait := [req .rdNc 0x1000400 8 (.port 0)] }
        (halfAt s.m 0).refetch = [] ∧ ((halfAt s.m 0).missWait.find? fun x => missMayGo s.m 0 (lineOf x.addr)) = some (req .rdNc 0x1000400 8 (.port 0)))
      ∧ (let s := withHalf fun hs => { hs with refetch := [0x10004] }
        (halfAt s.m 0).refetch.find? (missMayGo s.m 0) = some 0x10004 ∧ chanJoined s.m 0 = true)
      ∧ (let s := withHalf fun hs => { hs with prefQ := [req .pref 0x1000400 8 .bellows] }
        s.m.dbg.stopped = false ∧ clocked s.m 0 = true ∧ (halfAt s.m 0).safe = false ∧ (halfAt s.m 0).prefQ = [req .pref 0x1000400 8 .bellows]) := by
  decide +kernel

/-! ## Witnesses: the management port -/

def withMg (x : Mgmt) : State := withM fun m => { m with mg := x }

def guarded : Mgmt := { Mgmt.reset with guard := some ⟨0x4, 5, 100⟩ }

/-- GuardJudgesEachWrite: a pair for 0x010 at the first and the last MCLK, one too late; a pair that nothing waits for; a guarded and a plain
register, with and without a value pending; TMODE 0 and 1. -/
theorem witness_guard :
    live.m.jrn.tmode = false ∧ (withM fun m => { m with jrn := { m.jrn with tmode := true } }).m.jrn.tmode = true
      ∧ pairOwner (offsetOf 0x5) = some (offsetOf 0x4) ∧ (∀ k ∈ [100, 108], 100 ≤ k ∧ k ≤ 108) ∧ ¬ (109 ≤ 108)
      ∧ writeReady 0x5 guarded = true ∧ (0xFFFFFFFA#32 = ~~~5)
      ∧ pairOwner (offsetOf 0x4) = none ∧ isGuarded (offsetOf 0x4) = true ∧ pairOwner (offsetOf 0x440) = none ∧ isGuarded (offsetOf 0x440) = false
      ∧ writeReady 0x4 guarded = true ∧ writeReady 0x440 guarded = true ∧ writeReady 0x5 Mgmt.reset = true ∧ writeReady 0x440 Mgmt.reset = true := by
  decide +kernel

/-- AccessesWaitAndReturn: a full queue of writes, one of reads; an empty queue; a read behind a write. -/
theorem witness_accesses :
    pairOwner (offsetOf 0x440) = none ∧ 16 ≤ queuedWrites { Mgmt.reset with q := List.replicate 16 (.write 0x440 0) }
      ∧ 16 ≤ queuedWrites { guarded with q := List.replicate 15 (.write 0x440 0) } + 1
      ∧ 4 ≤ queuedReads { Mgmt.reset with q := List.replicate 4 (.read 0x440) } ∧ pairOwner (offsetOf 0x5) ≠ none
      ∧ live.m.mg.q = [] ∧ (∀ h ∈ neededHalves live.m (wordOff (offsetOf 0x440)), (halfAt live.m h).pw.awake = true) ∧ offsetOf 0x440 ≠ indData
      ∧ queuedReads { Mgmt.reset with q := [.write 0x440 0] } < 4 := by
  decide +kernel

/-- `live` with a write at the front of the queue. -/
def front (off : Nat) (v : BitVec 32) : State := withMg { Mgmt.reset with q := [.write (BitVec.ofNat 18 (off / 4)) v] }

theorem frugal_mg (m : Mach) (x : Mgmt) : frugal { m with mg := x } = frugal m := rfl

/-- Whatever the offset, the write meets the premise of the statements about register writes. -/
theorem witness_front (off : Nat) (v : BitVec 32) (h : off % 4 = 0) (h' : off < 0x100000) : writeAtFront (front off v) off v := by
  refine ⟨BitVec.ofNat 18 (off / 4), [], rfl, ?_, ?_, ?_⟩
  · simp only [offsetOf, BitVec.toNat_ofNat]; omega
  · have : frugal live.m = false := by decide +kernel
    simp [deadRegister, front, withMg, withM, frugal_mg, this]
  · intro x _
    have : ∀ y : Half, clocked live.m y = true := by decide +kernel
    exact this x

/-- RegisterWriteIsApplied: a write that each row takes. -/
def rowWrites : List (Instr × Nat × BitVec 32) :=
  [(.regWrite, 0x1110, 0), (.profileSet, 0x10, 2), (.portDisable, 0xA030, 0), (.portEnable, 0xA000, 1), (.hcCmpWrite, 0x2100, 0),
   (.hcBlwWrite, 0x1108, 0x10), (.cacheDisable, 0x1200, 0), (.cacheEnable, 0x2200, 1), (.wayUseWrite, 0x2218, 0), (.maskWrite, 0x127C, 0),
   (.hrCtlWrite, 0x14F8, 0), (.reCln, 0x160C, 0x10), (.reInv, 0x160C, 0x11), (.reClninv, 0x160C, 0x12), (.reZero, 0x160C, 0x13),
   (.rePin, 0x160C, 0x14), (.reUnpin, 0x160C, 0x15), (.reAbort, 0x160C, 0x20), (.reAck, 0x160C, 0x40), (.cohCtlWrite, 0x3000, 16),
   (.cohPredMode, 0x3004, 1), (.cohPredRst, 0x3004, 0x80), (.idxInstWrite, 0x307C, 0), (.ctrOwnWrite, 0x31FC, 0), (.arbCtlWrite, 0x3210, 0),
   (.ctrCmdReset, 0x3228, 1), (.anvCtlWrite, 0x5100, 1), (.detCtlWrite, 0x20, 1), (.grpCmdAbort, 0x2314, 1), (.seqEnable, 0x5180, 3),
   (.seqKill, 0x5080, 0x20), (.imageLoad, 0x7100, 1), (.lblSwap, 0x4008, 1), (.svcCtlWrite, 0x4000, 3), (.classDescWrite, 0x41F8, 0),
   (.rasForce, 0x6000, 0x80), (.rasInjArm, 0x6080, 0x80000000), (.rasInjDisarm, 0x6080, 0), (.rmRemap, 0x6188, 0x80000000),
   (.rmRelease, 0x6180, 0xC0000000), (.qnGo, 0x6244, 0x40), (.qnAbort, 0x6204, 0x80), (.qnAck, 0x6204, 0x100), (.pwrCtlWrite, 0x7000, 0),
   (.jrnClr, 0x7010, 0x80000000), (.viReset, 0x800C, 1), (.viFreeze, 0x800C, 2), (.viThaw, 0x800C, 3), (.viSave, 0x800C, 4),
   (.viRestore, 0x800C, 5), (.viEnable, 0x8004, 0), (.viWctlWrite, 0x804C, 0), (.dlEnable, 0x8080, 0x80000000), (.dlSwitch, 0x8080, 0x40000000),
   (.tsArm, 0x9018, 1), (.ofsRemeasure, 0x9030, 0x80000000), (.seqHalt, 0x9188, 2), (.seqResume, 0x9180, 4), (.seqStep, 0x9180, 0x10),
   (.trcArm, 0x9220, 0x80000000), (.trcTrig, 0x9200, 0x40000000), (.trcAck, 0x9200, 0x20000000), (.pfClr, 0x93F0, 8), (.mbGo, 0xF000, 0x80000000),
   (.mbAck, 0xF000, 0x40000000), (.dbgMbselWrite, 0x900C, 0), (.dmpArm, 0x98F8, 0x80000000), (.dmpAck, 0x9818, 0x40000000),
   (.gsGo, 0x9A00, 0x80000000), (.gsArm, 0x9A00, 0xC0000000), (.gsResume, 0x9A00, 0x20000000)]

theorem witness_rows : ∀ x ∈ rowWrites, x.2.1 % 4 = 0 ∧ x.2.1 < 0x100000 ∧ ((registerRow x.1).map fun row => row x.2.1 x.2.2) = some true := by
  decide +kernel

/-- AliasWordsNameOneBit: NAGE bit 0 of HC0_REPL by its alias (the example of R552), which exists; the last alias word. -/
theorem witness_alias : aliasWord 0xA2080 = 0x1104 ∧ aliasBit 0xA2080 = 0 ∧ deadRegister live.m (aliasWord 0xA2080) = false
    ∧ aliasWord 0xFFFFC = 0x3FFC ∧ aliasBit 0xFFFFC = 31 := by
  decide +kernel

/-- The example of R552: a 1 at that alias leaves NAGE 0b01 at 0b01 and makes 0b10 0b11; at the alias of CEN of HC1_CTL nothing changes. -/
theorem test_alias_write_example :
    (∀ n ∈ [(1#2, 1#2), (2, 3)],
      let s := { front 0xA2080 1 with regs := { live.regs with hc := live.regs.hc.set 0 { live.regs.hc[0] with nage := n.1 } } }
      after (exec .aliasWrite s) (fun t => t.regs.hc[(0 : Half)].nage == n.2 && t.regs.hc[(0 : Half)].pfage == 2) = true)
    ∧ after (exec .aliasWrite (front 0xC4000 0)) (fun t => t.regs.hc[(1 : Half)].cen) = true := by
  decide +kernel


/-- CacheControlWrites, CoherenceWrites, UnitWrites: the conditions on the value, at the bounds of each field; `witness_front` gives the rest. -/
theorem witness_write_values :
    bitAt 0#32 0 = false ∧ bitAt 1#32 0 = true ∧ (∃ w : Fin 16, 4 ≤ w.val ∧ (0x300#32).extractLsb' (2 * w.val) 2 = 3)
      ∧ bitAt 0x82#32 7 = true ∧ (0x82#32).extractLsb' 0 2 ≠ 3
      ∧ (let v := 0x9E021309#32
        bitAt v 31 = true ∧ (v.extractLsb' 0 9).toNat ≤ 265 ∧ (bitAt v 25 = true → (v.extractLsb' 9 9).toNat ≤ 265) ∧ (v.extractLsb' 26 4).toNat ≤ 7)
      ∧ (let v := 0x8000010A#32
        bitAt v 31 = true ∧ 265 < (v.extractLsb' 0 9).toNat) := by decide

/-- CacheControlWrites, of the way uses: a reserved code in either register; a change into reservation use while a group is open, which is
refused, and one of other ways, which is not; no way changed, and a sweep that runs already; a frame of a way that Hearth gives to cache. -/
theorem witness_way_uses :
    reservedUse (newUses false 0x300 0) = true ∧ reservedUse (newUses true 0xC000 0) = true
      ∧ (let m := (withHalf fun hs => { hs with groups := [(2, none)] }).m
        usesRefused m 0 0 (newUses false 0x200 0) = true ∧ usesRefused m 0 0 (newUses false 0x100 0) = false)
      ∧ usesRefused live.m 0 0 (newUses true 0x8000 0) = false ∧ reservedUse (newUses true 0x8000 0) = false
      ∧ changedWays 0 (newUses false 0xFF 0) = 0 ∧ changedWays 0 (newUses true 0x8000 0) = 0x800000
      ∧ (∀ b ∈ [false, true], (halfAt (withHalf fun hs => { hs with sweep := ⟨b, 3, 4, 0x10⟩ }).m 0).sweep.run = b)
      ∧ (let s := withHalf fun hs => { hs with frames := [(24 * 3 + 4, { Frame.free with pinned := true, lines := Frame.free.lines.set 0 { LineSt.free with pres := true } })] }
        s.m.ras.errs = [] ∧ s.m.ras.armed = false ∧ tabWf Frame.free (halfAt s.m 0).frames = true ∧ isFree (frameAt (halfAt s.m 0) 3 4) = false
          ∧ (frameAt (halfAt s.m 0) 3 4).pinned = true ∧ wayUse s.regs 0 4 = 0 ∧ (1#24 <<< 4).getLsbD 4 = true ∧ (1#24 <<< 4).getLsbD 23 = false) := by
  decide +kernel

/-! ## A half that FRUGAL has turned off -/

def frugalWords (hs : HalfSt) : HalfSt := { hs with words := Vector.replicate 3 [(16, 0x100), (17, 0x80000001), (25, 0x80808080)] }

def frugalState (q : List Access) : State := withM fun m => { m with halves := Vector.replicate 2 (frugalWords awakeHalfSt), mg := { Mgmt.reset with q := q } }

/-- DeadHalfReadsZero: a register of Half 1, one of no half, an alias of one, a write to each; a shared register and an alias of its field of
Half 1; storage of Half 1, of Half 0 and of none. -/
theorem witness_dead_half :
    frugal (frugalState []).m = true ∧ regHalves 0x2FFC = [1] ∧ regHalves 0x7000 = [] ∧ (0x80000 ≤ 0xC4000 ∧ regHalves (aliasWord 0xC4000) = [1])
      ∧ regHalves (wordOff (offsetOf 0x800)) = [1] ∧ (registerRow .regWrite).map (fun row => row (offsetOf 0x800) 0) = some true
      ∧ half1Bits 0x93F0 = 0xA ∧ half1Bits 0x6000 = 0x80 ∧ half1Bits 0x6008 ≠ 0
      ∧ indHalf 0x10C000 = some 1 ∧ indHalf 0x10000 = none := by
  decide +kernel

/-- IndirectPairMovesAndCaptureEnds: word 1 of the live labels, which lives in Half 0; a sample waits. -/
theorem witness_indirect : let s := { withMg { Mgmt.reset with q := [.read 0x3C05], samp := some 5 } with regs := { live.regs with indAddr := 0x10001 } }
    offsetOf 0x3C05 = 0xF014 ∧ (∀ h ∈ indHalves s.m (4 * s.regs.indAddr.toNat), (halfAt s.m h).pw.awake = true) ∧ s.m.mg.samp = some 5 := by
  decide +kernel

/-- IndirectStoresReadBack: `live`; the first and the last word of each range. -/
theorem witness_indirect_stores : CanonicalStores live.regs ∧ frugal live.m = false ∧ live.regs.lblSrc = false ∧ live.m.svc.copy = false
    ∧ live.m.ras.errs = [] ∧ live.m.ras.armed = false ∧ (∀ a ∈ [0x100000, 0x10FFFC, 0x110000, 0x113FFC, 0x40000, 0x4FFFC], a % 4 = 0) := by
  refine ⟨⟨by decide, by decide, by decide, by decide, by decide⟩, ?_⟩; decide +kernel

/-! ## Witnesses: memory channels and the stores of a half -/

def rd (tag : BitVec 9) (deadline : Option Nat) : RdCmd := ⟨tag, 0x10004, 0xF, .fill, 0, false, deadline, 1, 0, 0⟩
def wr (tag : BitVec 9) (waiters : List Req) : WrCmd := ⟨tag, none, 0x10008, 0xF, 0, waiters, 0, 1, 0, 0⟩
def atomic (size : BitVec 4) : AtCmd := ⟨5, req .atomR 0x1000400 size (.port 0), 0⟩

/-- `live` with a channel of Half 0 and READs in order of age. -/
def channel (f : MemChan → MemChan) : State := { withChan f with regs := { live.regs with svcOrder := false } }

/-- MemoryCommandIsPresented: a READ, a WRITE and an ATOMIC with the last credits that they need. -/
theorem witness_mem_command :
    (∀ i ∈ [0, 1, 2], let s := channel fun ch => { ch with
        readQ := if i = 0 then [rd 0 none] else [], writeQ := if i = 1 then [wr 0 []] else [], atomQ := if i = 2 then [atomic 3] else []
        hcr := Vector.replicate 3 1, dcr := Vector.replicate 3 4 };
      let ch := chanAt s.m 0
      clocked s.m 0 = true ∧ chanJoined s.m 0 = true ∧ calm s.m = true ∧ s.regs.pfEn = 0 ∧ s.regs.svcOrder = false ∧ ch.readO = [] ∧ ch.writeO = []
        ∧ ch.atomO = [] ∧ (i ≠ 2 → atomicOut ch (rd 0 none).line = false ∧ atomicOut ch (wr 0 []).line = false) ∧ (i = 2 → lineInFlight ch (lineOf (atomic 3).req.addr) = false) ∧ 1 ≤ ch.hcr[0] ∧ 1 ≤ ch.hcr[1] ∧ 1 ≤ ch.hcr[2] ∧ 1 ≤ ch.dcr[2] ∧ maskCount (wr 0 []).smask ≤ ch.dcr[1]
        ∧ (i = 0 → ch.readQ = [rd 0 none] ∧ ch.atomQ = [] ∧ nextWrite ch = none)
        ∧ (i = 1 → ch.writeQ = [wr 0 []] ∧ ch.atomQ = [] ∧ sendableReads ch = [])
        ∧ (i = 2 → ch.atomQ = [atomic 3] ∧ sendableReads ch = [] ∧ nextWrite ch = none)) := by
  decide +kernel

/-- DeadlineReadsGoFirst: a class of kind 2 with a deadline, after 14 grants. -/
theorem witness_deadline : let g := { live.regs with cls := live.regs.cls.set 0 { live.regs.cls[0] with kind := 2 } }
    g.svcOrder = true ∧ { joinedChan with since := 14 }.since < 15 ∧ ∃ y ∈ [rd 0 none, rd 1 (some 40), rd 2 (some 39)], isDeadline g y = true := by
  decide +kernel

/-- The channel of Half 0, its peer channel and the remote port with full pools. -/
def fullPools : State := withM fun m => modLink 2 (fun l => { l with hcr := Vector.replicate 4 64, dcr := Vector.replicate 4 128 })
  (modLink 0 (fun l => { l with hcr := Vector.replicate 4 32, dcr := Vector.replicate 4 64 })
    (modChan 0 (fun ch => { ch with hcr := Vector.replicate 3 4095, dcr := Vector.replicate 3 4095 }) m))

/-- PartnerCreditsArrive: within every bound; one header or one unit past the bound of a channel, a peer channel and the remote port, and five
units of a class; a partner of each that has not joined. -/
theorem witness_credits :
    (let hd := fun (hc : BitVec 4) (i : Nat) => if hc.getLsbD i then 1 else 0
     let dd := fun (dc : BitVec 12) (i : Nat) => (dc.extractLsb' (3 * i) 3).toNat
     clocked live.m 0 = true ∧ isJoined (chanAt live.m 0).hello = true
      ∧ (∀ i : Fin 3, dd 0x924 i.val ≤ 4 ∧ (chanAt live.m 0).hcr[i] + hd 0xF i.val ≤ 4095 ∧ (chanAt live.m 0).dcr[i] + dd 0x924 i.val ≤ 4095)
      ∧ (∀ j ∈ [(0 : Fin 3), 2], clocked live.m (fin3Half j) = true ∧ isJoined (linkAt live.m j).hello = true
        ∧ ∀ i : Fin 4, dd 0x924 i.val ≤ 4 ∧ (linkAt live.m j).hcr[i] + hd 0xF i.val ≤ 32 ∧ (linkAt live.m j).dcr[i] + dd 0x924 i.val ≤ 64)
      ∧ 4 < dd 0xA00 3 ∧ 4 < dd 0x140 2 ∧ peerLink 0 = 0
      ∧ 4095 < (chanAt fullPools.m 0).hcr[(2 : Fin 3)] + hd 4 2 ∧ 4095 < (chanAt fullPools.m 0).dcr[(2 : Fin 3)] + dd 0x40 2
      ∧ 32 < (linkAt fullPools.m 0).hcr[(3 : Fin 4)] + hd 8 3 ∧ 64 < (linkAt fullPools.m 0).dcr[(3 : Fin 4)] + dd 0x200 3
      ∧ 64 < (linkAt fullPools.m 2).hcr[(0 : Fin 4)] + hd 1 0 ∧ 128 < (linkAt fullPools.m 2).dcr[(0 : Fin 4)] + dd 1 0)
      ∧ isJoined (chanAt (withChan fun ch => { ch with hello := Hello.none }).m 0).hello = false
      ∧ ∀ j ∈ [(0 : Fin 3), 2], isJoined (linkAt (withM (modLink j fun l => { l with hello := Hello.none })).m j).hello = false := by
  decide +kernel

def missEntry (prefetch : Bool) (rs : List Req) : MissEntry := ⟨0x10004, 0xF, 0, !prefetch, 0, rs, prefetch, false, none, none, false⟩

/-- A write that has its answer already (R150), and a line that only memory holds. -/
theorem witness_mem_writes :
    (∀ r ∈ [{ req .wr 0x1000800 8 (.port 0) with given := some 7 }, req .inv 0x1000800 8 (.port 0)],
      let s := withChan fun ch => { ch with writeO := [wr 7 [r]] }
      clocked s.m 0 = true ∧ chanJoined s.m 0 = true ∧ (halfAt s.m 0).safe = false ∧ (chanAt s.m 0).writeO = [wr 7 [r]] ∧ (wr 7 [r]).vb = none
        ∧ (halfAt s.m 0).vb = [] ∧ (wr 7 [r]).waiters = [r] ∧ ((r.op = .wr ∧ r.given = some 7) ∨ r.given = none))
      ∧ (let s := withChan fun ch => { ch with writeO := [wr 7 []] }
        (chanAt s.m 0).writeO = [wr 7 []] ∧ (wr 7 []).waiters = []) := by
  decide +kernel

/-- MemoryResponsesArrive: of a READ for a prefetch, of one that fails, of a WRITE that an INV waits for, of an ATOMIC; a TAG that is not
outstanding; a controller that has not joined. -/
theorem witness_mem_responses :
    (let s := { withChan fun ch => { ch with readO := [rd 7 none], writeO := [wr 7 [req .inv 0x1000800 8 (.port 0)]], atomO := [atomic 3] } with
        regs := live.regs }
      let t : State := { s with m := modHalf 0 (fun hs => { hs with miss := [missEntry true []] }) s.m }
      clocked t.m 0 = true ∧ chanJoined t.m 0 = true ∧ (halfAt t.m 0).safe = false
        ∧ missOf (halfAt t.m 0) (rd 7 none).line = some (missEntry true []) ∧ locate (halfAt t.m 0) (rd 7 none).line = none
        ∧ chanJoined (withChan fun ch => { ch with hello := Hello.none }).m 0 = false ∧ (chanAt t.m 0).readO = [rd 7 none] ∧ (rd 7 none).why = .fill
        ∧ (halfAt t.m 0).miss = [missEntry true []] ∧ (missEntry true []).line = (rd 7 none).line ∧ (halfAt t.m 0).vb = []
        ∧ (chanAt t.m 0).writeO = [wr 7 [req .inv 0x1000800 8 (.port 0)]] ∧ (wr 7 []).vb = none
        ∧ (chanAt t.m 0).atomO = [atomic 3] ∧ (atomic 3).req.size.toNat = 3
        ∧ (∀ x ∈ (chanAt t.m 0).readO, x.tag ≠ 8) ∧ (∀ x ∈ (chanAt t.m 0).writeO, x.tag ≠ 8) ∧ (∀ x ∈ (chanAt t.m 0).atomO, x.tag ≠ 8)) := by
  decide +kernel

/-- SectorsKeepTheirPlaces: sector 3 of the mask 0b1010, the second of it, and sector 2, which is not in it. -/
theorem witness_sectors : (10#4).getLsbD 3 = true ∧ ((List.range 3).filter fun i => (10#4).getLsbD i).length = 1 ∧ (10#4).getLsbD 2 = false := by
  decide

/-- A packed-less frame that holds line 0x10004. -/
def heldFrame (hold : Bool) : Frame :=
  { Frame.free with tag := tagIx 0x10004, hold := hold, lines := Frame.free.lines.set 0 { LineSt.free with pres := true } }

def vbEntry (due : Bool) : VbEntry := ⟨3, setIx 0x10004, heldFrame false, 0, 0, if due then some (some 1) else none, []⟩

def mergeEntry (draining : Bool) : MergeEntry := ⟨0, 0x10004, 1, 0, 1, some 1, draining, []⟩
def move (started : Bool) : Move := ⟨0x10004, some 1, started, none, false, []⟩

def readMissed : MissEntry := missEntry false [req .rdNc 0x1000400 8 (.port 0)]

/-- CacheEventsHappen: a fill for a waiting read, whose place is a free frame; one whose place waits for room in the victim buffer. -/
theorem witness_fill :
    (let s := withHalf fun hs => { hs with miss := [readMissed] };
      let m0 := instGrant 0 readMissed.waiters (readLookup s.regs 0 0x10004 s.m)
      clocked s.m 0 = true ∧ s.m.ras.errs = [] ∧ missOf (halfAt s.m 0) 0x10004 = some readMissed ∧ readMissed.arrived = true
        ∧ readMissed.line = 0x10004 ∧ readMissed.noFill = false ∧ readMissed.waiters = [req .rdNc 0x1000400 8 (.port 0)]
        ∧ locate (halfAt s.m 0) 0x10004 = none ∧ readMissed.xreq = none ∧ s.regs.hc[(0 : Half)].cen = true
        ∧ (placeFor s.regs 0 0x10004 (writtenLine readMissed.waiters (mergedData (halfAt m0 0) 0x10004 readMissed.data))
            (fillMask s.regs m0 0 readMissed) m0).1 = .way 0)
      ∧ (let s := withHalf fun hs => { hs with
            miss := [readMissed], vb := (List.range 64).map fun n => { vbEntry false with slot := n, set := 9, unsent := 1 }
            frames := (List.range 24).map fun w => (24 * (setIx 0x10004).toNat + w, { heldFrame false with tag := 9, age := 3 }) }
        let m0 := instGrant 0 readMissed.waiters (readLookup s.regs 0 0x10004 s.m)
        missOf (halfAt s.m 0) 0x10004 = some readMissed ∧ locate (halfAt s.m 0) 0x10004 = none
          ∧ (placeFor s.regs 0 0x10004 (writtenLine readMissed.waiters (mergedData (halfAt m0 0) 0x10004 readMissed.data))
              (fillMask s.regs m0 0 readMissed) m0).1 = .wait) := by decide +kernel

/-- CacheEventsHappen: a fill for a line that stands in the victim buffer; a recall, and one with every floor way held. -/
theorem witness_recall :
    (let s := withHalf fun hs => { hs with miss := [missEntry false []], vb := [vbEntry false] };
      let m0 := instGrant 0 [] (readLookup s.regs 0 0x10004 s.m)
      missOf (halfAt s.m 0) 0x10004 = some (missEntry false []) ∧ locate (halfAt m0 0) 0x10004 = some (.vb 3)
        ∧ (lineOfLoc (halfAt m0 0) 0x10004 (.vb 3)).lost = false ∧ lookup s.regs m0 0 0x10004 ≠ none)
      ∧ (let s := withHalf fun hs => { hs with
          vb := [vbEntry true], frames := (List.range 4).map fun w => (24 * (setIx 0x10004).toNat + w, { heldFrame true with tag := 9 }) }
        recallDue (halfAt (readLookup s.regs 0 0x10004 s.m) 0) 0x10004 = some (vbEntry true) ∧ s.m.ras.errs = [] ∧ s.regs.hc[(0 : Half)].cen = true
          ∧ ((halfAt s.m 0).vb.find? fun x => x.slot == (vbEntry true).slot) = some (vbEntry true) ∧ isFree (vbEntry true).frame = false
          ∧ chooseWay s.regs s.m 0 (vbEntry true).set (installMask s.regs s.m 0 0x10004 ((vbEntry true).recalled.getD none)) = none
          ∧ (vbEntry true).waiters = []) := by
  decide +kernel

/-- A group of one line that waits for its line to be held. -/
def waitedGroup : Group := ⟨0, 0, 1, 0, 0x1000400, 0, 1, 0, [], 0, [], [], [], some (req .grpOpen 0x1000400 8 (.port 0)), false⟩

/-- CacheEventsHappen: the merge buffer and the moves, one of them of a line that must leave its packed frame for a group. -/
theorem witness_drains :
    (let s := withHalf fun hs => { hs with merge := [mergeEntry false] };
      mergeOf (halfAt s.m 0) 0x10004 1 = some (mergeEntry false) ∧ missOf (halfAt s.m 0) 0x10004 = none)
      ∧ (let s := withHalf fun hs => { hs with merge := [mergeEntry true] }
        mergeOf (halfAt s.m 0) 0x10004 1 = some (mergeEntry true))
      ∧ (∀ b ∈ [false, true], let s := withHalf fun hs => { hs with moves := [move b] }
        moveOf (halfAt s.m 0) 0x10004 = some (move b) ∧ mustLeave s.regs s.m 0 0x10004 = false ∧ needsHold (halfAt s.m 0) 0x10004 = false)
      ∧ (let s := withHalf fun hs => { hs with
          moves := [move true], frames := [(24 * (setIx 0x10004).toNat + 5, { heldFrame false with packed := true, tag := tagIx 0x10004 })]
          groups := [(2, some waitedGroup)] }
        moveOf (halfAt s.m 0) 0x10004 = some (move true) ∧ mustLeave s.regs s.m 0 0x10004 = true) := by decide +kernel

/-! ## Witnesses: the home of a line -/

/-- An entry of line 0x10004 in each state: idle, shared by agent 3 and package 1, unique of agent 5, of package 1. -/
def idle : DirEntry := { DirEntry.free with tag := dirTag 0x10004 }
def sharedBy : DirEntry := { idle with state := stS, agents := 8, chips := 2 }
def uniqueOf : DirEntry := { idle with state := stU, agents := 32, owner := 5 }
def awayAt : DirEntry := { idle with state := stX, chips := 2, ochip := 1 }

theorem witness_entries : HolderRules idle ∧ HolderRules sharedBy ∧ HolderRules uniqueOf ∧ HolderRules awayAt := by
  refine ⟨?_, ?_, ?_, ?_⟩ <;> constructor <;> decide

def byAgent (o : Op) (i : BitVec 6) : Req := { req o 0x1000400 8 (.port 0) with agent := some i }
def byPackage (o : Op) : Req := req o 0x1000400 8 (.remote 1 0)

/-- DirectoryFollowsItsTables: who asks, and who holds what is asked for. -/
theorem witness_tables :
    (∀ o ∈ [Op.rdS, .rdU, .upg, .evict, .wr], (byAgent o 5).agent = some 5 ∧ reqChip (byAgent o 5) = none ∧ (byAgent o 5).op = o)
      ∧ uniqueOf.owner = 5 ∧ uniqueOf.owner ≠ 3 ∧ holds sharedBy (.agent 3) = true ∧ holds sharedBy (.agent 5) = false
      ∧ holds sharedBy (.chip 1) = true ∧ idle.state = 0
      ∧ (let r := req .wr 0x1000400 8 (.drain 0); r.agent = none ∧ reqChip r = none)
      ∧ (∀ o ∈ [Op.xShared, .xUnique, .xUpgrade], (byPackage o).agent = none ∧ reqChip (byPackage o) = some 1) := by
  decide +kernel

/-- Half 0 with the entry, if it names a holder, in way 0 of its set, and the line, if held, in way 5. -/
def homeState (e : DirEntry) (held : Bool) (f : HalfSt → HalfSt) : State := withHalf fun hs => f { hs with
  dir := if dirLive e then [(16 * dirSet 0x10004, e)] else []
  frames := if held then [(24 * (setIx 0x10004).toNat + 5, heldFrame false)] else [] }

/-- DirectoryFollowsItsTables: a line with an entry, and one without; one entry of the line in its set. -/
theorem witness_directory : ∀ e ∈ [idle, sharedBy], let s := homeState e false id
    s.m.ras.errs = [] ∧ s.m.ras.armed = false ∧ tabWf DirEntry.free (halfAt s.m 0).dir = true
      ∧ (dirWay (halfAt s.m 0) 0x10004 ≠ none ∨ dirFreeWay (halfAt s.m 0) 0x10004 ≠ none) ∧ dirWay (halfAt s.m 0) 0x10004 = (if dirLive e then some 0 else none)
      ∧ (∀ v < 16, ∀ w < 16, dirLive (dirSlot (halfAt s.m 0) (dirSet 0x10004) v) = true → dirLive (dirSlot (halfAt s.m 0) (dirSet 0x10004) w) = true → v = w)
      ∧ dirLive (nextDir (dirOf (halfAt s.m 0) 0x10004) (byAgent .rdS 5) false) = true
      ∧ dirLive (nextDir (dirOf (halfAt s.m 0) 0x10004) (req .zero 0x1000400 8 (.port 0)) false) = false := by
  decide +kernel

/-- CoherentRequestsActAtTheirHome, at the order point: a read and a write of agent 5 to a line without holders and to a shared one; an
atomic that stays here. -/
theorem witness_order :
    OrderReady live.regs live.m 0 0x10004
      ∧ (∀ e ∈ [idle, sharedBy], ∀ o ∈ [Op.rdS, .wr, .atomR], let s := homeState e true id; let r := byAgent o 5
        coherentOp r.op = true ∧ r.origin = .port 0 ∧ r.passed = false ∧ isPackage s.m r.addr = true ∧ bindingOf s.regs r.addr = none
          ∧ confOf (halfAt s.m 0) 0x10004 = none ∧ lostSeen s.regs s.m 0 0x10004 = false
          ∧ (wantsEntry s.m 0 r = false ∨ dirRoom (halfAt s.m 0) 0x10004 = true) ∧ goesToMemory s.regs s.m 0 r = false
          ∧ ((snoopsOf (dirOf (halfAt s.m 0) 0x10004) r).2 = [] ↔ o = .rdS ∨ e = idle)) := by
  refine ⟨⟨?_, ?_, ?_, ?_, ?_, ?_⟩, ?_⟩
  all_goals first | decide +kernel | skip
  rw [show dirOf (halfAt live.m 0) 0x10004 = DirEntry.free by decide +kernel]
  constructor <;> decide

/-- CoherentRequestsActAtTheirHome, with its answers: one due, and two. -/
theorem witness_conflict : ∀ xs ∈ [[Holder.agent 3], [Holder.agent 3, .chip 1]],
    let c := newConf 0x10004 .acting (some (byAgent .wr 5)) xs
    let s := homeState sharedBy true fun hs => { hs with conf := [c] }
    confOf (halfAt s.m 0) 0x10004 = some c ∧ c.why = .acting ∧ c.req = some (byAgent .wr 5) ∧ c.waitXwb = none ∧ c.pend = xs := by
  decide +kernel

theorem write_at_rest : LineAtRest live.regs (homeState sharedBy true id).m 0 (byAgent .wr 5) := by
  refine ⟨⟨0, rfl⟩, rfl, rfl, ?_, rfl, rfl, rfl, ?_, ?_, ?_, ?_, ?_, ?_, ?_⟩ <;> decide +kernel

theorem read_at_rest : LineAtRest live.regs (homeState idle false id).m 0 (byAgent .rdNc 5) := by
  refine ⟨⟨0, rfl⟩, rfl, rfl, ?_, rfl, rfl, rfl, ?_, ?_, ?_, ?_, ?_, ?_, ?_⟩ <;> decide +kernel

/-- CoherentRequestsActAtTheirHome, once it acts: a line at rest that the half holds in a frame, and one that it does not hold; a write of a
whole line goes straight to the banks, one of a byte fits the merge buffer, as an addition and an atomic do. -/
theorem witness_act :
    LineAtRest live.regs (homeState sharedBy true id).m 0 (byAgent .wr 5) ∧ LineAtRest live.regs (homeState idle false id).m 0 (byAgent .rdNc 5)
      ∧ locate (halfAt (homeState idle false id).m 0) 0x10004 = none ∧ coherentOp .wr = true
      ∧ (let s := homeState sharedBy true id
        confOf (halfAt s.m 0) 0x10004 = none ∧ lookup s.regs s.m 0 0x10004 = some (.frame 5)
          ∧ (frameAt (halfAt s.m 0) (setIx 0x10004) 5).packed = false ∧ (lineOfLoc (halfAt s.m 0) 0x10004 (.frame 5)).lost = false
          ∧ s.regs.hc[(0 : Half)].cmode ≠ 2
          ∧ (∀ n ∈ [1, 63], let r := { byAgent .wr 5 with be := beRange 0 n }; mergeFits s.m 0 r.be)
          ∧ (∀ o ∈ [Op.addl, .atomR], mergeFits s.m 0 (updateOn { byAgent o 5 with size := 3, be := beRange 0 8, aux := 9 } 0).2.1)) := by
  refine ⟨write_at_rest, read_at_rest, ?_⟩
  unfold mergeFits; decide +kernel

/-! ## Witnesses: reduction groups -/

/-- GID 2: an addition of INT32 by two agents over the line 0x10004, unless the words say otherwise. -/
def groupReq (o : Op) (aux : BitVec 32) : Req := { req o 0x1000400 8 (.port 0) with aux := aux, data := 7 }
def openReq : Req := groupReq .grpOpen 0x02020002

/-- The group open, with index 0 arrived at its first sector, or no sector. -/
def groupHere (began closing : Bool) : Group :=
  { newGroup openReq 512 with opening := none, closing := closing
                              sectors := if began then [(0, (contribute 0 1 2 0 7 GrpSector.none).1)] else [] }

def groupState (gr : Option Group) (f : HalfSt → HalfSt) : State :=
  { withHalf fun hs => f { hs with groups := match gr with | some x => [(2, some x)] | none => [] } with regs := { live.regs with grpBytes := 4096 } }

/-- ReductionGroupsActAtTheirUnit: a GRP_OPEN of a free GID, of one in use, with too little storage and with 64 groups. -/
theorem witness_group_open :
    gidOf openReq = 2
      ∧ (let s := groupState none id
        s.regs.pfEn = 0 ∧ tabWf none (halfAt s.m 0).groups = true ∧ groupAt (halfAt s.m 0) 2 = none ∧ (halfAt s.m 0).groups.length < 64
          ∧ groupReserved (halfAt s.m 0) + openNeed s.m 0 openReq ≤ groupStorage s.regs 0 ∧ openLines s.m 0 openReq = [0x10004]
          ∧ locate (halfAt s.m 0) 0x10004 = none ∧ (halfAt s.m 0).merge = [] ∧ (halfAt s.m 0).moves = []
          ∧ groupStorage live.regs 0 < groupReserved (halfAt live.m 0) + openNeed live.m 0 openReq)
      ∧ (let s := groupState (some (groupHere false false)) id
        tabWf none (halfAt s.m 0).groups = true ∧ groupAt (halfAt s.m 0) 2 ≠ none ∧ openGroup (halfAt s.m 0) 2 = some (groupHere false false)
          ∧ openGroup (halfAt (groupState none id).m 0) 2 = none) := by
  decide +kernel

def contrib (idx : Nat) : Req := { groupReq .grpContrib (BitVec.ofNat 32 (0x100 * idx + 2)) with size := 6 }

/-- ReductionGroupsActAtTheirUnit: contributions that are refused, by an index past N, a second arrival, a closing group, no group, and two
that are taken, of which one finds the root; the state that a frame of way 5 gives a group line. -/
theorem witness_contributions :
    (∀ x ∈ [(groupHere false false, 2), (groupHere true false, 0), (groupHere false true, 0)],
      contribRefused (halfAt (groupState (some x.1) id).m 0) (contrib x.2) = true)
      ∧ contribRefused (halfAt live.m 0) (contrib 0) = true
      ∧ (∀ x ∈ [(false, 0), (true, 1)], let gr := groupHere x.1 false; let s := groupState (some gr) id; let r := contrib x.2
        contribRefused (halfAt s.m 0) r = false ∧ r.op = .grpContrib ∧ r.passed = false ∧ groupAt (halfAt s.m 0) (gidOf r) = some gr
          ∧ contribGroup (halfAt s.m 0) r = some gr ∧ tabWf GrpSector.none gr.sectors = true ∧ gr.spilled = [] ∧ (halfAt s.m 0).resOut = []
          ∧ lineLost (halfAt s.m 0) (lineOf r.addr) = false ∧ gr.lost.contains (lineOf r.addr) = false ∧ contribSectors r = [0]
          ∧ ((contribute gr.op.toNat gr.fmt.toNat (gr.nm1.toNat + 1) (BitVec.ofNat 8 x.2) (sectorOf r.data 0) (tabGet GrpSector.none gr.sectors 0)).2.isSome = x.1))
      ∧ (let s := homeState idle true id
        s.m.ras.errs = [] ∧ s.m.ras.armed = false ∧ tabWf Frame.free (halfAt s.m 0).frames = true ∧ (halfAt s.m 0).merge = []
          ∧ lookup s.regs s.m 0 0x10004 = some (.frame 5) ∧ (frameAt (halfAt s.m 0) (setIx 0x10004) 5).packed = false) := by
  decide +kernel

theorem witness_contribution_order :
    OrderReady (groupState (some (groupHere true false)) id).regs (groupState (some (groupHere true false)) id).m 0 0x10004 := by
  refine ⟨?_, ?_, ?_, ?_, ?_, ?_⟩
  all_goals first | decide +kernel | skip
  rw [show dirOf (halfAt (groupState (some (groupHere true false)) id).m 0) 0x10004 = DirEntry.free by decide +kernel]
  constructor <;> decide

/-- ReductionGroupsActAtTheirUnit: the end of a result write, the last of its group or not; an abort that can end. -/
theorem witness_group_end :
    (∀ b ∈ [false, true],
      let gr := { groupHere true false with writing := [60], sectors := [(0, ⟨3, [], false⟩)] ++ if b then [(1, ⟨3, [], true⟩), (2, ⟨3, [], true⟩), (3, ⟨3, [], true⟩)] else [] }
      let w : GrpWrite := ⟨60, 2, contrib 1, [0]⟩
      let s := groupState (some gr) fun hs => { hs with gwrites := [w] }
      let left := { gr with sectors := tabMod GrpSector.none gr.sectors 0 (fun s => { s with done := true }), writing := [] }
      tabWf none (halfAt s.m 0).groups = true ∧ (halfAt s.m 0).gwrites = [w] ∧ w.gid < 64 ∧ groupAt (halfAt s.m 0) 2 = some gr
        ∧ gr.writing.contains w.rid = true ∧ gr.closing = false ∧ groupComplete s.m 0 left = b)
      ∧ (let a := groupReq .grpAbort 2; let s := groupState (some (groupHere true true)) fun hs => { hs with gaborts := [(2, a)] }
        tabWf none (halfAt s.m 0).groups = true ∧ (halfAt s.m 0).gaborts.filter (fun x => x.1 == 2) = [(2, a)]) := by
  decide +kernel

/-- ReductionResultIsTheTreeOfTheRule: order A of Table 10.8. -/
theorem witness_group_order : 2 ≤ 5 ∧ 5 ≤ 256 ∧ [4, 3, 1, 0, 2].Perm (List.range 5) := by decide

/-! ## Witnesses: messages, joins and departures -/

def fwdMsg (o : BitVec 6) (b : ReqBeat) : FwdMsg := ⟨0, 1, 0, 0, o, b, 0, none, none⟩
def cmplMsg : CmplMsg := ⟨0, 1, 0, false, 7, .done, 256, 0⟩
def snpfMsg (j : BitVec 5) : SnpfMsg := ⟨0, j, .inv, 9, 0x10004, 0, 0, 0, 0⟩
def srspfMsg : SrspfMsg := ⟨0, 1, 9, true, 0⟩
def fwdOut : FwdOut := ⟨0, 1, 0, false, 7, req .rdNc 0x1000400 8 (.port 0)⟩
def snpfOut : SnpfOut := ⟨0, 1, 9, 0, snoopOf .inv (.home 0)⟩

/-- PeerMessagesAreTaken: slice 1 is joined; a report, a request, a CMPL and an SRSPF with and without what they answer. -/
theorem witness_peer :
    awakeHalf live.m 0 ∧ (∀ k : Fin 3, canHear live k 1) ∧ opOfBits 0x00 = some .rdNc ∧ opOfBits 0x20 = some .ctrAdd
      ∧ opOfBits 0x3F = none
      ∧ { beat 8 3 0 5 true with rsv := 1 }.rsv.getLsbD 0 = true ∧ { beat 8 3 0 5 true with rsv := 2 }.rsv.getLsbD 1 = true
      ∧ (beat 0x1000400 8 1 0 false).rsv = 0 ∧ Op.rdNc ≠ .pref ∧ (beat 0x1000400 8 1 0 false).aux.getLsbD 31 = false
      ∧ cmplOf cmplMsg live.m = none ∧ srspfOf srspfMsg live.m = none
      ∧ (let m := { live.m with coh := { live.m.coh with fwdOut := [fwdOut], snpfOut := [snpfOut] } }
        cmplOf cmplMsg m = some fwdOut ∧ srspfOf srspfMsg m = some snpfOut) := by
  unfold awakeHalf canHear awakeHalf; decide +kernel

def remOut : RemOut := ⟨3, 1, .snp 0 0x10004 false⟩

/-- RemoteMessagesAreTaken: package 1 is joined; an answer with and without its transaction. -/
theorem witness_remote :
    canHear live 2 1 ∧ (halfAt live.m (homeHalf live.m (lineBase 0x10004))).safe = false ∧ xrspOf ⟨1, 3, .done, none, 0⟩ live.m = none
      ∧ xrspOf ⟨1, 3, .done, none, 0⟩ { live.m with coh := { live.m.coh with remOut := [remOut] } } = some remOut := by
  unfold canHear awakeHalf; decide +kernel

/-- UnjoinedMessageIsDiscarded: slice 2 and package 2 have not joined. -/
theorem witness_unjoined :
    awakeHalf live.m (fin3Half (peerLink 0)) ∧ (∀ k : Fin 3, partJoined live.m k 2 = false) ∧ cmplOf { cmplMsg with sslice := 2 } live.m = none := by
  unfold awakeHalf; decide +kernel

/-- Port 0 in the middle of its exchange. -/
def greeting (x : Hello) : State := withPort fun p => { p with hello := x, idx := none }

/-- HelloExchangeCompletes: an agent's HELLO without a cache, one of a wrong role, a JOIN after the own one, a BYE; a
HELLO not sent, one not answered, one answered. -/
theorem witness_hello :
    awakeHalf live.m (portHalf 0) ∧ silenced live.m (.port 0) = false
      ∧ (let w := 0x4400000000000000#64; let s := greeting Hello.none
        wordKind w = 1 ∧ helloReason s.regs s.m (.port 0) w = none ∧ bitAt w 0 = false ∧ (portAt s.m 0).hello.joinIn = false
          ∧ (portAt s.m 0).former = none)
      ∧ (let w := 0x4800000000000000#64; let s := greeting Hello.none
        wordKind w = 1 ∧ helloReason s.regs s.m (.port 0) w = some 4)
      ∧ (wordKind 0x8400000000000000 = 2 ∧ wordRole 0x8400000000000000 = 1 ∧ live.regs.rpEn[(0 : PortIx)] = true)
      ∧ (let x := (portAt (greeting ⟨true, true, true, false, none⟩).m 0).hello; x.joinOut = true ∧ x.joinIn = false)
      ∧ (wordKind 0xC420000000000000 = 3 ∧ isJoined (portAt live.m 0).hello = true ∧ isJoined (portAt (greeting Hello.none).m 0).hello = false)
      ∧ (∀ x ∈ [Hello.none, ⟨true, false, false, false, none⟩, ⟨true, true, false, false, none⟩], let y := (portAt (greeting x).m 0).hello
        isJoined y = false ∧ (y.sent = false ∨ y.heard = false ∨ (y.sent = true ∧ y.heard = true))) := by
  unfold awakeHalf; decide +kernel

def noticeFor : BitVec 64 := 0x2C01140000000000

/-- ReclaimRemovesTheDead: a notice and an answer for index 5, a walk at its last entry but one. -/
theorem witness_reclaim :
    canHear live (peerLink 0) 1 ∧ noticeIdx noticeFor = 5
      ∧ (let s := withM fun m => { m with coh := { m.coh with reclaims := [⟨5, 0⟩] } }
        canHear s (peerLink 0) 1 ∧ s.m.coh.reclaims = [⟨5, 0⟩])
      ∧ (let s := withHalf fun hs => { hs with walk := ⟨true, 65534, false⟩ }
        clocked s.m 0 = true ∧ (halfAt s.m 0).walk.run = true ∧ (halfAt s.m 0).walk.pos + 1 < 65536) := by
  unfold canHear awakeHalf; decide +kernel

/-- LinkLevelsAndPortReset: a link that is up, one that is down, a half that is AWAKE, one that is not; an enabled port of a joined agent and
one of none, a disabled port. -/
theorem witness_levels :
    (linkAt live.m 0).up = true ∧ (linkAt (withM (modLink 0 fun l => { l with up := false })).m 0).up = false ∧ awakeHalf live.m (fin3Half 0)
      ∧ (halfAt State.reset.m (fin3Half 0)).pw.awake = false
      ∧ State.reset.regs.rpEn[(0 : PortIx)] = false ∧ isJoined (portAt State.reset.m 0).hello = false
      ∧ live.regs.rpEn[(0 : PortIx)] = true ∧ isJoined (portAt live.m 0).hello = true
      ∧ (let gone := if isJoined (portAt live.m 0).hello = true then departAgent live.regs false 0 live.m else live.m
        let m := modPort 0 (fun x => { Port.reset with former := x.idx.or x.former }) gone
        clocked m (portHalf 0) = true ∧ silenced m (.port 0) = false) := by
  unfold awakeHalf; decide +kernel

def ctrReq (o : Op) (a : Addr) (aux : BitVec 32) : Req := beatReq 50 (.port 0) o (beat a 3 1 aux true) 0 none

/-- CounterUnitActs: counter 8,191, which instance 0 owns and instance 1 does not; a generation that is not current; a WAIT that its counter
meets exactly, and one that it does not, with room to park and with 4,096 parked. -/
theorem witness_counters :
    (halfAt live.m 0).safe = false ∧ ctrNum 0xFFF8 = 8191 ∧ ownsCounter live.regs 8191 0 = true ∧ ownsCounter live.regs 8191 1 = false
      ∧ genCurrent live.regs 0 0 = true ∧ genCurrent live.regs 0 1 = false ∧ live.regs.pfEn = 0 ∧ live.m.parked.length < 4096
      ∧ 4096 ≤ (List.replicate 4096 (ctrReq .wait 8 1)).length
      ∧ (let m := { live.m with ctrs := [(8191, ⟨5, 3⟩)] }
        tabWf (⟨0, 0⟩ : Counter) m.ctrs = true ∧ ((5#32).extractLsb' 0 31).toNat ≤ (counterAt m 8191).landed.toNat
          ∧ ((0x80000003#32).extractLsb' 0 31).toNat ≤ (counterAt m 8191).settled.toNat
          ∧ ¬ ((0x80000004#32).extractLsb' 0 31).toNat ≤ (counterAt m 8191).settled.toNat) := by
  decide +kernel

/-- WAITs with serial numbers that an update has let pass. -/
def parkedWaits : List Req := [1, 2, 3, 4, 5].map fun (i : Nat) => { ctrReq .wait 8 0 with id := i, passed := true }

/-- CounterUnitDrains: a report; one WAIT that may leave before another that may not, and five that may. -/
theorem witness_drain_unit :
    (let a := { ctrReq .wait 8 0 with passed := true }; let b := { ctrReq .wait 8 1 with id := 51 }
      let s := withM fun m => { m with reports := [⟨5, 64, true, false⟩], parked := [a, b] }
      clocked s.m 0 = true ∧ s.m.reports = [⟨5, 64, true, false⟩] ∧ s.m.parked = [a, b] ∧ a.passed = true ∧ b.passed = false ∧ b.id ≠ a.id)
      ∧ (let s := withM fun m => { m with parked := parkedWaits }
        s.m.parked = parkedWaits.take 4 ++ parkedWaits.drop 4 ∧ (parkedWaits.take 4).length = 4 ∧ (∀ r ∈ parkedWaits.take 4, r.passed = true)
          ∧ ((parkedWaits.take 4 ++ parkedWaits.drop 4).map (·.id)).Nodup) := by
  decide +kernel

/-- A range of one granule. -/
def ranging : State := { withM fun m => { m with re := { m.re with busy := true } } with regs := { live.regs with reAddrL := 0x4001, reLen := 1 } }

/-- RangeEngineAdvances: the first line of the granule; nothing left for either half. -/
theorem witness_range :
    ranging.m.re.busy = true ∧ ranging.m.dbg.stopped = false ∧ ranging.m.re.stop = false ∧ pinWaits ranging.m = false
      ∧ (∃ h : Half, rangeNext ranging.regs ranging.m h = some 0 ∧ clocked ranging.m h = true)
      ∧ rangeOver ranging.regs { ranging.m with halves := Vector.replicate 2 { awakeHalfSt with reNext := 4 } } = true := by
  decide +kernel

/-! ## Witnesses: sequencers -/

def inv : Req := { req .invoke 0x1000400 8 (.port 0) with id := 49 }

/-- Sequencer 1 of Half 0 with a program of one word. -/
def program (w : BitVec 32) : State := { withM (modSeq 0 1 fun q => { q with run := some inv }) with regs := { live.regs with store := [(4096, w)] } }

/-- A word of each of the 31 opcodes of Table 11.5, with every field set that its format has. -/
def words : List (Nat × BitVec 32) :=
  [(0x1, 0x04000000), (0x2, 0x0BC3FFFF), (0x3, 0x0FFFFFFF), (0x4, 0x13FFC000), (0x5, 0x17FFC000), (0x6, 0x1BFFC000), (0x7, 0x1FFFC000),
   (0x8, 0x23FFC000), (0x9, 0x27FC003F), (0xa, 0x2BFC003F), (0xb, 0x2FFFC000), (0xc, 0x33C003FE), (0x10, 0x403FCFFF), (0x11, 0x443FCFFF),
   (0x12, 0x483FCFFF), (0x13, 0x4C000FFF), (0x14, 0x533C0000), (0x15, 0x57FFFFFF), (0x16, 0x5B000FFF), (0x18, 0x63FFFFFF), (0x19, 0x67FFFFFF),
   (0x1a, 0x68000000), (0x20, 0x803FC000), (0x21, 0x843FC001), (0x22, 0x8BFC0000), (0x23, 0x8C3C0000), (0x28, 0xA380001F), (0x29, 0xA7FFE000),
   (0x2a, 0xAB800000), (0x2b, 0xAFF80000), (0x3e, 0xF83C000F)]

/-- The statements about instructions: each word can issue. -/
theorem witness_fetches : ∀ x ∈ words, insCode x.2 = x.1 ∧ fetches (program x.2) 0 1 x.2 := by
  unfold fetches; decide +kernel

/-- BranchesAndLoops: the three values of a loop counter. DescriptorInstructionsAct: the program runs; the three PARTs of DSET.
RequestInstructionsSend: an address that is aligned, and one that is not. -/
theorem witness_instructions :
    (∀ n ∈ [0, 1, 2],
      let s := { program 0x5B000FFF with m := modSeq 0 1 (fun q => { q with c := Vector.replicate 4 (BitVec.ofNat 32 n) }) (program 0x5B000FFF).m }
      (seqAt s.m 0 1).c[insC 0x5B000FFF] = BitVec.ofNat 32 n ∧ calm s.m = true)
      ∧ (seqAt (program 0xA7FFC000).m 0 1).run = some inv
      ∧ (∀ n ∈ [0, 1, 2], (BitVec.ofNat 32 (0xA7FFC000 + 0x1000 * n)).extractLsb' 12 2 = BitVec.ofNat 2 n
        ∧ insBad (BitVec.ofNat 32 (0xA7FFC000 + 0x1000 * n)) = false)
      ∧ (((0x60000008#32).extractLsb' 0 18).signExtend 64).extractLsb' 0 3 = 0 ∧ insBad 0x60000008 = false
      ∧ (((0x60000007#32).extractLsb' 0 18).signExtend 64).extractLsb' 0 3 ≠ 0 ∧ insBad 0x60000007 = false
      ∧ (seqAt (program 0x60000007).m 0 1).copying = false := by
  decide +kernel

def progTxn (o : Op) : Txn := ⟨req o 0x1000408 3 (.seq 0 1), .home, 0, false⟩

/-- ProgramCompletionsArrive: an LD, a CREAD, a CWAIT and an ST whose completions are in. -/
def completing (o : Op) (c : Code) : State := withM fun m =>
  { modSeq 0 1 (fun q => { q with txns := [progTxn o], dest := [(50, 5, 7)] }) m with unitDone := [((progTxn o).req, c, 0)] }

theorem witness_completions : ∀ x ∈ [(Op.rdNc, Code.done), (.rdNc, .errData), (.ctrRead, .done), (.wait, .errPerm), (.wr, .errPerm)],
    let s := completing x.1 x.2
    let q := seqAt s.m 0 1
    s.m.unitDone = [((progTxn x.1).req, x.2, 0)] ∧ (progTxn x.1).req.origin = .seq 0 1 ∧ q.txns = [progTxn x.1]
      ∧ q.dest = [((progTxn x.1).req.id, 5, 7)] := by
  decide +kernel

/-- Program 1 of Half 0 at its END, with dump 0 armed and its next END due to copy, as the only dump or behind another. -/
def dumping (jobs : List DumpJob) : State :=
  { withM fun m => { modSeq 0 1 (fun q => { q with run := some inv, stop := some (.ended .done true) }) m with
      dbg := { m.dbg with dumps := m.dbg.dumps.set 0 ⟨true, false, 0, 0, 0, 0⟩, jobs := jobs } } with
    regs := { live.regs with dmp := live.regs.dmp.set 0 ⟨0x10004, 0x20004, 1, 4, 0x51⟩ } }

/-- ProgramsStartAndEnd: an invocation with an entry, a breakpoint, a reserved opcode, an uncorrectable program word, a NOP at the last address,
an END with and without a dump, a fault with nothing left and one whose group is still open. -/
theorem witness_programs :
    (let s : State := { withHalf fun hs => { hs with iq := [inv] } with regs := { live.regs with ptab := [(255, ⟨0x51, false, 0, true, 9⟩)] } };
      (halfAt s.m 0).safe = false ∧ s.m.dbg.stopped = false ∧ clocked s.m 0 = true ∧ nextStart s.regs s.m 0 = some (inv, 1, 9)
        ∧ calm s.m = true ∧ (halfAt s.m 0).trace.act = false ∧ s.regs.pfEn = 0)
      ∧ (let s : State := { program 0x04000000 with regs := { (program 0x04000000).regs with bps := [(4, ⟨true, true, 0x51, 0⟩)] } }
        issuing s.m 0 1 = true ∧ (seqAt s.m 0 1).skipBp = false ∧ breakHit s.regs s.m 0 1 = true)
      ∧ (let s := program 0
        canIssue s.regs s.m 0 1 = true ∧ fetchBad s.m 0 1 = false ∧ insBits (insCode (storeWord s.regs 0 1 (seqAt s.m 0 1).pc.toNat)) = none)
      ∧ (let s : State := { program 0x04000000 with m := { (program 0x04000000).m with ras := { live.m.ras with errs := [⟨.progs, 0, 512, 3⟩] } } }
        canIssue s.regs s.m 0 1 = true ∧ fetchBad s.m 0 1 = true)
      ∧ (let s : State := { withM (modSeq 0 1 fun q => { q with run := some inv, pc := 0xFFF }) with
            regs := { live.regs with store := [(4096 + 0xFFF, 0x04000000)] } }
        canIssue s.regs s.m 0 1 = true ∧ s.m.ras.errs = [] ∧ storeWord s.regs 0 1 0xFFF = 0x04000000 ∧ (seqAt s.m 0 1).pc = 0xFFF
          ∧ (seqAt s.m 0 1).oneStep = false ∧ s.regs.pfEn = 0 ∧ (halfAt s.m 0).trace.act = false)
      ∧ (∀ n ∈ [0, 1], let s := dumping (List.replicate n ⟨1, (1, 0), 0, 4, [], .done, 0⟩)
        (seqAt s.m 0 1).run = some inv ∧ (seqAt s.m 0 1).stop = some (.ended .done true) ∧ seqIdle (seqAt s.m 0 1) = true
          ∧ (seqAt s.m 0 1).copying = false ∧ (countEnd s.regs 0 1 s.m).dbg.jobs.length ≠ s.m.dbg.jobs.length)
      ∧ (∀ x ∈ [(SeqStop.fault 2 .errDecode 7, [2]), (.fault 7 .errRefused 7, [2]), (.fault 6 .errData 7, [])],
        let s := withM (modSeq 0 1 fun q => { q with run := some inv, stop := some x.1, opened := x.2 })
        (seqAt s.m 0 1).run = some inv ∧ (seqAt s.m 0 1).stop = some x.1 ∧ (seqAt s.m 0 1).txns = [] ∧ (seqAt s.m 0 1).busy = 0
          ∧ (seqAt s.m 0 1).opened = x.2 ∧ (seqAt s.m 0 1).discs = [])
      ∧ (∀ x ∈ [SeqStop.ended .done true, .fault 2 .errDecode 7], let s := withM (modSeq 0 1 fun q => { q with run := some inv, stop := some x })
        (seqAt s.m 0 1).run = some inv ∧ (seqAt s.m 0 1).stop = some x ∧ seqIdle (seqAt s.m 0 1) = true ∧ (seqAt s.m 0 1).copying = false
          ∧ (countEnd s.regs 0 1 s.m).dbg.jobs.length = s.m.dbg.jobs.length ∧ (∀ i : Fin 8, s.m.dbg.dumps[i].armed = false)
          ∧ (halfAt s.m 0).trace.act = false) := by
  decide +kernel

/-! ## Witnesses: the Anvil -/

/-- An operation of queue 1 with the words of Table 9.10 and parts that R294 allows: header w0, K or RFMT and c, then the parts. -/
def aop (w0 w1 w2 w3 : BitVec 32) : AOp :=
  let part := [0x1000000, 0, 0x4000, 0x2000000, 0, 0x200, 0, 0]
  ⟨[w0, w1, w2, w3, 0, 0, 0, 0] ++ part ++ part ++ [0x1800000, 0, 0x40, 0, 0, 0, 0, 0], 1, 2, 0, 0, 1, 0x51, false⟩

def openOf : AOp := aop 0x040166E0 0 8 0
def mmaOf : AOp := aop 0x24000000 0x4000 0 0
def drainOf : AOp := aop 0x64000000 0 0x88000000 0x3FB8AA3B
def reduceOf : AOp := aop 0x44000000 0x20 0 0
def discardOf : AOp := aop 0x84000000 0 0 0

/-- Group 2 as Table 9.10 opens it, or as a sum of rows, with an operation at the head of queue 1. -/
def anvilState (matrix opened : Bool) (o : AOp) : State :=
  withM (modAnv 0 fun a => { a with
    groups := if opened then a.groups.set 2 { AGroup.closed with isOpen := true, w0 := if matrix then 0x040166E0 else 0x04016600, w2 := 8, seated := true }
      else a.groups
    q := a.q.set 1 [o] })

/-- The same, once the feed holds the lines of its first two chunks of K. -/
def bufferedState (matrix : Bool) (o : AOp) : State :=
  let s := anvilState matrix true o
  let lines := fun (c : Nat) => let ls := chunkLines (agroupAt s.m 0 (opAg o)) o (32 * c); ls.1 ++ ls.2
  { s with m := modAnv 0 (fun a => { a with
      ahead := a.ahead.set 1 (some { MacOp.start o 0 with lines := (lines 0 ++ lines 1).foldl (fun t l => tabSet none t l (some 0)) [] }) }) s.m }

def macOf (st : MacSt) : MacOp := ⟨mmaOf, 2, 1, none, 0, st, [(50, 0x10000)], [], false, 0, false, false, false, none⟩

/-- An operation at the head of queue 1 while an operation of another queue is in the MAC stage. -/
def waiting (matrix : Bool) (o : AOp) : State :=
  let s := anvilState matrix true o
  { s with m := modAnv 0 (fun a => { a with mac := some { macOf .feeding with op := { mmaOf with seq := 0 } } }) s.m }

/-- AnvilOperationsLeaveTheirQueue: every operation of the example, a REDUCE, a DISCARD; a DRAIN of a failed group; an MMA and a REDUCE that
wait for the MAC stage, that wait for their lines, and one of whose lines a read has failed; each OP refused. -/
theorem witness_anvil_queue :
    leavesQueue (anvilState true false openOf) 0 1 openOf [] 0 ∧ leavesQueue (bufferedState true mmaOf) 0 1 mmaOf [] 1
      ∧ leavesQueue (bufferedState false reduceOf) 0 1 reduceOf [] 2
      ∧ (leavesQueue (anvilState true true drainOf) 0 1 drainOf [] 3
        ∧ (agroupAt (anvilState true true drainOf).m 0 (opAg drainOf)).fail = none)
      ∧ (let s := anvilState true true drainOf
        let t := { s with m := setAGroup 0 2 { agroupAt s.m 0 2 with fail := some .errData } s.m }
        leavesQueue t 0 1 drainOf [] 3 ∧ (agroupAt t.m 0 (opAg drainOf)).fail = some .errData)
      ∧ (∀ x ∈ [(true, mmaOf, 1), (false, reduceOf, 2)], let s := waiting x.1 x.2.1
        queueHeld s.regs s.m 0 1 = false ∧ clocked s.m 0 = true ∧ (anvAt s.m 0).q[(1 : Half)] = [x.2.1] ∧ opOp x.2.1 = x.2.2
          ∧ opRefusal s.m 0 x.2.1 = none ∧ opWaits s.m 0 x.2.1 = true)
      ∧ (∀ x ∈ [(true, mmaOf, 1), (false, reduceOf, 2)], let s := anvilState x.1 true x.2.1
        queueHeld s.regs s.m 0 1 = false ∧ clocked s.m 0 = true ∧ (anvAt s.m 0).q[(1 : Half)] = [x.2.1] ∧ opOp x.2.1 = x.2.2
          ∧ opRefusal s.m 0 x.2.1 = none ∧ (anvAt s.m 0).ahead[(1 : Half)] = none ∧ entryReady s.m 0 1 x.2.1 = false)
      ∧ (∀ x ∈ [(true, mmaOf, 1), (false, reduceOf, 2)], let y := { MacOp.start x.2.1 0 with bad := some .errData }
        let s := let s := anvilState x.1 true x.2.1; { s with m := modAnv 0 (fun a => { a with ahead := a.ahead.set 1 (some y) }) s.m }
        queueHeld s.regs s.m 0 1 = false ∧ clocked s.m 0 = true ∧ (anvAt s.m 0).q[(1 : Half)] = [x.2.1] ∧ opOp x.2.1 = x.2.2
          ∧ opRefusal s.m 0 x.2.1 = none ∧ (anvAt s.m 0).ahead[(1 : Half)] = some y ∧ y.bad = some .errData)
      ∧ leavesQueue (anvilState true true discardOf) 0 1 discardOf [] 4
      ∧ (∀ x ∈ [(true, openOf, 0, Code.errRefused), (false, mmaOf, 1, .errRefused), (false, reduceOf, 2, .errRefused), (false, drainOf, 3, .errRefused),
          (false, discardOf, 4, .errRefused), (false, aop 0xE4000000 0 0 0, 7, .errDecode)],
        let s := anvilState true x.1 x.2.1
        queueHeld s.regs s.m 0 1 = false ∧ clocked s.m 0 = true ∧ (anvAt s.m 0).q[(1 : Half)] = [x.2.1] ∧ opOp x.2.1 = x.2.2.1
          ∧ (halfAt s.m 0).safe = false ∧ opRefusal s.m 0 x.2.1 = some x.2.2.2) := by
  unfold leavesQueue; refine ⟨?_, ?_, ?_, ?_, ?_, ?_, ?_, ?_, ?_, ?_⟩ <;> decide +kernel

/-- OpenSeatsItsGroup; the Crucible units of Table 9.10. -/
theorem witness_open : openOf.clean = false ∧ opOp openOf = 0 ∧ opAg openOf = 2 ∧ unitsOf 0x040166E0 8 = 5 := by decide +kernel

def feedReq : Req := { req .rdNc 0x1000000 8 (.feed 0 false) with id := 50 }

/-- The Anvil of Half 0 with a feed read complete. -/
def fed (f : Anvil → Anvil) (c : Code) : State := withM fun m => { modAnv 0 f m with unitDone := [(feedReq, c, 0)] }

/-- AnvilOperationsComplete: a feed read for the MAC stage, for the head of a queue, for none; a spill, an overflow with its checkpoint, an
operation in the adder tree, the last write of a drain. -/
theorem witness_anvil_ops :
    (∀ c ∈ [Code.done, .errData], (fed id c).m.unitDone = [(feedReq, c, 0)] ∧ isDone c = (c == .done) ∧ feedReq.origin = .feed 0 false)
      ∧ feederOf (anvAt (fed (fun a => { a with mac := some (macOf .feeding) }) .done).m 0) 50 = some (none, macOf .feeding)
      ∧ feederOf (anvAt (fed (fun a => { a with ahead := a.ahead.set 1 (some (macOf .feeding)) }) .done).m 0) 50 = some (some 1, macOf .feeding)
      ∧ feederOf (anvAt (fed id .done).m 0) 50 = none
      ∧ (∀ st ∈ [MacSt.spill, .overflow], let ck : Checkpoint := ⟨2, [], [], 0, 0⟩
        let s := withM (modAnv 0 fun a => { a with mac := some (macOf st), ck := some ck })
        (anvAt s.m 0).mac = some (macOf st) ∧ (anvAt s.m 0).ck = some ck ∧ (macOf st).st = st ∧ clocked s.m 0 = true)
      ∧ (let x : TreeOp := ⟨mmaOf, 2, 1, false, 0x10000000, false⟩
        (anvAt (withM (modAnv 0 fun a => { a with tree := [x] })).m 0).tree = [x])
      ∧ (let x : DrnOp := ⟨drainOf, 2, 1, false, [], [50], none, 0⟩; let r := { feedReq with origin := .drain 0 }
        let s := withM fun m => { modAnv 0 (fun a => { a with drn := some x }) m with unitDone := [(r, .done, 0)] }
        s.m.unitDone = [(r, .done, 0)] ∧ r.origin = .drain 0 ∧ (anvAt s.m 0).drn = some x ∧ x.await = [r.id] ∧ x.left = []) := by
  decide +kernel

theorem witness_outputs : (4 ≤ 4 ∧ 31 < 32 ∧ 3 < shapeSlots 4) ∧ (0 < shapeSlots 0) := by decide

/-! ## Witnesses: error protection -/

def voting : State := withM fun m => { m with img := { m.img with loaded := true }, halves := m.halves.set 0 { awakeHalfSt with words := awakeHalfSt.words.set 1 [(17, 1)] } }

/-- StoredWordsAreCorrectedAndVoted: a copy differs. -/
theorem witness_vote : clocked voting.m 0 = true ∧ voteNeeded voting.m 0 = true ∧ (1#32 ≠ 2 ∧ 1#32 ≠ 3 ∧ 2#32 ≠ 3) := by decide +kernel

def copy (word : Nat) : RemapCopy := ⟨0, false, false, 3, 5, word, false⟩

/-- Half 0 with a corrected word to write back, a word to read again, in which two positions are flipped or none. -/
def reading (a : Arr) (bad : Bool) : State := withM fun m =>
  { modHalf 0 (fun hs => { hs with wback := [(a, 7)], recheck := [(a, 7)] }) m with
    ras := { m.ras with errs := if bad then [⟨a, 0, 7, 3⟩] else [] } }

def frameState (w : Nat) (v : BitVec 2) : State :=
  let s := withHalf fun hs => { hs with sweep := ⟨true, 0, w, 0x800010⟩, frames := [(w, { heldFrame false with tag := 9 })] }
  { s with regs := { live.regs with hc := live.regs.hc.set 0 { live.regs.hc[0] with wuse := v.setWidth 48 <<< (2 * w) } } }

/-- ProtectionWorksOn: write-backs and re-reads of a frame and of a structure word, with and without an error; a copy at its last word and
behind it; a Quench pass with a word left, at its last one and with none left; a sweep at a frame that may stay,
at one that leaves, behind its last way; a frame that takes a remap entry. -/
theorem witness_protection :
    (∀ a ∈ [Arr.frames, .structs], ∀ b ∈ [false, true], let s := reading a b
      clocked s.m 0 = true ∧ (halfAt s.m 0).wback = [(a, 7)] ∧ (halfAt s.m 0).recheck = [(a, 7)] ∧ (scanKind s.m a 0 7 = 0 ↔ b = false))
      ∧ (let s := reading .frames true
        (halfAt s.m 0).rcopy = none
          ∧ framePlace (halfAt (scanWord s.regs 0 .frames 7 (modHalf 0 (fun x => { x with recheck := [] }) s.m)) 0) 7 = some (0, 0))
      ∧ (∀ k ∈ [7, 8], (halfAt (withHalf fun hs => { hs with rcopy := some (copy k) }).m 0).rcopy = some (copy k)) ∧ (copy 7).word < 8 ∧ (copy 8).word = 8
      ∧ (∀ x ∈ [(0, 0, true), (0, 256 + 1279, true), (8191, 256 + 1280, false)],
        let s : State := { withHalf fun hs => { hs with qn := { hs.qn with busy := true, set := BitVec.ofNat 13 x.1, step := x.2.1 } } with
          regs := { live.regs with qnArrays := Vector.replicate 2 0x20, qnLast := Vector.replicate 2 8191 } }
        (halfAt s.m 0).qn.busy = true ∧ s.m.dbg.stopped = false
          ∧ (x.2.1 = 0 ∨ (quenchNext 8200 s.regs s.m 0 (halfAt s.m 0).qn.set.toNat (halfAt s.m 0).qn.step).isSome = x.2.2))
      ∧ (let s := frameState 4 0
        (halfAt s.m 0).sweep.run = true ∧ wayFrom (halfAt s.m 0).sweep.ways 4 = some 4
          ∧ sweepEvicts s.regs 0 4 (frameAt (halfAt s.m 0) 0 4) = false)
      ∧ (let s := frameState 4 2
        let m := emptyFrame s.regs 0 0 4 s.m
        sweepEvicts s.regs 0 4 (frameAt (halfAt s.m 0) 0 4) = true ∧ frameBusy (halfAt m 0) 0 4 = false ∧ isFree (frameAt (halfAt m 0) 0 4) = false
          ∧ isFree (frameAt (halfAt (evictFrame s.regs 0 0 4 m) 0) 0 4) = true)
      ∧ wayFrom 0x800010 24 = none
      ∧ (let s : State := { live with regs := { live.regs with rasAuto := true } }
        s.regs.rasAuto = true ∧ freeRemap (halfAt s.m 0) = some 0 ∧ remapOf (halfAt s.m 0) 5 3 = none) := by
  decide +kernel

/-! ## Witnesses: power, start, service and debug -/

def withPw (x : Power) : State := withHalf fun hs => { hs with pw := x }

/-- PowerEventsHappen: READY 1 and 0; a half in each state that an event of it needs. -/
theorem witness_power :
    (let s := withM fun m => { m with jrn := { m.jrn with ready := true } };
      calm s.m = true ∧ managed s.m = true ∧ s.regs.holdclk = false ∧ (halfAt s.m 0).pw.awake = true ∧ quiet s.m 0 = true)
      ∧ managed live.m = false ∧ (calm live.m = true ∧ (halfAt live.m 0).pw.awake = true ∧ quiet live.m 0 = true)
      ∧ (∀ x ∈ [(⟨3, true, true, true, false, false, true, false, false, false⟩ : Power), ⟨3, true, false, false, false, false, false, false, false, false⟩,
          ⟨3, true, false, false, false, true, false, false, false, false⟩, ⟨1, true, false, false, false, true, false, true, false, false⟩,
          ⟨1, false, false, false, false, false, false, false, false, false⟩, ⟨3, false, false, false, false, false, false, false, false, false⟩,
          ⟨3, true, true, false, false, false, false, false, false, false⟩, ⟨3, true, true, true, false, false, false, false, true, false⟩],
        (halfAt (withPw x).m 0).pw = x ∧ calm (withPw x).m = true ∧ (withPw x).m.mg.q = []
          ∧ (∀ k : Fin 3, fin3Half k = 0 → (linkAt (withPw x).m k).sendQ = [])
          ∧ (∀ b ∈ [false, true], let m := { (withPw x).m with jrn := { (withPw x).m.jrn with ready := b } }
            managed m = b ∧ calm m = true ∧ (m.jrn.run || m.jrn.ready) = b)) := by
  decide +kernel

def journal (step : BitVec 4) (run : Bool) : State := { State.reset with m := { Mach.reset with jrn := { Jrn.reset with run := run, step := step } } }
def loading (failed : Option (Nat × Nat)) : Load := ⟨false, [], 0, failed⟩

/-- JournalRunsTheStart: reset, and a start in steps 1, 10 and 12; a load that failed. -/
theorem witness_journal :
    (calm State.reset.m = true ∧ State.reset.m.mg.q = [] ∧ State.reset.m.jrn.run = false ∧ ∀ h : Half, (halfAt State.reset.m h).pw.preq = 0)
      ∧ (∀ n ∈ [1, 10, 12], let s := journal (BitVec.ofNat 4 n) true
        calm s.m = true ∧ s.m.mg.q = [] ∧ s.m.jrn.run = true ∧ s.m.jrn.step = BitVec.ofNat 4 n ∧ s.m.jrn.tmode = false ∧ s.m.jrn.missX = false
          ∧ isJoined (linkAt s.m 2).hello = false)
      ∧ (let s := withM fun m => { m with img := { m.img with load := some (loading (some (3, 9))) } }
        s.m.img.load = some (loading (some (3, 9))) ∧ (loading (some (3, 9))).await = 0 ∧ (loading none).failed = none ∧ calm s.m = true) := by
  decide +kernel

/-- Line 0 of an image without lines to check: the nine sections, of which only TOPOLOGY and PARTITION hold anything. -/
def sections : List (Nat × Nat × Nat) :=
  [(1, 256, 256), (2, 1024, 512), (3, 1024, 256), (4, 512, 256), (5, 1024, 256), (6, 1024, 4096), (7, 1024, 65536), (8, 1024, 256), (9, 1024, 86016)]

def headLine : Line := sections.zipIdx.foldl (fun (a : Line) x =>
    let at_ := fun (n o : Nat) => BitVec.ofNat 2048 n <<< (8 * (64 + 16 * x.2 + o))
    a ||| at_ x.1.1 0 ||| at_ x.1.2.1 4 ||| at_ x.1.2.2 8)
  ((9 <<< 48) ||| (256 <<< 96) ||| (0x46e8 <<< 160))

/-- The premise of EveryStepKeepsTheRegistersLegal on a load: HOLD 256, RETIDLE 250 and STOPIDLE 256 in CONTROL, DEPTH 4 in both PARTITION
records. -/
theorem witness_image_in_range :
    ImageInRange [(0, headLine), (2, (0x40 <<< 160) ||| (0x40 <<< 1184)), (4, (256 <<< 64) ||| (0xFA0100 <<< 288))] := by
  refine ⟨?_, ?_, ?_, fun r hr => ?_⟩
  · decide +kernel
  · decide +kernel
  · decide +kernel
  · have len : secLen [(0, headLine), (2, (0x40 <<< 160) ||| (0x40 <<< 1184)), (4, (256 <<< 64) ||| (0xFA0100 <<< 288))] typePARTITION / 128 = 2 := by
      decide +kernel
    rw [len] at hr
    interval_cases r <;> decide +kernel

/-- One die with one slice, whose halves take records 0 and 1. -/
def smallImage : Image := [(0, headLine), (1, 0x100010100), (2, 1 ||| (0x100000001 <<< 1024))]

theorem image_tail (n : Nat) (h : 3 ≤ n) : imgLine smallImage n = 0 := by
  have h0 : n ≠ 0 := by omega
  have h1 : n ≠ 1 := by omega
  have h2 : n ≠ 2 := by omega
  have h3 : ¬ n < 0 := by omega
  have h4 : ¬ n < 1 := by omega
  have h5 : ¬ n < 2 := by omega
  simp [imgLine, smallImage, tabGet, h0, h1, h2, h4, h5]

theorem image_zero (t i : Nat) (h : 768 ≤ secOff smallImage t) : wordFails smallImage t i = false := by
  have hw : secWord smallImage t i = 0 := by
    simp only [secWord, imgWord]
    rw [image_tail _ (by omega)]
    simp
  have hv : reservedValue t (i % recordWords t) 0 = false := by simp [reservedValue]
  rw [wordFails, hw, hv]
  simp

/-- JournalRunsTheStart: a load without a failure. -/
theorem witness_image :
    let ld : Load := { loading none with lines := smallImage }
    let s := withM fun m => { m with img := { m.img with load := some ld } }
    calm s.m = true ∧ s.m.mg.q = [] ∧ s.m.img.load = some ld ∧ ld.await = 0 ∧ ld.failed = none ∧ imageFailure ld.lines s.m = none := by
  have heads : (∀ t ∈ [2, 3, 5, 6, 7, 8, 9], 768 ≤ secOff smallImage t) ∧ checkedWords smallImage 1 = 64 ∧ checkedWords smallImage 4 = 64
      ∧ (List.range 64).find? (wordFails smallImage 1) = none ∧ (List.range 64).find? (wordFails smallImage 4) = none
      ∧ icrcOk smallImage = true ∧ (hdrDigest (imgLine smallImage 0) != imgDigest smallImage) = false ∧ sectionsOk smallImage = true
      ∧ sliceOk smallImage live.m.jrn = true ∧ live.m.img.loaded = false ∧ diesOk smallImage = true := by decide +kernel
  obtain ⟨hz, c1, c4, f1, f4, a, b, c, d, e, f⟩ := heads
  have zero : ∀ t ∈ [2, 3, 5, 6, 7, 8, 9], (List.range (checkedWords smallImage t)).find? (wordFails smallImage t) = none := by
    intro t ht
    rw [List.find?_eq_none]
    intro i _
    simp [image_zero t i (hz t ht)]
  have all : ∀ t ∈ (List.range 9).map (· + 1), (List.range (checkedWords smallImage t)).find? (wordFails smallImage t) = none := by
    intro t ht
    by_cases h1 : t = 1
    · rw [h1, c1, f1]
    by_cases h4 : t = 4
    · rw [h4, c4, f4]
    · refine zero t ?_
      simp only [List.mem_map, List.mem_range] at ht
      obtain ⟨n, hn, rfl⟩ := ht
      simp only [List.mem_cons, List.not_mem_nil, or_false]
      omega
  have hf : fieldFailure smallImage = none := by
    rw [fieldFailure, List.findSome?_eq_none_iff]
    intro t ht
    rw [all t ht]
    rfl
  intro ld s
  refine ⟨by decide +kernel, rfl, rfl, rfl, rfl, ?_⟩
  have d' : sliceOk smallImage s.m.jrn = true := d
  have e' : s.m.img.loaded = false := e
  show imageFailure smallImage s.m = none
  simp [imageFailure, a, b, c, d', e', f, hf]

/-- ServiceAndInstancesGoOn. -/
def job (cmd : BitVec 3) (fail : Option (BitVec 3)) : ViCmd := ⟨cmd, 5, 0, [], [], 1, 1, fail⟩

def jobState (j : ViCmd) (parked : List Req) : State := withM fun m => { m with vi := { m.vi with busy := true, job := some j }, parked := parked }

theorem witness_service :
    (∀ n ∈ [1, 2], let j := job (BitVec.ofNat 3 n) none; let s := jobState j []
      s.m.vi.job = some j ∧ workLeft s.m 5 (some 0) = false ∧ workLeft s.m 5 none = false)
      ∧ workLeft (jobState (job 1 none) [{ ctrReq .wait 8 5 with inst := 5 }]).m 5 (some 0) = true
      ∧ (∀ n ∈ [4, 5], let j := job (BitVec.ofNat 3 n) (some 2); 4 ≤ j.cmd.toNat ∧ j.await = [] ∧ j.fail = some 2)
      ∧ ((job 5 none).await = [] ∧ (job 5 none).fail = none ∧ (job 5 none).len ≤ (job 5 none).next ∧ recordSound (job 5 none).lines = false)
      ∧ (let r := req .atomN 0x1000408 3 .logger; let s := withM fun m => { m with unitDone := [(r, .errPerm, 0)] }
        s.m.unitDone = [(r, .errPerm, 0)] ∧ r.origin = .logger)
      ∧ (∀ n ∈ [0, 4095], let s := withM fun m => { m with svc := { m.svc with copy := true, copyAt := n } }
        s.m.svc.copy = true ∧ s.m.svc.copyAt < 4096)
      ∧ (let s := channel id
        calm s.m = true ∧ s.regs.svcOrder = false ∧ tabWf (0 : Int) (chanAt s.m 0).bucket = true) := by
  decide +kernel

/-- DebugUnitsGoOn: pulses 1,024 and 1,025 ticks after the last one; a measurement; a trace at its end; a dump whose copies are made. -/
theorem witness_debug :
    pulseAccepted { Dbg.reset with tick := 1025, lastP := some 0 } = true ∧ pulseAccepted { Dbg.reset with tick := 1024, lastP := some 0 } = false
      ∧ canHear live 2 1
      ∧ (let s := withM fun m => { m with dbg := { m.dbg with meas := some ⟨1, 8, 0, none⟩ } }
        s.m.dbg.meas = some ⟨1, 8, 0, none⟩ ∧ s.m.dbg.measQ = [] ∧ tabWf Offset.none s.m.dbg.offs = true ∧ calm s.m = true)
      ∧ (let s := withHalf fun hs => { hs with trace := { hs.trace with act := true, trgd := true } }
        (halfAt s.m 0).trace.act = true ∧ (halfAt s.m 0).trace.trgd = true ∧ (halfAt s.m 0).trace.left = 0 ∧ (halfAt s.m 0).trace.queue = [])
      ∧ (let s : State := { live with regs := { live.regs with pfEn := 1 } }
        clocked s.m 0 = true ∧ profRuns s.regs s.m 0 = true ∧ tabWf 0 (halfAt s.m 0).prof = true ∧ (∀ p, heldOn (portAt s.m p) = [])
          ∧ stageOp (anvAt s.m 0) = none ∧ (profCfg s.regs 0 63).evt = 0 ∧ (profCfg s.regs 0 63).lmode = 0 ∧ (profCfg s.regs 0 63).omask = 0
          ∧ (profCfg { s.regs with pfCfg := [(0, ⟨5, 0, 0, 0, 0⟩)] } 0 0).evt ≠ 0)
      ∧ (let x : Measure := ⟨1, 7, 0, none⟩; let s := withM fun m => { m with dbg := { m.dbg with meas := some x } }
        canHear s 2 1 ∧ s.m.dbg.meas = some x ∧ x.pkg = 1 ∧ x.sent < 8)
      ∧ (let j : DumpJob := ⟨0, (0, 1), 4, 4, [], .done, 4⟩
        let s := withM fun m => { modSeq 0 1 (fun q => { q with stop := some (.ended .done true) }) m with dbg := { m.dbg with jobs := [j] } }
        s.m.dbg.jobs = [j] ∧ dumpOver j = true ∧ (seqAt s.m 0 1).stop = some (.ended .done true)) := by
  unfold canHear awakeHalf; decide +kernel

/-! ## The spec's worked examples -/

/-- Table 1.5: the home of 0x0_0000_1234_5600, and of the rest of its block. -/
theorem test_home : homeIndex 0x12345600 = 40 ∧ homeParity 0x12345600 = true ∧ homeIndex 0x12345400 = 40 ∧ homeParity 0x12345400 = true := by
  decide +kernel

/-- R127 on the block of Tables 1.5 and 4.6: set 0x0D31, tag 0x24. -/
theorem test_set_and_tag : setIx (lineOf 0x12345400) = 0x0D31 ∧ tagIx (lineOf 0x12345400) = 0x24 := by decide +kernel

def packing : HcRegs := { HcRegs.reset with cmode := 2, zero := true, rep := true, delta := true, bexp := true }

/-- Sixteen indices, each one greater than the last, from 0x0001_2A00. -/
def indices : Sector := (List.range 16).foldl (fun a i => a ||| (BitVec.ofNat 512 (0x12A00 + i) <<< (32 * i))) 0

/-- Line 3 of Table 4.6: DELTA 16 with header 0x01, base 00 2A 01 00, then 0x41 and 0x0C; REPEAT 16; a ZERO sector; and back. -/
theorem test_sector_encodings :
    chooseDesc packing false indices = mkDesc 0 2 ∧ (storeSector (mkDesc 0 2) indices).extractLsb' 0 56 = 0x0C4100012A0001
      ∧ loadSector (mkDesc 0 2) (storeSector (mkDesc 0 2) indices) = indices
      ∧ chooseDesc packing false (BitVec.allOnes 512) = mkDesc 0 1 ∧ chooseDesc packing false 0 = mkDesc 0 0 := by
  decide +kernel

/-- A bfloat16 sector in the manner of line 1: exponent fields from 120 up, the low four fraction bits zero, 0.75 = 0x3F40 among them. -/
def activations : Sector :=
  (List.range 32).foldl (fun a i => a ||| (BitVec.ofNat 512 (if i == 0 then 0x3F40 else 0x3C10 + 0x80 * (i % 8)) <<< (16 * i))) 0

/-- Line 1 of Table 4.6: BEXP 32, header 0x7836, and 0.75 as the record 0x34. -/
theorem test_bexp : chooseDesc packing false activations = mkDesc 1 3 ∧ (storeSector (mkDesc 1 3) activations).extractLsb' 0 16 = 0x7836
    ∧ (storeSector (mkDesc 1 3) activations).extractLsb' 16 7 = 0x34 ∧ loadSector (mkDesc 1 3) (storeSector (mkDesc 1 3) activations) = activations := by
  decide +kernel

/-- Table 8.5: the three additions at 2^30, and −1,536.25 drained to binary32 and to bfloat16. -/
theorem test_xa48 :
    toXa48 (addNum (decodeFloat xa48 0x43A000000000) (scaleNum (-8) (numOfInt 1))) = 0x43A000000000
      ∧ toXa48 (addNum (decodeFloat xa48 0x43A000000000) (scaleNum (-9) (numOfInt 3))) = 0x43A000000001
      ∧ toXa48 (addNum (decodeFloat xa48 0x43A000000001) (scaleNum (-8) (numOfInt 1))) = 0x43A000000002
      ∧ toXa48 (scaleNum (-2) (numOfInt (-6145))) = 0xC13002000000
      ∧ encodeFloat binary32 (decodeFloat xa48 0xC13002000000) = 0xC4C00800
      ∧ encodeFloat bfloat16 (decodeFloat xa48 0xC13002000000) = 0xC4C0 := by
  decide +kernel

/-- Table 8.8: the MXFP4 block of 5.0, −0.3, 0.25, 1.75; −0.3 is taken as −77/256, which lies between the same neighbours. -/
theorem test_mxfp4 : quantiseBlock 10 [numOfInt 5, scaleNum (-8) (numOfInt (-77)), scaleNum (-2) (numOfInt 1), scaleNum (-2) (numOfInt 7)]
    = (0x7F, [6, 9, 0, 4]) := by decide +kernel

/-- Contributions in an order: the stored nodes after each, as levels and positions with the value of element 0, and the result. -/
def arrivals (xs : List (Nat × Nat)) : List (List (Nat × Nat × BitVec 48)) × Option Nat :=
  let r := xs.foldl (fun (st : GrpSector × List (List (Nat × Nat × BitVec 48)) × Option Nat) x =>
    let c := contribute 0 1 5 (BitVec.ofNat 8 x.1) (BitVec.ofNat 512 x.2) st.1
    (c.1, st.2.1 ++ [c.1.nodes.map fun n => (n.level, n.pos, ((n.vals.map (·.val)).head?).getD 0)],
      match c.2 with | some root => some ((resultSector 0 1 root).extractLsb' 0 32).toNat | none => st.2.2)) (GrpSector.none, [], none)
  r.2

/-- Table 10.7 in the orders A and B of Table 10.8: 3, or 0x4040_0000, each time; at most three stored nodes in A, one in B. -/
theorem test_group_orders :
    (arrivals [(4, 0x3F800000), (3, 0xCB800000), (1, 0x3F800000), (0, 0x4B800000), (2, 0x3F800000)]).2 = some 0x40400000
      ∧ arrivals [(0, 0x4B800000), (1, 0x3F800000), (2, 0x3F800000), (3, 0xCB800000), (4, 0x3F800000)]
        = ([[(0, 0, 0x42E000000000)], [(1, 0, 0x42E000002000)], [(1, 0, 0x42E000002000), (0, 2, 0x3FE000000000)],
            [(2, 0, 0x400000000000)], []], some 0x40400000) := by
  decide +kernel

/-- R195 on the line of Table 18.10: dset 0x575, dtag 0x123. -/
theorem test_directory_place : dirSet (lineOf 0x12345600) = 0x575 ∧ dirTag (lineOf 0x12345600) = 0x123 := by decide +kernel

/-- R387: the check value of CRC-32C. -/
theorem test_crc32c : crc32c [0x31, 0x32, 0x33, 0x34, 0x35, 0x36, 0x37, 0x38, 0x39] = 0xE3069283 := by decide +kernel

/-- The probe of R522's example: 1,260 ns and 249,999,982 ns. -/
theorem test_probe : probeResult 1000000000 1250000612 1000001300 40 = (1260, 249999982) := by decide +kernel

/-- A word of the program of Table 11.8 runs from an address of 0x1234_5400 in A2. -/
def ran (w : BitVec 32) (f : Half → Half → State → Host.Outcome State Fault Refusal) (p : Seq → Bool) : Bool :=
  let s := program w
  after (f 0 1 { s with m := modSeq 0 1 (fun q => { q with a := (q.a.set 2 0x12345400).set 8 0x20000000 }) s.m }) fun t => p (seqAt t.m 0 1)

/-- Table 11.8: ADDI, SHRI and MOVI; BNE A9, A0 goes on with A9 = 0, and the same word with A8 for A9 branches to 0x058. -/
theorem test_program_words :
    ran 0x0D488000 execIAddi (fun q => decide (q.a[5] = 0x1234D400)) = true ∧ ran 0x0D889000 execIAddi (fun q => decide (q.a[6] = 0x1234E400)) = true
      ∧ ran 0x2A60001D execIShri (fun q => decide (q.a[9] = 1)) = true ∧ ran 0x09C08000 execIMovi (fun q => decide (q.a[7] = 32768)) = true
      ∧ ran 0x44240058 execIBne (fun q => decide (q.pc = 1)) = true ∧ ran 0x44200058 execIBne (fun q => decide (q.pc = 0x58)) = true := by
  decide +kernel

end Sys2Proof.Tests
end

section
/-!
The management port: what the guard does with each write (R548, R549), which bit `aliasWord` and `aliasBit` name (R551, R552), and what is left of
Half 1 under FRUGAL (R547).
-/

namespace Sys2Proof.Machine

/-! ## The guard of the management port -/

/-- A write that finds room passes the guard, and does nothing else. -/
theorem mgmtWrite_takes {a : BitVec 18} {v : BitVec 32} {k : Nat} {s : State} (ht : s.m.jrn.tmode = false)
    (hr : writeReady a s.m.mg = true) :
    exec (.mgmtWrite a v k) s = .next { s with m := { s.m with mg := guardWrite a v k s.m.mg } } := by
  change execMgmtWrite a v k s = _
  simp [execMgmtWrite, ht, hr, modMg]

theorem mgmtWrite_tmode {s : State} (ht : s.m.jrn.tmode = true) (a : BitVec 18) (v : BitVec 32) (k : Nat) :
    exec (.mgmtWrite a v k) s = .next s := by
  change execMgmtWrite a v k s = _
  simp [execMgmtWrite, ht]

theorem mgmtRead_tmode {s : State} (ht : s.m.jrn.tmode = true) (a : BitVec 18) : exec (.mgmtRead a) s = .next s := by
  change execMgmtRead a s = _
  simp [execMgmtRead, ht]

section Guard

variable {a : BitVec 18} {v : BitVec 32} {k o : Nat} {x : Mgmt} {p : Pending}

theorem guardWrite_paired (ho : pairOwner (offsetOf a) = some o) : guardWrite a v k x = takePaired o v k x := by
  simp only [guardWrite, ho]

theorem guardWrite_guarded (ho : pairOwner (offsetOf a) = none) (hg : isGuarded (offsetOf a) = true) :
    guardWrite a v k x = { dropPending x with guard := some ⟨a, v, k⟩ } := by
  simp only [guardWrite, ho, hg, if_true]

theorem guardWrite_plain (ho : pairOwner (offsetOf a) = none) (hg : isGuarded (offsetOf a) = false) :
    guardWrite a v k x = enqueue (.write a v) (dropPending x) := by
  simp only [guardWrite, ho, hg, Bool.false_eq_true, if_false]

theorem dropPending_some (hx : x.guard = some p) : dropPending x = guardFail p.addr x := by simp only [dropPending, hx]

theorem dropPending_none (hx : x.guard = none) : dropPending x = x := by simp only [dropPending, hx]

theorem completesPair_iff :
    completesPair p o v k = true ↔ offsetOf p.addr = o ∧ p.mclk ≤ k ∧ k ≤ p.mclk + 8 ∧ v = ~~~p.data := by
  simp only [completesPair, Bool.and_eq_true, beq_iff_eq, decide_eq_true_eq, and_assoc]

theorem takePaired_completes (hx : x.guard = some p) (hc : completesPair p o v k = true) :
    takePaired o v k x = enqueue (.write p.addr p.data) { x with guard := none } := by
  simp only [takePaired, hx, hc, if_true]

theorem takePaired_fails (hx : x.guard = some p) (hc : ¬ completesPair p o v k = true) : takePaired o v k x = guardFail p.addr x := by
  simp only [takePaired, hx, if_neg hc]

theorem takePaired_idle (hx : x.guard = none) : takePaired o v k x = guardFail (BitVec.ofNat 18 (o / 4)) x := by
  simp only [takePaired, hx]

end Guard

/-! ## Reads and the guard -/

theorem rouse_mg (h : Half) (m : Mach) : (rouse h m).mg = m.mg := by
  unfold rouse
  split
  · rfl
  · exact raiseDemand_mg m h

theorem wakeHalves_mg (hs : List Half) (m : Mach) : (wakeHalves hs m).mg = m.mg := by
  induction hs generalizing m with
  | nil => rfl
  | cons h hs ih => exact (ih (rouse h m)).trans (rouse_mg h m)

/-- Serving reads changes nothing of the port's registers but the queue. -/
theorem serveReads_mg (n : Nat) (g : Regs) (m : Mach) : ∃ q, (serveReads n g m).mg = { m.mg with q := q } := by
  fun_induction serveReads n g m with
  | case1 m n a rest hq off hi => exact ⟨m.mg.q, rfl⟩
  | case2 m n a rest hq off m' hi hc ih =>
    obtain ⟨q, h⟩ := ih
    refine ⟨q, h.trans ?_⟩
    simp only [emit_mg, modMg, m', wakeHalves_mg]
  | case3 m n a rest hq off m' hi hc => exact ⟨m.mg.q, wakeHalves_mg _ m⟩
  | case4 => exact ⟨_, rfl⟩

theorem mgmtRead_mg {a : BitVec 18} {s t : State} (h : exec (.mgmtRead a) s = .next t) : ∃ q, t.m.mg = { s.m.mg with q := q } := by
  change execMgmtRead a s = _ at h
  unfold execMgmtRead at h
  split at h
  · cases h
    obtain ⟨q, hq⟩ := serveReads_mg 4 s.regs (modMg (enqueue (.read a)) s.m)
    exact ⟨q, hq⟩
  · cases h
    exact ⟨s.m.mg.q, rfl⟩

/-- Settles O14, by the cases of `guardWrite`: a paired address or not, a value pending or not, a guarded register or not. -/
theorem guardJudgesEachWrite : Obligations.GuardJudgesEachWrite := by
  intro a v k s
  refine ⟨fun ht => ⟨mgmtWrite_tmode ht a v k, mgmtRead_tmode ht a⟩, fun ht hr => ?_⟩
  rw [mgmtWrite_takes ht hr]
  refine ⟨?completes, ?mismatch, ?unawaited, ?guarded, ?plain, ?guardedOver, ?plainOver, ?reads⟩
  case completes =>
    intro p hx ho hlo hhi hv
    rw [guardWrite_paired ho, takePaired_completes hx (completesPair_iff.mpr ⟨rfl, hlo, hhi, hv⟩)]
    rfl
  case mismatch =>
    intro p o hx ho hc
    rw [guardWrite_paired ho, takePaired_fails hx (mt completesPair_iff.mp hc)]
    rfl
  case unawaited =>
    intro o hx ho
    rw [guardWrite_paired ho, takePaired_idle hx]
    rfl
  case guarded =>
    intro hx ho hg
    rw [guardWrite_guarded ho hg, dropPending_none hx]
  case plain =>
    intro hx ho hg
    rw [guardWrite_plain ho hg, dropPending_none hx]
    rfl
  case guardedOver =>
    intro p hx ho hg
    rw [guardWrite_guarded ho hg, dropPending_some hx]
    rfl
  case plainOver =>
    intro p hx ho hg
    rw [guardWrite_plain ho hg, dropPending_some hx]
    rfl
  case reads =>
    intro t h
    obtain ⟨q, hq⟩ := mgmtRead_mg h
    rw [hq]
    exact ⟨rfl, rfl, rfl⟩

/-! ## Bit aliases -/

theorem regRead_register {off : Nat} (h : off < 0x80000) (g : Regs) (m : Mach) : regRead g m off = liveRead g m off := if_pos h

theorem regRead_alias {a : Nat} (h : 0x80000 ≤ a) (g : Regs) (m : Mach) :
    regRead g m a = if (liveRead g m (aliasWord a)).getLsbD (aliasBit a) then 1 else 0 := by
  simp only [regRead, if_neg (Nat.not_lt.mpr h), bit32, flagAt]
  rfl

theorem aliasWrite_exec (s : State) : exec .aliasWrite s = frontWrite (fun off _ => decide (0x80000 ≤ off)) aliasWrite s := rfl

theorem aliasBit_lt (a : Nat) : aliasBit a < 32 := Nat.mod_lt _ (by decide)

/-- A word with bit b replaced. -/
theorem getLsbD_replaceBit (old : BitVec 32) (f : Bool) {b i : Nat} (hb : b < 32) (hi : i < 32) :
    ((old &&& ~~~(1#32 <<< b)) ||| flagAt 32 f b).getLsbD i = if i = b then f else old.getLsbD i := by
  have hbit : (1#32 <<< b).getLsbD i = decide (i = b) := by
    rw [← BitVec.twoPow_eq, BitVec.getLsbD_twoPow]
    simp [hb, eq_comm]
  have hflag : (flagAt 32 f b).getLsbD i = (f && decide (i = b)) := by
    cases f
    · simp [flagAt]
    · simpa [flagAt] using hbit
  rw [BitVec.getLsbD_or, BitVec.getLsbD_and, BitVec.getLsbD_not, hbit, hflag]
  by_cases e : i = b <;> simp [e, hi]

theorem aliasWrite_guarded {off : Nat} (h : isGuarded (aliasWord off) = true ∨ (pairOwner (aliasWord off)).isSome = true) (v : BitVec 32)
    (x : Slice) : aliasWrite off v x = x :=
  if_pos (by simpa only [Bool.or_eq_true] using h)

/-- At any other word `aliasWrite` is a write of the word that reads as before but for the bit that the offset names. -/
theorem aliasWrite_replaces {off : Nat} (h : ¬ (isGuarded (aliasWord off) = true ∨ (pairOwner (aliasWord off)).isSome = true))
    {v new : BitVec 32} {x : Slice}
    (hn : ∀ i < 32, new.getLsbD i = if i = aliasBit off then v.getLsbD 0 else (plainRead x.1 x.2 (aliasWord off)).getLsbD i) :
    aliasWrite off v x = applyWrite (aliasWord off) new x := by
  have hnew : (plainRead x.1 x.2 (aliasWord off) &&& ~~~(1#32 <<< aliasBit off)) ||| flagAt 32 (bitAt v 0) (aliasBit off) = new := by
    refine BitVec.eq_of_getLsbD_eq fun i hi => ?_
    rw [getLsbD_replaceBit _ _ (aliasBit_lt off) hi, hn i hi]
  calc aliasWrite off v x
      = applyWrite (aliasWord off)
          ((plainRead x.1 x.2 (aliasWord off) &&& ~~~(1#32 <<< aliasBit off)) ||| flagAt 32 (bitAt v 0) (aliasBit off)) x :=
        if_neg (by simpa only [Bool.or_eq_true] using h)
    _ = applyWrite (aliasWord off) new x := by rw [hnew]

/-- Settles O17: the read by `regRead_alias`, the write by `frontWrite_takes` and the two cases of `aliasWrite`. -/
theorem aliasWordsNameOneBit : Obligations.AliasWordsNameOneBit := by
  refine ⟨fun w b hw _ hb => ?_, fun a => ⟨rfl, rfl⟩, fun s a ha => regRead_alias ha s.regs s.m, ?_⟩
  · simp only [aliasWord, aliasBit]
    omega
  · intro s off v new ho hw
    dsimp only
    intro hn
    rw [aliasWrite_exec, frontWrite_takes (row := fun off _ => decide (0x80000 ≤ off)) (decide_eq_true ho) hw]
    split
    next hg => rw [aliasWrite_guarded hg]
    next hg => rw [aliasWrite_replaces (x := (s.regs, accessTaken s off)) hg hn]

/-! ## A half that FRUGAL has turned off -/

section Frugal

variable {m : Mach} {off : Nat}

theorem deadRegister_half1 (hf : frugal m = true) (h : regHalves off = [1]) : deadRegister m off = true := by
  simp [deadRegister, hf, h]

theorem liveRead_half1 (hf : frugal m = true) (h : regHalves off = [1]) (g : Regs) : liveRead g m off = 0 :=
  if_pos (deadRegister_half1 hf h)

/-- Under FRUGAL the fields of Half 1 in a shared register read zero. -/
theorem liveRead_and_half1Bits (hf : frugal m = true) (g : Regs) (off : Nat) : liveRead g m off &&& half1Bits off = 0 := by
  unfold liveRead
  split
  · exact BitVec.zero_and
  · rw [liveBits, if_pos hf, BitVec.and_assoc, BitVec.and_comm (~~~half1Bits off), BitVec.and_not_self]
    exact BitVec.and_zero

theorem liveRead_half1Bit (hf : frugal m = true) (g : Regs) {b : Nat} (hb : (half1Bits off).getLsbD b = true) :
    (liveRead g m off).getLsbD b = false := by
  have h := congrArg (fun w => w.getLsbD b) (liveRead_and_half1Bits hf g off)
  simpa [hb] using h

/-- No access to a location of Half 1, nor to an always-on one, needs clocks. -/
theorem neededHalves_half1 (hf : frugal m = true) (h : regHalves off = [1] ∨ regHalves off = []) : neededHalves m off = [] := by
  rcases h with h | h <;> simp [neededHalves, h, hf]

theorem indHalves_half1 (hf : frugal m = true) {a : Nat} (h : indHalf a = some 1 ∨ indHalf a = none) : indHalves m a = [] := by
  rcases h with h | h <;> simp [indHalves, h, hf]

theorem indDead_half1 (hf : frugal m = true) {a : Nat} (h : indHalf a = some 1) : indDead m a = true := by simp [indDead, hf, h]

/-- The write at the front to a dead register leaves the queue and has no effect. -/
theorem frontWrite_dead {row : Nat → BitVec 32 → Bool} {effect : Nat → BitVec 32 → Slice → Slice} {s : State} {a : BitVec 18}
    {v : BitVec 32} {q : List Access} (hq : s.m.mg.q = .write a v :: q) (hr : row (offsetOf a) v = true)
    (hd : deadRegister s.m (wordOff (offsetOf a)) = true) : frontWrite row effect s = .next (rest s (s.regs, popAccess s.m)) := by
  simp [frontWrite, hq, hr, hd]

end Frugal

/-! ## The topology and the safe state -/

section Topology

variable {m m' : Mach}

theorem copyValue_congr (hw : ∀ h, (halfAt m' h).words = (halfAt m h).words) (he : m'.ras.errs = m.ras.errs) (h : Half) (c : Fin 3)
    (i : Nat) : copyValue m' h c i = copyValue m h c i := by
  simp only [copyValue, errMask, hw, he]

theorem votedWord_congr (hw : ∀ h, (halfAt m' h).words = (halfAt m h).words) (he : m'.ras.errs = m.ras.errs) (h : Half) (i : Nat) :
    votedWord m' h i = votedWord m h i := by
  simp only [votedWord, copyValue_congr hw he]

/-- A structure word depends on its copies, their stored errors and the free value that a failed vote leaves. -/
theorem word_congr (hw : ∀ h, (halfAt m' h).words = (halfAt m h).words) (he : m'.ras.errs = m.ras.errs) (hc : m'.freeCtr = m.freeCtr)
    (h : Half) (i : Nat) : word m' h i = word m h i := by
  simp only [word, votedWord_congr hw he, hc]

theorem half1Words_congr (hw : ∀ h, (halfAt m' h).words = (halfAt m h).words) : half1Words m' = half1Words m := by
  simp only [half1Words, hw]

theorem frugal_congr (hw : ∀ h, (halfAt m' h).words = (halfAt m h).words) (he : m'.ras.errs = m.ras.errs) (hc : m'.freeCtr = m.freeCtr) :
    frugal m' = frugal m := by
  simp only [frugal, sliceWord, votedWord_congr hw he, half1Words_congr hw, word_congr hw he hc]

end Topology

theorem words_modHalf {f : HalfSt → HalfSt} (hf : ∀ hs, (f hs).words = hs.words) (h j : Half) (m : Mach) :
    (halfAt (modHalf h f m) j).words = (halfAt m j).words := by
  by_cases e : j = h
  · subst e
    rw [halfAt_modHalf, hf]
  · rw [halfAt_modHalf_ne m f e]

/-- A cause of the safe state does not change the topology. -/
theorem frugal_causeSafe (h : Half) (cause : BitVec 4) (w : BitVec 6) (m : Mach) : frugal (causeSafe h cause w m) = frugal m := by
  unfold causeSafe
  split
  · rfl
  · refine frugal_congr (fun j => words_modHalf ?_ h j m) rfl rfl
    intro hs
    rfl

/-! ## The writable registers that both halves share -/

theorem applyWrite_pfCtl (v : BitVec 32) (x : Slice) : applyWrite 0x93F0 v x = writePf v x := rfl

theorem applyWrite_rasCtl (v : BitVec 32) (x : Slice) : applyWrite 0x6000 v x = writeRasCtl v x := rfl

/-- Under FRUGAL PF_CTL ignores EN1 and CLR1. -/
theorem writePf_half1 {x : Slice} (hf : frugal x.2 = true) (v : BitVec 32) : writePf v x = writePf (v &&& ~~~half1Bits 0x93F0) x := by
  have hv : v &&& ~~~half1Bits 0x93F0 &&& liveBits x.2 0x93F0 = v &&& liveBits x.2 0x93F0 := by
    rw [liveBits, if_pos hf, BitVec.and_assoc, BitVec.and_self]
  simp only [writePf, hv]

/-- Under FRUGAL no forcing of a half reads FORCE1. -/
theorem forceSafe_frugal {m : Mach} (hf : frugal m = true) (v : BitVec 32) :
    forceSafe v m = if bitAt v 6 then causeSafe 0 6 0 m else m := by
  have hk : frugal (if bitAt v 6 then causeSafe 0 6 0 m else m) = true := by
    split
    · rw [frugal_causeSafe, hf]
    · exact hf
  simp only [forceSafe, hk, Bool.not_true, Bool.and_false, Bool.false_eq_true, if_false]

theorem bitAt_and_not_force1 (v : BitVec 32) {i : Nat} (hi : i < 7) : bitAt (v &&& ~~~half1Bits 0x6000) i = bitAt v i := by
  have hb : (~~~half1Bits 0x6000).getLsbD i = true := by
    revert i
    decide
  rw [bitAt, BitVec.getLsbD_and, hb, Bool.and_true]

/-- Under FRUGAL RAS_CTL ignores FORCE1. -/
theorem writeRasCtl_half1 {x : Slice} (hf : frugal x.2 = true) (v : BitVec 32) :
    writeRasCtl v x = writeRasCtl (v &&& ~~~half1Bits 0x6000) x := by
  have hb := fun i (hi : i < 7) => bitAt_and_not_force1 v hi
  simp only [writeRasCtl, onMach, onRegs, forceSafe_frugal hf, hb 2 (by decide), hb 3 (by decide), hb 4 (by decide), hb 5 (by decide),
    hb 6 (by decide)]

theorem wordOff_alias {off : Nat} (h : 0x80000 ≤ off) : wordOff off = aliasWord off := if_neg (Nat.not_lt.mpr h)

/-- Settles O18: what is dead reads zero, is written in vain and wakes nothing; what is shared masks the bits of Half 1. -/
theorem deadHalfReadsZero : Obligations.DeadHalfReadsZero := by
  intro s hf
  refine ⟨?register, ?aliasRead, ?field, ?fieldAlias, ?sharedWrite, ?write, ?aliasWrite, ?indRead, ?indWrite, ?wakes, ?indWakes⟩
  case register =>
    intro off h hlo
    rw [regRead_register hlo, liveRead_half1 hf h]
  case aliasRead =>
    intro a ha h
    rw [regRead_alias ha, liveRead_half1 hf h]
    simp
  case field =>
    intro off hlo
    rw [regRead_register hlo, liveRead_and_half1Bits hf]
  case fieldAlias =>
    intro a ha hb
    rw [regRead_alias ha, liveRead_half1Bit hf s.regs hb]
    rfl
  case sharedWrite =>
    intro v x hx
    have hfx : frugal x.2 = true := hx ▸ hf
    simp only [applyWrite_pfCtl, applyWrite_rasCtl]
    exact ⟨writePf_half1 hfx v, writeRasCtl_half1 hfx v⟩
  case write =>
    intro c row a v q hc hr hq h
    rw [registerRow_exec hc]
    exact frontWrite_dead hq hr (deadRegister_half1 hf h)
  case aliasWrite =>
    intro a v q hq ha h
    have hd : deadRegister s.m (wordOff (offsetOf a)) = true := by
      rw [wordOff_alias ha]
      exact deadRegister_half1 hf h
    rw [aliasWrite_exec, frontWrite_dead hq (decide_eq_true ha) hd]
  case indRead =>
    intro a h
    exact if_pos (indDead_half1 hf h)
  case indWrite =>
    intro a v x hx h
    exact if_pos (indDead_half1 (hx ▸ hf) h)
  case wakes =>
    intro off h
    rw [neededHalves_half1 hf h]
    rfl
  case indWakes =>
    intro a h
    rw [indHalves_half1 hf h]
    rfl

end Sys2Proof.Machine
end

section
/-!
The block: what every command answers (O1 to O4), and the registers that every step keeps legal (O5, O6).
-/

namespace Sys2Proof.Machine

/-! ## The three kinds of commands -/

section Outcomes

variable {c : Instr} (s : State)

/-- A command of a partner keeps the registers, or faults. -/
theorem exec_fromPartner (h : fromPartner c = true) : keepsRegs s (exec c s) ∨ ∃ f, exec c s = .fault f := by
  cases c <;> try exact (Bool.false_ne_true h).elim
  case wdBeat p b => exact execWdBeat_outcome p b s
  case srsp p stxn had => exact execSrsp_outcome p stxn had s
  case msgCreditReturn k hc dc => exact execMsgCreditReturn_outcome k hc dc s
  all_goals exact reqBeat_outcome _ _ _ s

/-- A row of the register table answers a next state. -/
theorem exec_registerRow {row : Nat → BitVec 32 → Bool} (h : registerRow c = some row) : completes s (exec c s) := by
  rw [registerRow_exec h]
  exact frontWrite_completes row applyWrite s

/-- A command that may write a register is a row of the register table, or one of eight others. -/
theorem registerRow_of_writesRegs (h : writesRegs c = true) :
    (∃ row, registerRow c = some row) ∨ c = .aliasWrite ∨ c = .imageLoadEnd ∨ c = .powerOnReset ∨ c = .blockReset
      ∨ (∃ o, c = .journalStepEnd o) ∨ c = .indDataRead ∨ c = .indDataWrite ∨ c = .labelShadowCopy := by
  cases c <;> try exact (Bool.false_ne_true h).elim
  case aliasWrite | imageLoadEnd | powerOnReset | blockReset | journalStepEnd | indDataRead | indDataWrite | labelShadowCopy => simp
  all_goals exact .inl ⟨_, rfl⟩

/-- A command that may write a register answers a next state. -/
theorem exec_writesRegs (h : writesRegs c = true) : completes s (exec c s) := by
  obtain ⟨row, hr⟩ | rfl | rfl | rfl | rfl | ⟨o, rfl⟩ | rfl | rfl | rfl := registerRow_of_writesRegs h
  · exact exec_registerRow s hr
  · exact frontWrite_completes (fun off _ => decide (0x80000 ≤ off)) _ s
  · exact execImageLoadEnd_completes s
  · exact execPowerOnReset_completes s
  · exact execBlockReset_completes s
  · exact execJournalStepEnd_completes o s
  · exact execIndDataRead_completes s
  · exact execIndDataWrite_completes s
  · exact execLabelShadowCopy_completes s

/-- Any other command answers a next state with the same registers. -/
theorem exec_internal (hp : fromPartner c = false) (hw : writesRegs c = false) : keepsRegs s (exec c s) := by
  cases c <;> try first | exact (Bool.false_ne_true hp.symm).elim | exact (Bool.false_ne_true hw.symm).elim
  all_goals dsimp only [exec]
  case iNop | iMovi | iAddi | iAdd | iSub | iAnd | iOr | iXor | iShli | iShri | iMul | iLdp | iBeq | iBne | iBltu | iJmp | iSetc | iSetci
      | iLoop | iLd | iSt | iFence | iCadd | iCwait | iCread | iCrst | iDcopy | iDset | iIssue | iOpwait | iEnd =>
    exact instruction_keepsRegs _ _ _ _ _ s
  case snpf | srspf | xreq | xwb | xsnp | xrsp | reclaimNotice | reclaimAnswer => exact message_keepsRegs _ _ _ _ _ _ _ s
  case fwd x => exact execFwd_keepsRegs x s
  case cmpl x => exact execCmpl_keepsRegs x s
  case memReadResponse | memWriteResponse | memAtomicResponse => exact memResponse_keepsRegs _ _ _ s
  case hello | join | bye => exact helloCommand_keepsRegs _ _ s
  case ldComplete | programReqComplete => exact seqComplete_keepsRegs _ _ _ s
  case stopIdleExpiry | stopTailExpiry | retEntry | demandSample | ckackRise | packTimeout => exact powerEvent_keepsRegs _ _ _ s
  case tsProbeRequest | tsProbeReply => exact probeCommand_keepsRegs _ _ s
  case mgmtWrite a v k => exact execMgmtWrite_keepsRegs a v k s
  case mgmtRead a => exact execMgmtRead_keepsRegs a s
  case clockStartDone h => exact execClockStartDone_keepsRegs h s
  case journalStart st => exact execJournalStart_keepsRegs st s
  case mailboxCaptureDone => exact execMailboxCaptureDone_keepsRegs s
  case profilingCycle h => exact execProfilingCycle_keepsRegs h s
  case syncPulse | traceCaptureEnd | timestampTick => exact ⟨_, rfl⟩
  all_goals exact run_keepsRegs _ s

end Outcomes

/-- A next state of a command that is no register write has the registers as they were. -/
theorem exec_regs {c : Instr} {s t : State} (hw : writesRegs c = false) (h : exec c s = .next t) : t.regs = s.regs := by
  have keeps {o} (k : keepsRegs s o) (e : o = .next t) : t.regs = s.regs := by
    obtain ⟨m, rfl⟩ := k
    cases e
    rfl
  cases hp : fromPartner c with
  | false => exact keeps (exec_internal s hp hw) h
  | true =>
    obtain k | ⟨f, hf⟩ := exec_fromPartner s hp
    · exact keeps k h
    · rw [hf] at h
      cases h

/-- A command that is no beat and no credits of a partner answers a next state. -/
theorem exec_completes {c : Instr} (s : State) (hp : fromPartner c = false) : completes s (exec c s) := by
  cases hw : writesRegs c with
  | false => exact (exec_internal s hp hw).completes
  | true => exact exec_writesRegs s hw

/-- A command answers a next state with the same queue, or faults. -/
theorem exec_completes_or_faults (c : Instr) (s : State) : completes s (exec c s) ∨ ∃ f, exec c s = .fault f := by
  cases hp : fromPartner c with
  | false => exact .inl (exec_completes s hp)
  | true => exact (exec_fromPartner s hp).imp_left keepsRegs.completes

/-- Settles O3, by the three kinds of commands. -/
theorem commandsEnd : Obligations.CommandsEnd := by
  refine ⟨fun c s r h => ?_, fun c s hp => ?_⟩
  · obtain ⟨g, m, k⟩ | ⟨f, k⟩ := exec_completes_or_faults c s <;> rw [k] at h <;> cases h
  · obtain ⟨g, m, k⟩ := exec_completes s hp
    exact ⟨_, k⟩

/-- Settles O4, by the three kinds of commands. -/
theorem commandsKeepQueueAndRegisters : Obligations.CommandsKeepQueueAndRegisters := by
  refine ⟨fun c s t h => ?_, fun c s t hw h => exec_regs hw h⟩
  obtain ⟨g, m, k⟩ | ⟨f, k⟩ := exec_completes_or_faults c s <;> rw [k] at h <;> cases h
  rfl

/-! ## Legal registers -/

/-- A command keeps the registers legal, where a load that ends has an image in range. -/
theorem exec_legal {c : Instr} {s : State} (l : LegalRegs s.regs)
    (hi : c = .imageLoadEnd → ∀ ld, s.m.img.load = some ld → ld.await = 0 → ImageInRange (stagedLines s.m ld.lines)) :
    keepsLegal (exec c s) := by
  cases hw : writesRegs c with
  | false =>
    intro t h
    rw [exec_regs hw h]
    exact l
  | true =>
    obtain ⟨row, hr⟩ | rfl | rfl | rfl | rfl | ⟨o, rfl⟩ | rfl | rfl | rfl := registerRow_of_writesRegs hw
    · rw [registerRow_exec hr]
      exact frontWrite_legal (fun off v x lx => applyWrite_legal lx off v) l
    · exact execAliasWrite_legal l
    · exact execImageLoadEnd_legal l (hi rfl)
    · exact execPowerOnReset_legal s
    · exact execBlockReset_legal l
    · exact execJournalStepEnd_legal o l
    · exact execIndDataRead_legal l
    · exact execIndDataWrite_legal l
    · exact execLabelShadowCopy_legal l

/-- Settles O5: an idle step changes nothing, any other is `exec_legal`. -/
theorem everyStepKeepsTheRegistersLegal : Obligations.EveryStepKeepsTheRegistersLegal := by
  intro s t l hi h
  unfold step at h
  split at h
  next =>
    cases h
    exact l
  next c rest hp =>
    exact exec_legal (s := { s with pending := rest }) l (fun hc ld => hi ld rest (hc ▸ hp)) t h

/-- Settles O6. -/
theorem resetRegistersAreLegal : Obligations.ResetRegistersAreLegal := resetRegs_legal

/-- Settles O1. -/
theorem stepRunsTheFrontCommand : Obligations.StepRunsTheFrontCommand := by
  intro c rest s h
  simp only [step, h]

/-- Settles O2. -/
theorem stepIdlesOnAnEmptyQueue : Obligations.StepIdlesOnAnEmptyQueue := by
  intro s h
  simp only [step, h]

/-- Settles O16: `registerRow_exec` gives the row its meaning, and `frontWrite_takes` the write its effect. -/
theorem registerWriteIsApplied : Obligations.RegisterWriteIsApplied := by
  intro c row off v s hc hr hw
  rw [registerRow_exec hc, frontWrite_takes hr hw]

end Sys2Proof.Machine
end

section
/-!
The tree of a reduction (R340 to R342): its nodes by level and place, what a sector stores on the way, and the root whatever the order of
arrival (O33).
-/

namespace Sys2Proof.Machine

/-! ## The nodes of the tree -/

/-- Nodes on level `d` of the tree over `n` leaves. -/
def treeCount (n : Nat) : Nat → Nat
  | 0 => n
  | d + 1 => (treeCount n d + 1) / 2

/-- The node at place `p` of level `d`. -/
def treeNode (comb : List Partial → List Partial → List Partial) (n : Nat) (leaf : Nat → List Partial) : Nat → Nat → List Partial
  | 0, p => leaf p
  | d + 1, p => if 2 * p + 1 < treeCount n d then comb (treeNode comb n leaf d (2 * p)) (treeNode comb n leaf d (2 * p + 1))
      else treeNode comb n leaf d (2 * p)

variable {comb : List Partial → List Partial → List Partial} {n : Nat} {leaf : Nat → List Partial}

theorem div_pow_succ (i d : Nat) : i / 2 ^ (d + 1) = i / 2 ^ d / 2 := by rw [Nat.pow_succ, Nat.div_div_eq_div_mul]

/-- The ancestor of a leaf is a node of its level. -/
theorem ancestor_lt_treeCount {i : Nat} (hi : i < n) (d : Nat) : i / 2 ^ d < treeCount n d := by
  induction d with
  | zero => simpa [treeCount] using hi
  | succ d ih =>
    rw [div_pow_succ, treeCount]
    omega

/-- The first leaf of a node exists. -/
theorem firstLeaf_lt {d p : Nat} (h : p < treeCount n d) : p * 2 ^ d < n := by
  induction d generalizing p with
  | zero => simpa [treeCount] using h
  | succ d ih =>
    have := ih (p := 2 * p) (by simp only [treeCount] at h; omega)
    rwa [Nat.pow_succ, ← Nat.mul_assoc, Nat.mul_right_comm, Nat.mul_comm p 2]

theorem treeCount_pos (hn : 0 < n) (d : Nat) : 0 < treeCount n d := Nat.lt_of_le_of_lt (Nat.zero_le _) (ancestor_lt_treeCount hn d)

/-- Above a node that is alone on its level the tree repeats it. -/
theorem treeNode_alone {d : Nat} (h : treeCount n d ≤ 1) (e : Nat) :
    treeCount n (d + e) ≤ 1 ∧ treeNode comb n leaf (d + e) 0 = treeNode comb n leaf d 0 := by
  induction e with
  | zero => exact ⟨h, rfl⟩
  | succ e ih =>
    obtain ⟨hc, hv⟩ := ih
    refine ⟨by rw [← Nat.add_assoc, treeCount]; omega, ?_⟩
    rw [← Nat.add_assoc, treeNode, if_neg (by omega)]
    exact hv

/-- The root is the same on every level that it is alone on. -/
theorem treeNode_root {d e : Nat} (hd : treeCount n d ≤ 1) (he : treeCount n e ≤ 1) :
    treeNode comb n leaf d 0 = treeNode comb n leaf e 0 := by
  obtain h | h := Nat.le_total d e
  · obtain ⟨k, rfl⟩ := Nat.exists_eq_add_of_le h
    exact (treeNode_alone hd k).2.symm
  · obtain ⟨k, rfl⟩ := Nat.exists_eq_add_of_le h
    exact (treeNode_alone he k).2

theorem treeCount_eight (hn : n ≤ 256) : treeCount n 8 ≤ 1 := by
  simp only [treeCount]
  omega

/-- A level of the tree of R340 from the one below. -/
theorem treeLevel_range (comb : List Partial → List Partial → List Partial) (c : Nat) (f : Nat → List Partial) :
    treeLevel comb ((List.range c).map f)
      = (List.range ((c + 1) / 2)).map fun p => if 2 * p + 1 < c then comb (f (2 * p)) (f (2 * p + 1)) else f (2 * p) := by
  induction c using Nat.strongRecOn generalizing f with
  | _ c ih =>
    match c with
    | 0 => rfl
    | 1 => rfl
    | c + 2 =>
      have e : (c + 2 + 1) / 2 = (c + 1) / 2 + 1 := by omega
      rw [e, List.range_succ_eq_map, List.range_succ_eq_map, List.range_succ_eq_map (n := (c + 1) / 2)]
      simp only [List.map_cons, List.map_map, treeLevel]
      refine congrArg₂ List.cons (by simp) ?_
      have := ih c (by omega) (fun i => f (i + 2))
      simp only [Function.comp_def]
      rw [this]
      refine List.map_congr_left fun p _ => ?_
      simp only [Nat.succ_eq_add_one, show 2 * (p + 1) + 1 < c + 2 ↔ 2 * p + 1 < c by omega]
      rfl

theorem treeUp_range (d e : Nat) :
    treeUp comb d ((List.range (treeCount n e)).map (treeNode comb n leaf e))
      = (List.range (treeCount n (e + d))).map (treeNode comb n leaf (e + d)) := by
  induction d generalizing e with
  | zero => rfl
  | succ d ih =>
    rw [treeUp, treeLevel_range]
    have := ih (e + 1)
    rw [show e + (d + 1) = e + 1 + d by omega, ← this]
    rfl

/-- Eight levels up the tree over at most 256 leaves is its root. -/
theorem treeUp_root (hn : 0 < n) (hn' : n ≤ 256) : treeUp comb 8 ((List.range n).map leaf) = [treeNode comb n leaf 8 0] := by
  have h := treeUp_range (comb := comb) (n := n) (leaf := leaf) 8 0
  have h8 : treeCount n 8 = 1 := Nat.le_antisymm (treeCount_eight hn') (treeCount_pos hn 8)
  rw [Nat.zero_add, h8] at h
  exact h

/-! ## The nodes that a sector stores -/

/-- Every leaf below the node has arrived. -/
def Whole (n d p : Nat) (a : List Nat) : Prop := ∀ i < n, i / 2 ^ d = p → i ∈ a

/-- The neighbour with which a node combines. -/
def sibling (p : Nat) : Nat := if p % 2 == 0 then p + 1 else p - 1

/-- A node that is whole and waits for its sibling, which is not. -/
structure Waits (comb : List Partial → List Partial → List Partial) (n : Nat) (leaf : Nat → List Partial) (a : List Nat) (x : Node) : Prop where
  whole   : Whole n x.level x.pos a
  node    : x.pos < treeCount n x.level
  sib     : sibling x.pos < treeCount n x.level
  lacking : ¬ Whole n x.level (sibling x.pos) a
  vals    : x.vals = treeNode comb n leaf x.level x.pos

theorem sibling_cases (p : Nat) : (p % 2 = 0 ∧ sibling p = p + 1) ∨ (p % 2 = 1 ∧ sibling p = p - 1) := by
  unfold sibling
  rcases Nat.mod_two_eq_zero_or_one p with h | h <;> simp [h]

theorem sibling_ne (p : Nat) : sibling p ≠ p := by
  have := sibling_cases p
  omega

theorem sibling_sibling (p : Nat) : sibling (sibling p) = p := by
  have := sibling_cases p
  have := sibling_cases (sibling p)
  omega

theorem sibling_half (p : Nat) : sibling p / 2 = p / 2 := by
  have := sibling_cases p
  omega

/-- Places with the same parent are the same or siblings. -/
theorem eq_or_sibling {p q : Nat} (h : q / 2 = p / 2) : q = p ∨ q = sibling p := by
  have := sibling_cases p
  omega

/-- A node is whole when its children are. -/
theorem whole_succ {d p : Nat} {a : List Nat} : Whole n (d + 1) (p / 2) a ↔ Whole n d p a ∧ Whole n d (sibling p) a := by
  constructor
  · intro h
    refine ⟨fun i hi e => h i hi ?_, fun i hi e => h i hi ?_⟩
    · rw [div_pow_succ, e]
    · rw [div_pow_succ, e, sibling_half]
  · rintro ⟨h, h'⟩ i hi e
    rw [div_pow_succ] at e
    obtain e | e := eq_or_sibling e
    · exact h i hi e
    · exact h' i hi e

/-- Nodes below a whole node are whole. -/
theorem Whole.below {d p : Nat} {a : List Nat} (e : Nat) (h : Whole n (d + e) (p / 2 ^ e) a) : Whole n d p a := by
  intro i hi hp
  refine h i hi ?_
  rw [Nat.pow_add, ← Nat.div_div_eq_div_mul, hp]

/-- No node waits below a whole node. -/
theorem Waits.not_below {a : List Nat} {x : Node} (h : Waits comb n leaf a x) {e : Nat} (he : e ≠ 0)
    (hw : Whole n (x.level + e) (x.pos / 2 ^ e) a) : False := by
  obtain ⟨e, rfl⟩ := Nat.exists_eq_succ_of_ne_zero he
  refine h.lacking (Whole.below e ?_)
  rw [Nat.succ_eq_add_one, Nat.pow_succ, Nat.mul_comm, ← Nat.div_div_eq_div_mul, ← sibling_half, Nat.div_div_eq_div_mul, Nat.mul_comm,
    ← Nat.pow_succ, ← Nat.add_assoc, div_pow_succ] at hw
  exact (whole_succ.mp hw).1

/-! ## The walk of a contribution -/

section Walk

variable {a a' : List Nat} {i : Nat}

/-- An arrival below another node does not matter to a node. -/
theorem whole_arrive_ne (ha : ∀ j, j ∈ a' ↔ j ∈ a ∨ j = i) {d p : Nat} (hp : i / 2 ^ d ≠ p) : Whole n d p a' ↔ Whole n d p a := by
  constructor <;> intro h j hj e
  · exact ((ha j).mp (h j hj e)).resolve_right fun ej => hp (ej ▸ e)
  · exact (ha j).mpr (.inl (h j hj e))

/-- What waits on a level keeps waiting, but for the sibling of the leaf's ancestor; the ancestor comes to wait where its sibling lacks. -/
theorem waits_arrive (ha : ∀ j, j ∈ a' ↔ j ∈ a ∨ j = i) (hi : i < n) (hia : i ∉ a) (x : Node)
    (hx : Whole n x.level (i / 2 ^ x.level) a') :
    Waits comb n leaf a' x ↔ (Waits comb n leaf a x ∧ x.pos ≠ sibling (i / 2 ^ x.level))
      ∨ (x.pos = i / 2 ^ x.level ∧ sibling x.pos < treeCount n x.level ∧ ¬ Whole n x.level (sibling x.pos) a
          ∧ x.vals = treeNode comb n leaf x.level x.pos) := by
  have hnot : ¬ Whole n x.level (i / 2 ^ x.level) a := fun h => hia (h i hi rfl)
  by_cases hp : x.pos = i / 2 ^ x.level
  · have hs : Whole n x.level (sibling x.pos) a' ↔ Whole n x.level (sibling x.pos) a :=
      whole_arrive_ne ha (by rw [← hp]; exact (sibling_ne _).symm)
    constructor
    · rintro ⟨_, _, hsib, hl, hv⟩
      exact .inr ⟨hp, hsib, fun h => hl (hs.mpr h), hv⟩
    · rintro (⟨h, _⟩ | ⟨_, hsib, hl, hv⟩)
      · exact (hnot (hp ▸ h.whole)).elim
      · exact ⟨hp ▸ hx, hp ▸ ancestor_lt_treeCount hi _, hsib, fun h => hl (hs.mp h), hv⟩
  · have hw : Whole n x.level x.pos a' ↔ Whole n x.level x.pos a := whole_arrive_ne ha (Ne.symm hp)
    by_cases hps : x.pos = sibling (i / 2 ^ x.level)
    · refine iff_of_false (fun h => h.lacking ?_) (by rintro (⟨_, h⟩ | ⟨h, _⟩) <;> contradiction)
      rw [hps, sibling_sibling]
      exact hx
    · have hs : Whole n x.level (sibling x.pos) a' ↔ Whole n x.level (sibling x.pos) a :=
        whole_arrive_ne ha fun h => hps (by rw [h, sibling_sibling])
      constructor
      · rintro ⟨h1, h2, h3, h4, h5⟩
        exact .inl ⟨⟨hw.mp h1, h2, h3, fun h => h4 (hs.mpr h), h5⟩, hps⟩
      · rintro (⟨⟨h1, h2, h3, h4, h5⟩, _⟩ | ⟨h, _⟩)
        · exact ⟨hw.mpr h1, h2, h3, fun h => h4 (hs.mp h), h5⟩
        · contradiction

/-- Above an ancestor that is not whole nothing changes. -/
theorem waits_arrive_above (ha : ∀ j, j ∈ a' ↔ j ∈ a ∨ j = i) (hi : i < n) (hia : i ∉ a) {d : Nat}
    (hd : ¬ Whole n d (i / 2 ^ d) a') (x : Node) (hx : d ≤ x.level) : Waits comb n leaf a' x ↔ Waits comb n leaf a x := by
  have hw : ∀ p, Whole n x.level p a' ↔ Whole n x.level p a := by
    intro p
    by_cases hp : i / 2 ^ x.level = p
    · subst hp
      refine iff_of_false (fun h => hd ?_) (fun h => hia (h i hi rfl))
      obtain ⟨e, he⟩ := Nat.exists_eq_add_of_le hx
      rw [he, Nat.pow_add, ← Nat.div_div_eq_div_mul] at h
      exact Whole.below e h
    · exact whole_arrive_ne ha hp
  constructor <;> rintro ⟨h1, h2, h3, h4, h5⟩
  · exact ⟨(hw _).mp h1, h2, h3, fun h => h4 ((hw _).mpr h), h5⟩
  · exact ⟨(hw _).mpr h1, h2, h3, fun h => h4 ((hw _).mp h), h5⟩

/-- At a node alone on its level the walk has the root. -/
theorem walkUp_alone {op fmt fuel d c p : Nat} {v : List Partial} {ns : List Node} (h : c ≤ 1) :
    walkUp op fmt (fuel + 1) d c p v ns = (ns, some v) := if_pos h

/-- A node without a sibling passes. -/
theorem walkUp_passes {op fmt fuel d c p : Nat} {v : List Partial} {ns : List Node} (h : ¬ c ≤ 1) (hs : c ≤ sibling p) :
    walkUp op fmt (fuel + 1) d c p v ns = walkUp op fmt fuel (d + 1) ((c + 1) / 2) (p / 2) v ns :=
  (if_neg h).trans (if_pos hs)

/-- A node whose sibling is not stored is stored. -/
theorem walkUp_stores {op fmt fuel d c p : Nat} {v : List Partial} {ns : List Node} (h : ¬ c ≤ 1) (hs : ¬ c ≤ sibling p)
    (hf : (ns.find? fun x => x.level == d && x.pos == sibling p) = none) :
    walkUp op fmt (fuel + 1) d c p v ns = (ns ++ [⟨d, p, v⟩], none) := by
  refine (if_neg h).trans ((if_neg hs).trans ?_)
  unfold sibling at hf
  rw [hf]

/-- A node whose sibling is stored combines with it, the one of the lower place first. -/
theorem walkUp_joins {op fmt fuel d c p : Nat} {v : List Partial} {ns : List Node} {y : Node} (h : ¬ c ≤ 1) (hs : ¬ c ≤ sibling p)
    (hf : (ns.find? fun x => x.level == d && x.pos == sibling p) = some y) :
    walkUp op fmt (fuel + 1) d c p v ns = walkUp op fmt fuel (d + 1) ((c + 1) / 2) (p / 2)
      (if p % 2 == 0 then List.zipWith (combine op fmt) v y.vals else List.zipWith (combine op fmt) y.vals v) (ns.erase y) := by
  refine (if_neg h).trans ((if_neg hs).trans ?_)
  unfold sibling at hf
  rw [hf]

/-- The parent of a node without a sibling repeats it. -/
theorem treeNode_parent_single {d p : Nat} (hp : p < treeCount n d) (hs : treeCount n d ≤ sibling p) :
    treeNode comb n leaf (d + 1) (p / 2) = treeNode comb n leaf d p := by
  have := sibling_cases p
  have e : 2 * (p / 2) = p := by omega
  rw [treeNode, if_neg (by omega), e]

/-- The parent of two nodes combines them, the lower place first. -/
theorem treeNode_parent {d p : Nat} (hp : p < treeCount n d) (hs : sibling p < treeCount n d) :
    treeNode comb n leaf (d + 1) (p / 2) = if p % 2 == 0 then comb (treeNode comb n leaf d p) (treeNode comb n leaf d (sibling p))
      else comb (treeNode comb n leaf d (sibling p)) (treeNode comb n leaf d p) := by
  obtain ⟨h, e⟩ | ⟨h, e⟩ := sibling_cases p
  · rw [treeNode, if_pos (by omega), if_pos (by simpa using h), e, show 2 * (p / 2) = p by omega]
  · rw [treeNode, if_pos (by omega), if_neg (by simp [h]), e, show 2 * (p / 2) + 1 = p by omega, show 2 * (p / 2) = p - 1 by omega]

/-- The stored nodes while a walk stands at level `d`: below it what waits after the arrival, from it on what waited before. -/
structure WalkStore (comb : List Partial → List Partial → List Partial) (n : Nat) (leaf : Nat → List Partial) (a a' : List Nat) (d : Nat)
    (ns : List Node) : Prop where
  nodup : ns.Nodup
  below : ∀ x : Node, x.level < d → (x ∈ ns ↔ Waits comb n leaf a' x)
  above : ∀ x : Node, d ≤ x.level → (x ∈ ns ↔ Waits comb n leaf a x)

/-- What a walk leaves: the nodes that wait, and the root where every leaf has arrived. -/
structure WalkEnd (comb : List Partial → List Partial → List Partial) (n : Nat) (leaf : Nat → List Partial) (a : List Nat)
    (r : List Node × Option (List Partial)) : Prop where
  nodup : r.1.Nodup
  nodes : ∀ x, x ∈ r.1 ↔ Waits comb n leaf a x
  root  : (r.2 = some (treeNode comb n leaf 8 0) ∧ ∀ j < n, j ∈ a) ∨ (r.2 = none ∧ ∃ j < n, j ∉ a)

theorem not_waits_alone {x : Node} {d : Nat} (hd : treeCount n d ≤ 1) (hx : d ≤ x.level) : ¬ Waits comb n leaf a x := by
  intro h
  obtain ⟨e, he⟩ := Nat.exists_eq_add_of_le hx
  have := (treeNode_alone (comb := comb) (leaf := leaf) hd e).1
  have h1 := h.node
  have h2 := h.sib
  have := sibling_ne x.pos
  rw [he] at h1 h2
  omega

theorem Waits.ext {x y : Node} (hx : Waits comb n leaf a x) (hy : Waits comb n leaf a y) (hl : x.level = y.level) (hp : x.pos = y.pos) :
    x = y := by
  obtain ⟨l, p, v⟩ := x
  obtain ⟨l', p', v'⟩ := y
  have h1 := hx.vals
  have h2 := hy.vals
  simp only at hl hp h1 h2
  subst hl hp
  rw [h1, h2]

section Level

variable {d p : Nat} {ns : List Node} (ha : ∀ j, j ∈ a' ↔ j ∈ a ∨ j = i) (hi : i < n) (hia : i ∉ a) (hp : i / 2 ^ d = p)
  (hw : Whole n d p a') (hs : WalkStore comb n leaf a a' d ns)

include ha hi hia hp hw in
/-- `waits_arrive` on the level of the walk. -/
theorem waits_arrive_level {x : Node} (hx : x.level = d) :
    Waits comb n leaf a' x ↔ (Waits comb n leaf a x ∧ x.pos ≠ sibling p)
      ∨ (x.pos = p ∧ sibling x.pos < treeCount n d ∧ ¬ Whole n d (sibling x.pos) a ∧ x.vals = treeNode comb n leaf d x.pos) := by
  have h := waits_arrive (comb := comb) (leaf := leaf) ha hi hia x (by rw [hx, hp]; exact hw)
  rwa [hx, hp] at h

include hw hs in
/-- The walk ends at a node alone on its level. -/
theorem walkEnd_alone (hn : n ≤ 256) (h : treeCount n d ≤ 1) (hlt : p < treeCount n d) :
    WalkEnd comb n leaf a' (ns, some (treeNode comb n leaf d p)) := by
  obtain rfl : p = 0 := by omega
  refine ⟨hs.nodup, fun x => ?_, .inl ⟨by rw [treeNode_root h (treeCount_eight hn)], fun j hj => hw j hj ?_⟩⟩
  · by_cases hx : x.level < d
    · exact hs.below x hx
    · have hx := Nat.le_of_not_lt hx
      exact (hs.above x hx).trans (iff_of_false (not_waits_alone h hx) (not_waits_alone h hx))
  · exact Nat.lt_one_iff.mp (Nat.lt_of_lt_of_le (ancestor_lt_treeCount hj d) h)

include ha hi hia hp hw hs in
/-- The walk passes a node without a sibling. -/
theorem walkStore_passes (h : treeCount n d ≤ sibling p) : WalkStore comb n leaf a a' (d + 1) ns := by
  refine ⟨hs.nodup, fun x hx => ?_, fun x hx => hs.above x (by omega)⟩
  obtain hx | hx := Nat.lt_or_eq_of_le (Nat.le_of_lt_succ hx)
  · exact hs.below x hx
  · rw [hs.above x (by omega), waits_arrive_level ha hi hia hp hw hx]
    constructor
    · intro hx'
      exact .inl ⟨hx', fun e => by have := hx'.node; rw [hx] at this; omega⟩
    · rintro (⟨hx', -⟩ | ⟨e, hx', -⟩)
      · exact hx'
      · rw [e] at hx'; omega

include hs in
/-- A sibling that is not stored is not whole. -/
theorem sibling_lacks (hnot : ¬ Whole n d p a) (hlt : p < treeCount n d) (h : sibling p < treeCount n d)
    (hf : (ns.find? fun x => x.level == d && x.pos == sibling p) = none) : ¬ Whole n d (sibling p) a := by
  intro hwhole
  have hmem : (⟨d, sibling p, treeNode comb n leaf d (sibling p)⟩ : Node) ∈ ns :=
    (hs.above _ (Nat.le_refl d)).mpr ⟨hwhole, h, by rw [sibling_sibling]; exact hlt, by rw [sibling_sibling]; exact hnot, rfl⟩
  simpa using List.find?_eq_none.mp hf _ hmem

include ha hi hia hp hw hs in
/-- The walk ends at a node whose sibling is not whole, and stores it. -/
theorem walkEnd_stores (h : sibling p < treeCount n d) (hl : ¬ Whole n d (sibling p) a) :
    WalkEnd comb n leaf a' (ns ++ [⟨d, p, treeNode comb n leaf d p⟩], none) := by
  have hnot : ¬ Whole n d p a := fun h => hia (h i hi hp)
  have hl' : ¬ Whole n d (sibling p) a' := by
    rw [whole_arrive_ne ha (by rw [hp]; exact (sibling_ne p).symm)]
    exact hl
  refine ⟨?_, fun x => ?_, .inr ⟨rfl, ?_⟩⟩
  · refine List.nodup_append.mpr ⟨hs.nodup, List.nodup_singleton _, ?_⟩
    rintro x hx y hy rfl
    obtain rfl := List.mem_singleton.mp hy
    exact hnot ((hs.above _ (Nat.le_refl d)).mp hx).whole
  · rw [List.mem_append, List.mem_singleton]
    have hnew (hx : x.level ≠ d) : x ≠ ⟨d, p, treeNode comb n leaf d p⟩ := fun e => hx (by rw [e])
    obtain hx | hx | hx := Nat.lt_trichotomy x.level d
    · rw [hs.below x hx]
      exact or_iff_left (hnew (Nat.ne_of_lt hx))
    · rw [hs.above x (by omega), waits_arrive_level ha hi hia hp hw hx]
      refine or_congr ⟨fun hx' => ⟨hx', fun e => hl ?_⟩, And.left⟩ ⟨?_, ?_⟩
      · have := hx'.whole
        rwa [hx, e] at this
      · rintro rfl
        exact ⟨rfl, h, hl, rfl⟩
      · rintro ⟨e, -, -, hv⟩
        obtain ⟨l, q, v⟩ := x
        simp only at hx e hv
        rw [hx, e, hv, e]
    · rw [hs.above x (by omega), waits_arrive_above ha hi hia (d := d + 1) (fun hup => hl' ?_) x hx]
      · exact or_iff_left (hnew (Nat.ne_of_gt hx))
      · rw [div_pow_succ, hp] at hup
        exact (whole_succ.mp hup).2
  · by_contra hall
    push Not at hall
    exact hl' fun j hj _ => hall j hj

include ha hi hia hp hw hs in
/-- The walk goes on behind a sibling that was stored. -/
theorem walkStore_joins {y : Node} (hm : y ∈ ns) (hyl : y.level = d) (hyp : y.pos = sibling p) :
    WalkStore comb n leaf a a' (d + 1) (ns.erase y) := by
  have hyw := (hs.above y (by omega)).mp hm
  refine ⟨hs.nodup.erase y, fun x hx => ?_, fun x hx => ?_⟩ <;> rw [hs.nodup.mem_erase_iff]
  · obtain hx | hx := Nat.lt_or_eq_of_le (Nat.le_of_lt_succ hx)
    · rw [hs.below x hx]
      exact and_iff_right fun e => by rw [e, hyl] at hx; exact Nat.lt_irrefl _ hx
    · rw [hs.above x (by omega), waits_arrive_level ha hi hia hp hw hx]
      constructor
      · rintro ⟨hne, hx'⟩
        exact .inl ⟨hx', fun e => hne (hx'.ext hyw (hx.trans hyl.symm) (e.trans hyp.symm))⟩
      · rintro (⟨hx', hne⟩ | ⟨e, -, hl, -⟩)
        · exact ⟨fun e => hne (by rw [e, hyp]), hx'⟩
        · have := hyw.whole
          rw [hyl, hyp, ← e] at this
          exact (hl this).elim
  · rw [hs.above x (by omega)]
    exact and_iff_right fun e => by rw [e, hyl] at hx; omega

end Level

/-- The walk upward from the ancestor of the leaf that has just arrived. -/
theorem walkUp_end {op fmt : Nat} (hc : comb = List.zipWith (combine op fmt)) (hn : n ≤ 256) (ha : ∀ j, j ∈ a' ↔ j ∈ a ∨ j = i) (hi : i < n)
    (hia : i ∉ a) (fuel d p : Nat) (hp : i / 2 ^ d = p) (ns : List Node) (hf : 2 * treeCount n d ≤ 2 ^ fuel) (hw : Whole n d p a')
    (hs : WalkStore comb n leaf a a' d ns) :
    WalkEnd comb n leaf a' (walkUp op fmt fuel d (treeCount n d) p (treeNode comb n leaf d p) ns) := by
  have hlt : p < treeCount n d := hp ▸ ancestor_lt_treeCount hi d
  induction fuel generalizing d p ns with
  | zero => omega
  | succ fuel ih =>
    by_cases h1 : treeCount n d ≤ 1
    · rw [walkUp_alone h1]
      exact walkEnd_alone hw hs hn h1 hlt
    · have hf' : 2 * treeCount n (d + 1) ≤ 2 ^ fuel := by
        rw [treeCount]
        cases fuel with
        | zero => omega
        | succ f => rw [Nat.pow_succ] at hf ⊢; omega
      have hp' : i / 2 ^ (d + 1) = p / 2 := by rw [div_pow_succ, hp]
      have hlt' : p / 2 < treeCount n (d + 1) := hp' ▸ ancestor_lt_treeCount hi (d + 1)
      by_cases h2 : treeCount n d ≤ sibling p
      · have hw' : Whole n (d + 1) (p / 2) a' :=
          whole_succ.mpr ⟨hw, fun j hj e => absurd (ancestor_lt_treeCount hj d) (by rw [e]; omega)⟩
        rw [walkUp_passes h1 h2, ← treeNode_parent_single hlt h2]
        exact ih (d + 1) (p / 2) hp' ns hf' hw' (walkStore_passes ha hi hia hp hw hs h2) hlt'
      · have hsib := Nat.lt_of_not_le h2
        cases hfind : ns.find? fun x => x.level == d && x.pos == sibling p with
        | none =>
          rw [walkUp_stores h1 h2 hfind]
          exact walkEnd_stores ha hi hia hp hw hs hsib (sibling_lacks hs (fun h => hia (h i hi hp)) hlt hsib hfind)
        | some y =>
          obtain ⟨hm, hyl, hyp⟩ : y ∈ ns ∧ y.level = d ∧ y.pos = sibling p :=
            ⟨List.mem_of_find?_eq_some hfind, by simpa using List.find?_some hfind⟩
          have hyw := (hs.above y (by omega)).mp hm
          have hw' : Whole n (d + 1) (p / 2) a' := by
            refine whole_succ.mpr ⟨hw, fun j hj e => (ha j).mpr (.inl (hyw.whole j hj ?_))⟩
            rw [hyl, hyp, e]
          rw [walkUp_joins h1 h2 hfind, show y.vals = treeNode comb n leaf d (sibling p) by rw [hyw.vals, hyl, hyp], ← hc,
            ← treeNode_parent hlt hsib]
          exact ih (d + 1) (p / 2) hp' (ns.erase y) hf' hw' (walkStore_joins ha hi hia hp hw hs hm hyl hyp) hlt'

end Walk

/-! ## How many nodes wait -/

/-- The pair of leaves that a waiting node is counted by: the first below it. -/
def pairOf (x : Node) : Nat := x.pos * 2 ^ x.level / 2

theorem pairOf_lt {a : List Nat} {x : Node} (h : Waits comb n leaf a x) : pairOf x < (n + 1) / 2 := by
  have := firstLeaf_lt h.node
  unfold pairOf
  omega

theorem pairOf_zero {x : Node} (h : x.level = 0) : pairOf x = x.pos / 2 := by simp [pairOf, h]

theorem pairOf_succ {x : Node} {l : Nat} (h : x.level = l + 1) : pairOf x = x.pos * 2 ^ l := by
  rw [pairOf, h, Nat.pow_succ, ← Nat.mul_assoc, Nat.mul_div_cancel _ Nat.two_pos]

/-- A waiting node on a level is not above another one that is counted by the same pair. -/
theorem not_above_of_pairOf {a : List Nat} {x y : Node} (hx : Waits comb n leaf a x) (hy : Waits comb n leaf a y) (h : pairOf x = pairOf y)
    (hl : x.level < y.level) : False := by
  obtain ⟨e, he⟩ := Nat.exists_eq_add_of_lt hl
  have hpos : x.pos / 2 ^ (e + 1) = y.pos := by
    rw [pairOf_succ he] at h
    rw [Nat.pow_succ', ← Nat.div_div_eq_div_mul]
    cases hx0 : x.level with
    | zero =>
      rw [pairOf_zero hx0, hx0, Nat.zero_add] at h
      rw [h, Nat.mul_div_cancel _ (Nat.two_pow_pos e)]
    | succ l =>
      rw [pairOf_succ hx0, hx0, Nat.add_right_comm, Nat.add_assoc, Nat.pow_add, Nat.mul_left_comm, Nat.mul_comm] at h
      have h := Nat.eq_of_mul_eq_mul_left (Nat.two_pow_pos l) h
      rw [h, Nat.pow_succ, ← Nat.mul_assoc, Nat.mul_div_cancel _ Nat.two_pos, Nat.mul_div_cancel _ (Nat.two_pow_pos e)]
  refine hx.not_below (e := e + 1) (Nat.succ_ne_zero e) ?_
  rw [hpos, ← Nat.add_assoc, ← he]
  exact hy.whole

/-- Waiting nodes that are counted by the same pair are the same. -/
theorem pairOf_injective {a : List Nat} {x y : Node} (hx : Waits comb n leaf a x) (hy : Waits comb n leaf a y) (h : pairOf x = pairOf y) :
    x = y := by
  obtain hl | hl | hl := Nat.lt_trichotomy x.level y.level
  · exact (not_above_of_pairOf hx hy h hl).elim
  · refine hx.ext hy hl ?_
    cases hx0 : x.level with
    | zero =>
      have hy0 := hl.symm.trans hx0
      rw [pairOf_zero hx0, pairOf_zero hy0] at h
      obtain e | e := eq_or_sibling h
      · exact e
      · refine (hy.lacking ?_).elim
        rw [← e, ← hl]
        exact hx.whole
    | succ l =>
      rw [pairOf_succ hx0, pairOf_succ (hl.symm.trans hx0)] at h
      exact Nat.eq_of_mul_eq_mul_right (Nat.two_pow_pos l) h
  · exact (not_above_of_pairOf hy hx h.symm hl).elim

/-- At most one node waits for each pair of leaves. -/
theorem waits_length_le {a : List Nat} {ns : List Node} (hd : ns.Nodup) (hw : ∀ x ∈ ns, Waits comb n leaf a x) : ns.length ≤ (n + 1) / 2 := by
  have hmap : (ns.map pairOf).Nodup := hd.map_on fun x hx y hy => pairOf_injective (hw x hx) (hw y hy)
  have hsub : ns.map pairOf ⊆ List.range ((n + 1) / 2) := by
    intro k hk
    obtain ⟨x, hx, rfl⟩ := List.mem_map.mp hk
    exact List.mem_range.mpr (pairOf_lt (hw x hx))
  simpa using (List.subperm_of_subset hmap hsub).length_le

/-! ## A sector as its contributions arrive -/

/-- A sector, and the roots found, after the contributions of `a` have arrived in some order. -/
structure Arrived (op fmt n : Nat) (x : Nat → Sector) (a : List Nat) (s : GrpSector × List (List Partial)) : Prop where
  nodup   : s.1.nodes.Nodup
  nodes   : ∀ y, y ∈ s.1.nodes ↔ Waits (List.zipWith (combine op fmt)) n (fun i => treeLeaf op fmt i (x i)) a y
  arrived : ∀ i < 256, s.1.arrived.getLsbD i = a.contains i
  undone  : s.1.done = false
  before  : (∃ j < n, j ∉ a) → s.2 = []
  root    : (∀ j < n, j ∈ a) → s.2 = [treeNode (List.zipWith (combine op fmt)) n (fun i => treeLeaf op fmt i (x i)) 8 0]

theorem arrived_none {op fmt n : Nat} {x : Nat → Sector} (hn : 0 < n) : Arrived op fmt n x [] (GrpSector.none, []) where
  nodup := List.nodup_nil
  nodes y := iff_of_false (by simp [GrpSector.none]) fun h => by simpa using h.whole _ (firstLeaf_lt h.node) (Nat.mul_div_cancel _ (Nat.two_pow_pos _))
  arrived i _ := by simp [GrpSector.none]
  undone := rfl
  before _ := rfl
  root h := by simpa using h 0 hn

/-- One more contribution. -/
theorem Arrived.contribute {op fmt n : Nat} {x : Nat → Sector} {a : List Nat} {s : GrpSector × List (List Partial)} {i : Nat}
    (h : Arrived op fmt n x a s) (hn : n ≤ 256) (hi : i < n) (hia : i ∉ a) : Arrived op fmt n x (a ++ [i]) (contributed op fmt n x s i) := by
  have hidx : (BitVec.ofNat 8 i).toNat = i := by
    rw [BitVec.toNat_ofNat]
    omega
  have ha : ∀ j, j ∈ a ++ [i] ↔ j ∈ a ∨ j = i := fun j => by simp
  have hend := walkUp_end (op := op) (fmt := fmt) (leaf := fun i => treeLeaf op fmt i (x i)) rfl hn ha hi hia 10 0 i (by simp) s.1.nodes
    (by simp only [treeCount]; omega) (fun j _ e => by simp_all) ⟨h.nodup, fun y hy => absurd hy (Nat.not_lt_zero _), fun y _ => h.nodes y⟩
  have hc : Machine.contribute op fmt n (BitVec.ofNat 8 i) (x i) s.1
      = ({ s.1 with arrived := s.1.arrived ||| (1#256 <<< i),
                    nodes := (walkUp op fmt 10 0 n i (treeLeaf op fmt i (x i)) s.1.nodes).1 },
          (walkUp op fmt 10 0 n i (treeLeaf op fmt i (x i)) s.1.nodes).2) := by
    rw [Machine.contribute, hidx]
    rfl
  have hs2 : s.2 = [] := h.before ⟨i, hi, hia⟩
  rw [contributed, hc, hs2]
  refine ⟨hend.nodup, hend.nodes, fun j hj => ?_, h.undone, fun hl => ?_, fun hall => ?_⟩
  · rw [BitVec.getLsbD_or, h.arrived j hj, ← BitVec.twoPow_eq, BitVec.getLsbD_twoPow, List.contains_append]
    simp [show i < 256 by omega, eq_comm]
  · obtain ⟨-, hall⟩ | ⟨hr, -⟩ := hend.root
    · obtain ⟨j, hj, hja⟩ := hl
      exact absurd (hall j hj) hja
    · exact congrArg Option.toList hr
  · obtain ⟨hr, -⟩ | ⟨-, j, hj, hja⟩ := hend.root
    · exact congrArg Option.toList hr
    · exact absurd (hall j hj) hja

/-- Any contributions of a group, each once, in any order. -/
theorem arrived_foldl {op fmt n : Nat} {x : Nat → Sector} (hn : 0 < n) (hn' : n ≤ 256) (a : List Nat) (hd : a.Nodup) (hlt : ∀ i ∈ a, i < n) :
    Arrived op fmt n x a (a.foldl (contributed op fmt n x) (GrpSector.none, [])) := by
  induction a using List.reverseRecOn with
  | nil => exact arrived_none hn
  | append_singleton a i ih =>
    obtain ⟨hd, -, hi⟩ := List.nodup_append.mp hd
    rw [List.foldl_append]
    exact (ih hd fun j hj => hlt j (by simp [hj])).contribute hn' (hlt i (by simp)) fun h => hi i h i (by simp) rfl

/-- Where every contribution has arrived no node waits. -/
theorem Arrived.nodes_nil {op fmt n : Nat} {x : Nat → Sector} {a : List Nat} {s : GrpSector × List (List Partial)} (h : Arrived op fmt n x a s)
    (hall : ∀ j < n, j ∈ a) : s.1.nodes = [] :=
  List.eq_nil_iff_forall_not_mem.mpr fun y hy => ((h.nodes y).mp hy).lacking fun j hj _ => hall j hj

/-- Settles O33: each contribution walks up the tree as far as the siblings are whole (`walkUp_end`), so that the nodes stored are those that
wait (`Arrived`), whatever the order. -/
theorem reductionResultIsTheTreeOfTheRule : Obligations.ReductionResultIsTheTreeOfTheRule := by
  intro op fmt n x order h2 hn hperm
  have hd : order.Nodup := hperm.nodup_iff.mpr List.nodup_range
  have hmem : ∀ i, i ∈ order ↔ i < n := fun i => hperm.mem_iff.trans List.mem_range
  have arr (k : Nat) := arrived_foldl (op := op) (fmt := fmt) (x := x) (by omega) hn (order.take k) (hd.sublist (List.take_sublist k order))
    fun i hi => (hmem i).mp (List.mem_of_mem_take hi)
  have hwhole := arr order.length
  rw [List.take_length] at hwhole
  have hall : ∀ j < n, j ∈ order := fun j => (hmem j).mpr
  refine ⟨fun k hk => ⟨waits_length_le (arr k).nodup fun y hy => ((arr k).nodes y).mp hy, (arr k).arrived, (arr k).undone, fun hkn => ?_⟩,
    _, treeUp_root (by omega) hn, hwhole.root hall, hwhole.nodes_nil hall⟩
  refine (arr k).before ?_
  by_contra hno
  push Not at hno
  have hlen : n ≤ (order.take k).length := by
    have := (List.subperm_of_subset List.nodup_range (fun j hj => hno j (List.mem_range.mp hj) : List.range n ⊆ order.take k)).length_le
    rwa [List.length_range] at this
  rw [List.length_take] at hlen
  omega

end Sys2Proof.Machine
end

section
/-!
Instructions that change their own sequencer (O43 to O45): each is `instruction_issues` with its effect.
-/

namespace Sys2Proof.Machine

/-! ## Stores without errors -/

theorem eccRead_zero : eccRead 0 = .clean 0 := by simp [eccRead]

@[simp] theorem leftOf_zero : leftOf 0#266 = 0 := by
  have h : eccRead 0#266 = .clean 0 := eccRead_zero
  simp only [leftOf, h]

section Clean

variable {m : Mach} (he : m.ras.errs = [])

include he

theorem errMask_clean (a : Arr) (h : Half) (i : Nat) : errMask m a h i = 0 := by simp [errMask, he]

theorem progRead_clean (g : Regs) (h : Half) (l : List Nat) : progRead g h l m = (false, m) := by simp [progRead, he]

theorem storeSeen_clean (g : Regs) (h k : Half) (i : Nat) : storeSeen g m h k i = storeWord g h k i := by
  simp [storeSeen, errMask_clean he]

theorem poolSeen_clean (g : Regs) (h k : Half) (i : Nat) : poolSeen g m h k i = poolWord g h k i := by
  simp [poolSeen, errMask_clean he]

theorem withPool_clean (g : Regs) (h k : Half) (is : List Nat) (f : Seq → Seq) : withPool g h k is f m = modSeq h k f m := by
  simp [withPool, progRead_clean he]

end Clean

/-! ## Nothing recorded -/

theorem profRuns_off {g : Regs} (h0 : g.pfEn = 0) (m : Mach) (h : Half) : profRuns g m h = false := by simp [profRuns, h0]

theorem profile_off {g : Regs} (h0 : g.pfEn = 0) (h : Half) (evt : BitVec 8) (w : Option (BitVec 12 × BitVec 16)) (n : Nat) (m : Mach) :
    profile g h evt w n m = m := by simp [profile, profRuns_off h0]

theorem traceInstr_off {m : Mach} {h : Half} (ht : (halfAt m h).trace.act = false) (g : Regs) (k : Half) (optag : BitVec 16) (pc : BitVec 12)
    (w : BitVec 32) : traceInstr g h k optag pc w m = m := by simp [traceInstr, ht]

theorem traceEvent_off {m : Mach} {h : Half} (ht : (halfAt m h).trace.act = false) (g : Regs) (k : Half) (evt : BitVec 4) (pc : BitVec 12)
    (optag : BitVec 16) (src : Option Nat) : traceEvent g h k evt pc optag src m = m := by simp [traceEvent, ht]

/-! ## The registers -/

@[simp] theorem regA_zero (q : Seq) : regA q 0 = 0 := rfl

@[simp] theorem setA_zero (v : BitVec 64) (q : Seq) : setA 0 v q = q := rfl

/-- A read of a register after a write to another one than A0. -/
theorem regA_setA {r : Fin 16} (hr : r ≠ 0) (q : Seq) (t : Fin 16) (v : BitVec 64) : regA (setA r v q) t = if t = r then v else regA q t := by
  by_cases ht : t = 0
  · subst ht
    rw [if_neg (Ne.symm hr), regA_zero, regA_zero]
  · simp only [regA, setA, beq_iff_eq, if_neg hr, if_neg ht, vector_get_set]
    simp only [eq_comm]

/-! ## Instructions that issue -/

section Issue

variable {s : State} {h k : Half} {w : BitVec 32}

theorem fetches_errs (hf : fetches s h k w) : s.m.ras.errs = [] := hf.2.1

theorem fetches_oneStep (hf : fetches s h k w) : (seqAt s.m h k).oneStep = false := by
  obtain ⟨-, -, -, -, -, -, -, -, h1, -⟩ := hf
  exact h1

theorem fetches_calm (hf : fetches s h k w) : calm s.m = true := hf.1

theorem fetches_trace (hf : fetches s h k w) : (halfAt s.m h).trace.act = false := by
  obtain ⟨-, -, -, ht, -⟩ := hf
  exact ht

/-- An instruction that issues has its effect; where this is no fault, it is recorded and PC moves. -/
theorem instruction_runs (hf : fetches s h k w) {code : Nat} (hc : insCode w = code) (e : Regs → BitVec 32 → Mach → Mach)
    (tg : Seq → BitVec 32 → Option (BitVec 12)) :
    instruction code h k e tg s = .next (settled s (if faulted (seqAt (e s.regs w s.m) h k) then e s.regs w s.m
      else issued s.regs h k w (tg (seqAt s.m h k) w) (e s.regs w s.m))) := by
  obtain ⟨-, he, -, -, hcan, hw, hbad, hstall, -, -⟩ := hf
  have hfetch : fetchBad s.m h k = false := by
    have h0 : eccRead 0#266 = .clean 0 := eccRead_zero
    simp [fetchBad, errMask_clean he, h0]
  have hseen : storeSeen s.regs s.m h k (seqAt s.m h k).pc.toNat = w := by rw [storeSeen_clean he, hw]
  simp only [instruction, run, settled, hcan, hseen, hc, bne_self_eq_false, hfetch, hbad, hstall, progRead_clean he, Bool.not_true, Bool.or_self,
    Bool.false_eq_true, if_false]

/-- An instruction that neither ends nor faults its program, on a half that records nothing, moves PC. -/
theorem issued_moves {g : Regs} {m : Mach} {tg : Option (BitVec 12)} (hpf : g.pfEn = 0) (htr : (halfAt m h).trace.act = false)
    (hs : (seqAt m h k).stop = none) (h1 : (seqAt m h k).oneStep = false) (hp : (seqAt m h k).pc ≠ 0xFFF) :
    issued g h k w tg m = modSeq h k (fun q => { q with pc := tg.getD (q.pc + 1), skipBp := false }) m := by
  simp only [issued, traceInstr_off htr, profile_off hpf, hs, h1, Option.isSome_none, beq_eq_false_iff_ne.mpr hp, Bool.and_false,
    Bool.false_eq_true, if_false]

theorem modSeq_id (h k : Half) (m : Mach) : modSeq h k id m = m := by simp [modSeq]

/-- A change of a sequencer that changes nothing. -/
theorem modSeq_eq_self {f : Seq → Seq} {m : Mach} (hf : f (seqAt m h k) = seqAt m h k) : modSeq h k f m = m :=
  (modSeq_congr (f' := id) hf).trans (modSeq_id h k m)

/-- An END is recorded, and its program stops. -/
theorem issued_ends {g : Regs} {m : Mach} {tg : Option (BitVec 12)} (hpf : g.pfEn = 0) (htr : (halfAt m h).trace.act = false)
    (hs : (seqAt m h k).stop.isSome) (h1 : (seqAt m h k).oneStep = false) : issued g h k w tg m = m := by
  have hsame : modSeq h k (fun s => { s with haltDue := s.haltDue || s.oneStep, oneStep := false }) m = m := by
    refine modSeq_eq_self ?_
    rw [h1, Bool.or_false, ← h1]
  simp only [issued, traceInstr_off htr, profile_off hpf, hs, if_true, hsame]

/-- An instruction with an effect that neither stops the program nor moves PC. -/
theorem instruction_goesOn (hf : fetches s h k w) {code : Nat} (hc : insCode w = code) {e : Regs → BitVec 32 → Mach → Mach} {m : Mach}
    (he : e s.regs w s.m = m) (htr : (halfAt m h).trace.act = false) (hs : (seqAt m h k).stop = none) (h1 : (seqAt m h k).oneStep = false)
    (hp : (seqAt m h k).pc = (seqAt s.m h k).pc) :
    instruction code h k e (s := s) = .next (settled s (modSeq h k (fun q => { q with pc := q.pc + 1, skipBp := false }) m)) := by
  obtain ⟨-, -, hpf, -, -, -, -, -, -, hlast⟩ := id hf
  have hfl : faulted (seqAt m h k) = false := by simp only [faulted, hs]
  rw [instruction_runs hf hc, he, hfl, if_neg Bool.false_ne_true, issued_moves hpf htr hs h1 (hp ▸ hlast)]
  rfl

/-- An instruction whose effect changes nothing moves PC alone. -/
theorem instruction_moves (hf : fetches s h k w) {code : Nat} (hc : insCode w = code) {e : Regs → BitVec 32 → Mach → Mach}
    (tg : Seq → BitVec 32 → Option (BitVec 12)) (he : e s.regs w s.m = s.m) :
    instruction code h k e tg s
      = seqAfter s h k fun q => { q with pc := (tg (seqAt s.m h k) w).getD (q.pc + 1), skipBp := false } :=
  instruction_issues hf hc id _ tg (he.trans (modSeq_id h k s.m).symm) (fetches_stop hf) (fetches_oneStep hf) rfl

/-- An instruction whose effect is a write of Ad. -/
theorem instruction_setsA (hf : fetches s h k w) {code : Nat} (hc : insCode w = code) {e : Regs → BitVec 32 → Mach → Mach} {v : BitVec 64}
    (he : e s.regs w s.m = modSeq h k (setA (insD w) v) s.m) : instruction code h k e (s := s) = writesD s h k w v := by
  rw [instruction_issues hf hc (setA (insD w) v) e _ he (by simp [fetches_stop hf]) (by simp [fetches_oneStep hf]) (by simp)]
  simp only [seqAfter, writesD, Option.getD_none, setA_pc]

/-- An instruction that writes Ad with a value computed from the sequencer. -/
theorem instruction_writesD (hf : fetches s h k w) {code : Nat} (hc : insCode w = code) (f : Seq → BitVec 32 → BitVec 64) :
    instruction code h k (writeD h k f) (s := s) = writesD s h k w (f (seqAt s.m h k) w) :=
  instruction_setsA hf hc (modSeq_congr rfl)

end Issue

/-- Settles O43: `instruction_writesD` with the value of each row; `regA_setA` for the registers. -/
theorem integerInstructionsCompute : Obligations.IntegerInstructionsCompute := by
  refine ⟨fun h k s w hf => ?_, fun q v => ⟨regA_zero q, setA_zero v q⟩, fun q r t v hr => regA_setA hr q t v⟩
  dsimp only [exec, execINop, execIMovi, execIAddi, execIAdd, execISub, execIAnd, execIOr, execIXor, execIShli, execIShri, execIMul, execILdp,
    execIOpwait]
  refine ⟨?nop, ?movi, ?addi, ?add, ?sub, ?and, ?or, ?xor, ?shli, ?shri, ?mul, ?ldp, ?opwait⟩ <;> intro hc <;>
    have hc := insCode_of hc (by decide)
  case nop => exact instruction_moves hf hc _ rfl
  case ldp =>
    refine instruction_setsA hf hc ?_
    simp only [withPool_clean (fetches_errs hf), poolSeen_clean (fetches_errs hf)]
  all_goals exact instruction_writesD hf hc _

/-! ## Branches and loop counters -/

/-- A branch goes to its target where it is taken, else on behind itself. -/
theorem instruction_branches {s : State} {h k : Half} {w : BitVec 32} (hf : fetches s h k w) {code : Nat} (hc : insCode w = code)
    {taken : Seq → BitVec 32 → Bool} :
    instruction code h k (fun _ _ m => m) (fun q w => if taken q w then some (insTgt w) else none) s
      = seqAfter s h k fun q => { q with pc := if taken (seqAt s.m h k) w then w.extractLsb' 0 12 else q.pc + 1, skipBp := false } := by
  rw [instruction_moves hf hc _ rfl]
  cases taken (seqAt s.m h k) w <;> rfl

/-- An instruction whose effect is a write of a loop counter. -/
theorem instruction_setsC {s : State} {h k : Half} {w : BitVec 32} (hf : fetches s h k w) {code : Nat} (hc : insCode w = code)
    {e : Regs → BitVec 32 → Mach → Mach} {tg : Seq → BitVec 32 → Option (BitVec 12)} {v : BitVec 32} {pc : BitVec 12}
    (he : e s.regs w s.m = modSeq h k (setC (insC w) v) s.m) (hp : (tg (seqAt s.m h k) w).getD ((seqAt s.m h k).pc + 1) = pc) :
    instruction code h k e tg s = seqAfter s h k fun q => { q with c := q.c.set (insC w) v, pc := pc, skipBp := false } := by
  rw [instruction_issues hf hc (setC (insC w) v) e tg he (fetches_stop hf) (fetches_oneStep hf) rfl]
  refine congrArg (fun m => Host.Outcome.next { s with m := m }) (modSeq_congr ?_)
  simp only [setC, hp]

/-- Settles O44. -/
theorem branchesAndLoops : Obligations.BranchesAndLoops := by
  intro h k s w hf
  dsimp only [exec, execIBeq, execIBne, execIBltu, execIJmp, execISetc, execISetci, execILoop]
  refine ⟨?beq, ?bne, ?bltu, ?jmp, ?setc, ?setci, ?loopZero, ?loopOne, ?loopMore⟩ <;> intro hc <;> have hc := insCode_of hc (by decide)
  case beq => exact instruction_branches hf hc
  case bne => exact instruction_branches hf hc
  case bltu => exact instruction_branches hf hc
  case jmp => exact instruction_branches hf hc (taken := fun _ _ => true)
  case setc => exact instruction_setsC hf hc (modSeq_congr rfl) rfl
  case setci => exact instruction_setsC hf hc rfl rfl
  case loopZero =>
    intro h0
    rw [instruction_moves hf hc _ (modSeq_eq_self (by simp [h0]))]
    simp [h0]
  case loopOne =>
    intro h1
    refine instruction_setsC hf hc (modSeq_congr ?_) ?_ <;> simp [h1]
  case loopMore =>
    intro h2
    have h0 : (seqAt s.m h k).c[insC w] ≠ 0 := fun e => by simp [e] at h2
    have h1 : (seqAt s.m h k).c[insC w] ≠ 1 := fun e => by simp [e] at h2
    refine instruction_setsC hf hc (modSeq_congr ?_) ?_
    · simp only [beq_iff_eq, if_neg h0]
    · simp only [Bool.or_eq_true, beq_iff_eq, h0, h1, or_self, if_false, Option.getD_some]
      rfl

/-! ## Descriptor slots -/

/-- An instruction whose effect is a write of a slot. -/
theorem instruction_setsSlot {s : State} {h k : Half} {w : BitVec 32} (hf : fetches s h k w) {code : Nat} (hc : insCode w = code)
    {e : Regs → BitVec 32 → Mach → Mach} {i : Fin 8} {d : Vector (BitVec 32) 32} (he : e s.regs w s.m = modSeq h k (modSlot i fun _ => d) s.m) :
    instruction code h k e (s := s) = seqAfter s h k fun q => { q with d := q.d.set i d, pc := q.pc + 1, skipBp := false } :=
  instruction_issues hf hc (modSlot i fun _ => d) e _ he (fetches_stop hf) (fetches_oneStep hf) rfl

theorem dsetWord_zero (a : BitVec 64) (old : BitVec 32) : dsetWord 0 a old = a.extractLsb' 0 32 :=
  BitVec.setWidth_eq_extractLsb' (by decide : 32 ≤ 64)

theorem dsetWord_two (a : BitVec 64) (old : BitVec 32) : dsetWord 2 a old = a.extractLsb' 32 32 := rfl

/-- PART 1 of DSET replaces the low 20 bits. -/
theorem dsetWord_one (a : BitVec 64) (old : BitVec 32) : dsetWord 1 a old = old.extractLsb' 20 12 ++ a.extractLsb' 32 20 := by
  refine BitVec.eq_of_getLsbD_eq fun i hi => ?_
  have hmask : (0xFFF00000#32).getLsbD i = decide (20 ≤ i) :=
    (by decide : ∀ i : Fin 32, (0xFFF00000#32).getLsbD i.val = decide (20 ≤ i.val)) ⟨i, hi⟩
  change ((old &&& 0xFFF00000#32) ||| (a.extractLsb' 32 20).setWidth 32).getLsbD i = _
  rw [BitVec.getLsbD_or, BitVec.getLsbD_and, hmask, BitVec.getLsbD_append, BitVec.getLsbD_setWidth]
  by_cases hlo : i < 20
  · simp [hlo, hi, show ¬ 20 ≤ i by omega]
  · simp [hlo, show 20 ≤ i by omega, show i - 20 < 12 by omega]

/-- Settles O45. -/
theorem descriptorInstructionsAct : Obligations.DescriptorInstructionsAct := by
  intro h k s w inv hf hrun
  dsimp only [exec, execIDcopy, execIDset, execIIssue]
  refine ⟨?dcopy, ?dset0, ?dset1, ?dset2, ?issue⟩ <;> intro hc <;> have hc := insCode_of hc (by decide)
  case dcopy =>
    refine instruction_setsSlot hf hc ?_
    simp only [withPool_clean (fetches_errs hf), poolSeen_clean (fetches_errs hf)]
  case dset0 =>
    intro hp
    refine instruction_setsSlot hf hc (modSeq_congr ?_)
    simp only [hp, modSlot, dsetWord_zero]
  case dset1 =>
    intro hp
    refine instruction_setsSlot hf hc (modSeq_congr ?_)
    simp only [hp, modSlot, dsetWord_one]
  case dset2 =>
    intro hp
    refine instruction_setsSlot hf hc (modSeq_congr ?_)
    simp only [hp, modSlot, dsetWord_two]
  case issue =>
    let i := insSlot w 23
    refine (instruction_goesOn hf hc
      (m := modSeq h k (fun q => { modSlot i (fun v => v.set 7 0) q with busy := q.busy ||| (1#8 <<< i.val) })
        (modAnv h (fun x => { x with q := x.q.set k (x.q[k] ++ [slotOp k inv i (seqAt s.m h k).d[i]]) }) s.m))
      (by simp only [hrun]; rfl) (fetches_trace hf) (by simp [fetches_stop hf, modSlot]) (by simp [fetches_oneStep hf, modSlot])
      (by simp [modSlot])).trans ?_
    rw [settled, settle_of_calm (by exact fetches_calm hf), modSeq_modSeq]
    rfl

/-! ## Requests of a program -/

/-- What the sending of a request leaves as it was. -/
structure SendFrame (h k : Half) (m m' : Mach) : Prop where
  stop    : (seqAt m' h k).stop = (seqAt m h k).stop
  oneStep : (seqAt m' h k).oneStep = (seqAt m h k).oneStep
  pc      : (seqAt m' h k).pc = (seqAt m h k).pc
  halves  : m'.halves = m.halves

theorem SendFrame.refl (h k : Half) (m : Mach) : SendFrame h k m m := ⟨rfl, rfl, rfl, rfl⟩

theorem SendFrame.trans {h k : Half} {m m' m'' : Mach} (x : SendFrame h k m m') (y : SendFrame h k m' m'') : SendFrame h k m m'' :=
  ⟨y.stop.trans x.stop, y.oneStep.trans x.oneStep, y.pc.trans x.pc, y.halves.trans x.halves⟩

theorem SendFrame.of_seqAt {h k : Half} {m m' : Mach} (hq : seqAt m' h k = seqAt m h k) (hh : m'.halves = m.halves) : SendFrame h k m m' :=
  ⟨by rw [hq], by rw [hq], by rw [hq], hh⟩

theorem modSeq_sendFrame {h k : Half} {f : Seq → Seq} (hf : ∀ q, (f q).stop = q.stop ∧ (f q).oneStep = q.oneStep ∧ (f q).pc = q.pc) (m : Mach) :
    SendFrame h k m (modSeq h k f m) := by
  obtain ⟨h1, h2, h3⟩ := hf (seqAt m h k)
  exact ⟨by rw [seqAt_modSeq, h1], by rw [seqAt_modSeq, h2], by rw [seqAt_modSeq, h3], rfl⟩

theorem seqEnter_frame (n : Nat) (h k : Half) (m : Mach) : SendFrame h k m (seqEnter n h k m) := by
  induction n generalizing m with
  | zero => exact .refl h k m
  | succ n ih =>
    rw [seqEnter]
    split
    next => exact .refl h k m
    next t _ =>
      refine .trans (.of_seqAt rfl rfl : SendFrame h k m { m with todo := m.todo ++ [t.req] }) (.trans ?_ (ih _))
      refine modSeq_sendFrame ?_ _
      exact fun _ => ⟨rfl, rfl, rfl⟩

theorem logRefusal_seqAt (src : Option (BitVec 4)) (c : Code) (opc : BitVec 6) (r : Req) (m : Mach) (h k : Half) :
    seqAt (logRefusal src c opc r m) h k = seqAt m h k := by
  unfold logRefusal
  split
  · rfl
  · split <;> rfl

theorem logRefusal_halves (src : Option (BitVec 4)) (c : Code) (opc : BitVec 6) (r : Req) (m : Mach) :
    (logRefusal src c opc r m).halves = m.halves := by
  unfold logRefusal
  split
  · rfl
  · split <;> rfl

theorem seqSend_frame (g : Regs) (h k : Half) (op : Op) (a : BitVec 64) (aux : BitVec 32) (data : BitVec 64) (d : Fin 16) (m : Mach) :
    SendFrame h k m (seqSend g h k op a aux data d m) := by
  unfold seqSend
  dsimp only
  split
  next => exact .refl h k m
  next inv _ =>
    have hsent {f : Seq → Seq} (hf : ∀ q, (f q).stop = q.stop ∧ (f q).oneStep = q.oneStep ∧ (f q).pc = q.pc) :
        SendFrame h k m (modSeq h k f (newId m).2) :=
      .trans (.of_seqAt (m' := (newId m).2) rfl rfl) (modSeq_sendFrame hf _)
    split
    next c _ =>
      refine .trans (hsent ?_) (.of_seqAt (logRefusal_seqAt _ _ _ _ _ h k) (logRefusal_halves _ _ _ _ _))
      exact fun _ => ⟨rfl, rfl, rfl⟩
    next =>
      refine .trans (hsent ?_) (seqEnter_frame 64 h k _)
      exact fun _ => ⟨rfl, rfl, rfl⟩

/-- An instruction that sends a request. -/
theorem instruction_sends {s : State} {h k : Half} {w : BitVec 32} (hf : fetches s h k w) {code : Nat} (hc : insCode w = code)
    {e : Regs → BitVec 32 → Mach → Mach} {op : Op} {a : BitVec 64} {aux : BitVec 32} {data : BitVec 64} {d : Fin 16}
    (he : e s.regs w s.m = seqSend s.regs h k op a aux data d s.m) :
    instruction code h k e (s := s) = .next (settled s (modSeq h k (fun q => { q with pc := q.pc + 1, skipBp := false })
      (seqSend s.regs h k op a aux data d s.m))) := by
  have hx := seqSend_frame s.regs h k op a aux data d s.m
  refine instruction_goesOn hf hc he ?_ (hx.stop.trans (fetches_stop hf)) (hx.oneStep.trans (fetches_oneStep hf)) hx.pc
  rw [halfAt, hx.halves]
  exact fetches_trace hf

theorem putRecord_modTrace (h : Half) (r : BitVec 64) (m : Mach) : ∃ f, putRecord h r m = modTrace h f m := by
  unfold putRecord
  exact ⟨_, rfl⟩

/-- A recorded event changes the trace of its half alone. -/
theorem traceEvent_modTrace (g : Regs) (h k : Half) (evt : BitVec 4) (pc : BitVec 12) (optag : BitVec 16) (src : Option Nat) (m : Mach) :
    traceEvent g h k evt pc optag src m = m ∨ ∃ f, traceEvent g h k evt pc optag src m = modTrace h f m := by
  unfold traceEvent
  dsimp only
  split_ifs
  exacts [.inl rfl, .inr ⟨_, rfl⟩, .inr (putRecord_modTrace h _ m), .inl rfl]

theorem traceEvent_seqAt (g : Regs) (h k : Half) (evt : BitVec 4) (pc : BitVec 12) (optag : BitVec 16) (src : Option Nat) (m : Mach) (j i : Half) :
    seqAt (traceEvent g h k evt pc optag src m) j i = seqAt m j i := by
  obtain e | ⟨f, e⟩ := traceEvent_modTrace g h k evt pc optag src m <;> rw [e]
  rfl

/-- A program that runs and ends in no other way stops with the fault. -/
theorem faultSeq_stop {g : Regs} {h k : Half} {cause : BitVec 4} {c : Code} {pc : BitVec 12} {m : Mach} (hr : (seqAt m h k).run.isSome = true)
    (hs : (seqAt m h k).stop = none) (hc : (seqAt m h k).copying = false) :
    (seqAt (faultSeq g h k cause c pc m) h k).stop = some (.fault cause c pc) := by
  have hfl : faulted (seqAt m h k) = false := by simp only [faulted, hs]
  have hn : (seqAt m h k).run.isNone = false := by simpa using hr
  simp only [faultSeq, hn, hfl, hc, Bool.or_self, Bool.false_eq_true, if_false, traceEvent_seqAt, seqAt_modSeq]

theorem fetches_run {s : State} {h k : Half} {w : BitVec 32} (hf : fetches s h k w) : (seqAt s.m h k).run.isSome = true := by
  obtain ⟨-, -, -, -, hcan, -⟩ := hf
  simp only [canIssue, issuing, Bool.and_eq_true, and_assoc] at hcan
  exact hcan.1

/-- An instruction that faults its program. -/
theorem instruction_faults {s : State} {h k : Half} {w : BitVec 32} (hf : fetches s h k w) {code : Nat} (hc : insCode w = code)
    {e : Regs → BitVec 32 → Mach → Mach} {cause : BitVec 4} {c : Code} {pc : BitVec 12} (he : e s.regs w s.m = faultSeq s.regs h k cause c pc s.m)
    (hcopy : (seqAt s.m h k).copying = false) :
    instruction code h k e (s := s) = .next (settled s (faultSeq s.regs h k cause c pc s.m)) := by
  have hfl : faulted (seqAt (faultSeq s.regs h k cause c pc s.m) h k) = true := by
    simp only [faulted, faultSeq_stop (fetches_run hf) (fetches_stop hf) hcopy]
  rw [instruction_runs hf hc, he, if_pos hfl]

section DataRequest

variable {g : Regs} {w : BitVec 32} {h k : Half} {m : Mach}

theorem dataRequest_aligned (ha : (dataAddr (seqAt m h k) w).extractLsb' 0 3 = 0) (op : Op) :
    dataRequest h k op g w m = if op == .wr then seqSend g h k .wr (dataAddr (seqAt m h k) w) 0 (regA (seqAt m h k) (insD w)) 0 m
      else seqSend g h k .rdNc (dataAddr (seqAt m h k) w) 0 0 (insD w) m := by
  simp only [dataRequest, ha, bne_self_eq_false, Bool.false_eq_true, if_false]

theorem dataRequest_misaligned (ha : (dataAddr (seqAt m h k) w).extractLsb' 0 3 ≠ 0) (op : Op) :
    dataRequest h k op g w m = faultSeq g h k 2 .errDecode (seqAt m h k).pc m := by
  simp only [dataRequest, bne_iff_ne.mpr ha, if_true]

end DataRequest

/-- The threshold of a CWAIT, with the bit that says which count it compares. -/
theorem waitAux_append (b : BitVec 64) (w : BitVec 32) :
    (b.setWidth 32 &&& 0x7FFFFFFF#32) ||| flagAt 32 (bitAt w 0) 31 = w.extractLsb' 0 1 ++ b.extractLsb' 0 31 := by
  refine BitVec.eq_of_getLsbD_eq fun i hi => ?_
  have hmask : (0x7FFFFFFF#32).getLsbD i = decide (i < 31) :=
    (by decide : ∀ i : Fin 32, (0x7FFFFFFF#32).getLsbD i.val = decide (i.val < 31)) ⟨i, hi⟩
  have hflag : (flagAt 32 (bitAt w 0) 31).getLsbD i = (bitAt w 0 && decide (i = 31)) := by
    cases bitAt w 0
    · simp [flagAt]
    · rw [flagAt, if_pos rfl, ← BitVec.twoPow_eq, BitVec.getLsbD_twoPow]
      simp [eq_comm]
  rw [BitVec.getLsbD_or, BitVec.getLsbD_and, hmask, hflag, BitVec.getLsbD_append]
  by_cases hlo : i < 31
  · simp [hlo, hi, show i ≠ 31 by omega]
  · obtain rfl : i = 31 := by omega
    simp [bitAt]

/-- Settles O46. -/
theorem requestInstructionsSend : Obligations.RequestInstructionsSend := by
  intro h k s w hf
  dsimp only [exec, execILd, execISt, execIFence, execICadd, execICwait, execICread, execICrst, execIEnd]
  refine ⟨?ld, ?st, ?cadd, ?cwait, ?cread, ?crst, ?ldFault, ?stFault, ?fence, ?fin⟩ <;> intro hc <;> have hc := insCode_of hc (by decide)
  case ld => exact fun ha => instruction_sends hf hc (dataRequest_aligned ha .rdNc)
  case st => exact fun ha => instruction_sends hf hc (dataRequest_aligned ha .wr)
  case cadd =>
    refine instruction_sends hf hc ?_
    rw [← BitVec.setWidth_eq_extractLsb' (by decide : 32 ≤ 64)]
    rfl
  case cwait =>
    refine instruction_sends hf hc ?_
    rw [← waitAux_append]
    rfl
  case cread => exact instruction_sends hf hc rfl
  case crst => exact instruction_sends hf hc rfl
  case ldFault => exact fun ha hcopy => instruction_faults hf hc (dataRequest_misaligned ha .rdNc) hcopy
  case stFault => exact fun ha hcopy => instruction_faults hf hc (dataRequest_misaligned ha .wr) hcopy
  case fence => exact instruction_moves hf hc _ rfl
  case fin =>
    obtain ⟨-, -, hpf, -⟩ := id hf
    rw [instruction_runs hf hc, if_neg (by simp [faulted]), issued_ends hpf (by exact fetches_trace hf) (by simp) (by simpa using fetches_oneStep hf), settled,
      settle_of_calm (by exact fetches_calm hf), ← BitVec.setWidth_eq_extractLsb' (by decide : 3 ≤ 64)]
    rfl

end Sys2Proof.Machine
end

section
/-!
The completions of the requests of a program (O47).
-/

namespace Sys2Proof.Machine

/-! ## A sequencer with no request left -/

theorem seqEnter_nil {h k : Half} {m : Mach} (ht : (seqAt m h k).txns = []) (n : Nat) : seqEnter n h k m = m := by
  cases n with
  | zero => rfl
  | succ n => simp [seqEnter, nextEntry, ht]

theorem withdrawWait_txns {h k : Half} {m : Mach} (ht : (seqAt m h k).txns = []) (id : Nat) : (seqAt (withdrawWait h k id m) h k).txns = [] := by
  have hs : seqAt (withdrawWait h k id m) h k = seqAt (modSeq h k (fun s => { s with
      cwaitI := none, txns := s.txns.filter fun t => t.req.id != id, dest := s.dest.filter fun x => x.1 != id }) m) h k := rfl
  rw [hs, seqAt_modSeq]
  simp [ht]

theorem dropOps_txns {h k : Half} {m : Mach} (ht : (seqAt m h k).txns = []) : (seqAt (dropOps h k m) h k).txns = [] := by
  unfold dropOps
  rw [seqAt_modSeq]
  exact ht

/-- A fault starts no request. -/
theorem faultSeq_txns {g : Regs} {h k : Half} {cause : BitVec 4} {c : Code} {pc : BitVec 12} {m : Mach} (ht : (seqAt m h k).txns = []) :
    (seqAt (faultSeq g h k cause c pc m) h k).txns = [] := by
  unfold faultSeq
  dsimp only
  split_ifs
  · exact ht
  · rw [traceEvent_seqAt, seqAt_modSeq]
    refine dropOps_txns ?_
    cases (seqAt m h k).cwaitI with
    | none => exact ht
    | some id => exact withdrawWait_txns ht id

/-! ## Completions -/

section Completion

variable {h k : Half} {s : State} {t : Txn} {d : Fin 16} {pc : BitVec 12} {line : Line} {c : Code}

/-- The sequencer without the request that has completed, its only one. -/
def requestGone (id : Nat) (q : Seq) : Seq := { q with txns := [], dest := [], cwaitI := if q.cwaitI == some id then none else q.cwaitI }

variable (hq : (seqAt s.m h k).txns = [t]) (hd : (seqAt s.m h k).dest = [(t.req.id, d, pc)])

include hq hd in
/-- The completion of a program's only request reaches its register, or faults the program. -/
theorem seqTake_only {g : Regs} {m : Mach} (hm : seqAt m h k = seqAt s.m h k) :
    seqTake g h k t.req c line m = if c = .done then modSeq h k (fun q => setA d (eightBytes t.req line) (requestGone t.req.id q)) m
      else faultSeq g h k (if isCounterOp t.req.op then 4 else 3) c pc (modSeq h k (requestGone t.req.id) m) := by
  have hgone : modSeq h k (fun s => { s with
      txns := s.txns.filter fun x => x.req.id != t.req.id, dest := s.dest.filter fun x => x.1 != t.req.id
      cwaitI := if s.cwaitI == some t.req.id then none else s.cwaitI }) m = modSeq h k (requestGone t.req.id) m :=
    modSeq_congr (by simp [hm, hq, hd, requestGone])
  have hfind : (((seqAt m h k).dest.find? fun x => x.1 == t.req.id).map (·.2)) = some (d, pc) := by simp [hm, hd]
  unfold seqTake
  simp only [hfind, Option.getD_some, hgone]
  by_cases hc : c = .done
  · simp only [hc, beq_self_eq_true, if_true, modSeq_modSeq]
    refine seqEnter_nil ?_ 64
    rw [seqAt_modSeq, setA]
    split_ifs <;> rfl
  · simp only [beq_eq_false_iff_ne.mpr hc, Bool.false_eq_true, if_false, if_neg hc]
    refine seqEnter_nil (faultSeq_txns ?_) 64
    rw [seqAt_modSeq]
    rfl

/-- The row of the only completion takes it. -/
theorem seqComplete_only (hu : s.m.unitDone = [(t.req, c, line)]) (ho : t.req.origin = .seq h k) {mine : Op → Bool} (hm : mine t.req.op = true) :
    seqComplete h k mine s = .next (settled s (seqTake s.regs h k t.req c line { s.m with unitDone := [] })) := by
  simp [seqComplete, run, settled, hu, ho, hm]

end Completion

/-- Settles O47: the completion is the only one, so that what a program does with it is all that the row does. -/
theorem programCompletionsArrive : Obligations.ProgramCompletionsArrive := by
  intro h k s t d pc line c q left m hu ho hq hd
  have take {mine : Op → Bool} (hm : mine t.req.op = true) := (seqComplete_only hu ho hm).trans
    (congrArg (fun m => Host.Outcome.next (settled s m)) (seqTake_only hq hd (m := m) rfl))
  dsimp only [exec, execLdComplete, execProgramReqComplete]
  refine ⟨?ld, ?ldFault, ?cread, ?waitFault, ?stFault⟩ <;> intro hop hc <;> rw [take (by simp [hop])]
  case ld => 
    rw [if_pos hc, eightBytes, hop]
    rfl
  case cread => 
    rw [if_pos hc, eightBytes, hop]
    rfl
  all_goals
    rw [if_neg hc, hop]
    rfl

end Sys2Proof.Machine
end

section
/-!
Programs start, halt and end (O48).
-/

namespace Sys2Proof.Machine

/-! ## The start of a program -/

/-- R360: A3 holds OPTAG in bits 15:0, INST in bits 21:16 and LABEL in bits 33:22. -/
theorem startA3_append (r : Req) : startA3 r = (0#30 ++ r.label ++ r.inst ++ r.optag) := by
  refine BitVec.eq_of_getLsbD_eq fun i hi => ?_
  simp only [startA3, BitVec.getLsbD_or, BitVec.getLsbD_append, BitVec.getLsbD_setWidth, BitVec.getLsbD_shiftLeft, BitVec.getLsbD_zero]
  by_cases h1 : i < 16
  · simp [h1, hi, show i < 22 by omega]
  · have ho : r.optag.getLsbD i = false := BitVec.getLsbD_of_ge _ _ (by omega)
    by_cases h2 : i < 22
    · simp [h1, h2, hi, ho, show i - 16 < 6 by omega, show i - 16 < 64 by omega]
    · have hn : r.inst.getLsbD (i - 16) = false := BitVec.getLsbD_of_ge _ _ (by omega)
      simp [h1, h2, hi, ho, hn, show ¬ i - 16 < 6 by omega, Nat.sub_sub, show i - 22 < 64 by omega]
      exact BitVec.lt_of_getLsbD

/-! ## What a program leaves when it ends -/

theorem lossOfProgram_frame (h k : Half) (own : Bool) (m : Mach) (j i : Half) :
    seqAt (lossOfProgram h k own m) j i = seqAt m j i ∧ halfAt (lossOfProgram h k own m) j = halfAt m j := by
  unfold lossOfProgram
  split
  · exact ⟨by simp, by simp⟩
  · exact ⟨rfl, rfl⟩

theorem fetchBad_clean {m : Mach} (he : m.ras.errs = []) (h k : Half) : fetchBad m h k = false := by
  have h0 : eccRead (0 : BitVec 266) = .clean 0 := eccRead_zero
  simp only [fetchBad, errMask_clean he, h0]

theorem canIssue_stop {g : Regs} {m : Mach} {h k : Half} (hc : canIssue g m h k = true) : (seqAt m h k).stop = none := by
  simp only [canIssue, issuing, Bool.and_eq_true, Option.isNone_iff_eq_none] at hc
  obtain ⟨⟨⟨⟨⟨⟨-, hs⟩, -⟩, -⟩, -⟩, -⟩, -⟩ := hc
  exact hs

/-- A NOP waits for nothing. -/
theorem stalls_nop (m : Mach) (h k : Half) : stalls m h k 0x04000000#32 = false := by
  have hc : insCode 0x04000000#32 = 1 := by decide
  have hr : insRegs 0x04000000#32 = [] := by decide
  have hs : insSends 1 = false := by decide
  simp [stalls, regWaits, slotWaits, opWaitWaits, fenceWaits, hc, hr, hs]

/-- Dump triggers that are not armed count no END. -/
theorem countEnd_unarmed {g : Regs} {h k : Half} {m : Mach} (ha : ∀ i : Fin 8, m.dbg.dumps[i].armed = false) : countEnd g h k m = m := by
  unfold countEnd
  dsimp only
  generalize List.finRange 8 = l
  induction l with
  | nil => rfl
  | cons i l ih =>
    have hi := ha i
    rw [List.foldl_cons]
    simp only [Fin.getElem_fin] at hi
    simp only [Fin.getElem_fin, hi, Bool.false_and, Bool.not_false, if_true]
    exact ih

/-- The INVOKE of a program that runs completes. -/
theorem endProgram_runs {g : Regs} {h k : Half} {m : Mach} {inv : Req} (hr : (seqAt m h k).run = some inv) (c : Code) (upd : Seq → Seq) :
    endProgram g h k c upd m = haltIfDue g h k (complete inv c 0 (modSeq h k (fun s => upd { s with
      run := none, stop := none, copying := false, halted := false, whyBp := false, skipBp := false, oneStep := false
      opened := [], discs := [], dest := [] }) m)) := by
  simp only [endProgram, hr]

/-- Settles O48: each row under its conditions; `endProgram_runs` for the ends, `startA3_append` for A3 at the start. -/
theorem programsStartAndEnd : Obligations.ProgramsStartAndEnd := by
  refine ⟨fun h k s => ?_, fun r pc q => ?_⟩
  · intro q freed
    dsimp only [exec, execInvokeDispatch, execBreakpointHit, execReservedInstruction, execINop, execEndComplete, execSeqFaultComplete]
    refine ⟨?dispatch, ?breakpoint, ?reserved, ?fetch, ?last, ?ended, ?faulted⟩
    case dispatch =>
      intro r pc hs hd hc hn
      simp only [run, settled, hs, hd, hc, hn, Bool.or_self, Bool.not_true, Bool.false_eq_true, if_false]
    case breakpoint =>
      intro hi hk hb
      have hk : (seqAt s.m h k).skipBp = false := hk
      simp only [run, settled, hi, hk, hb, Bool.not_false, Bool.and_self, if_true]
      rfl
    case reserved =>
      intro hc hb hn
      have hn : (insBits (insCode (storeSeen s.regs s.m h k (seqAt s.m h k).pc.toNat))).isNone = true := Option.isNone_iff_eq_none.mpr hn
      simp only [run, settled, hc, hb, hn, Bool.not_true, Bool.false_eq_true, if_false, if_true]
      rfl
    case fetch =>
      intro hc hb
      simp only [run, settled, hc, hb, Bool.not_true, Bool.false_eq_true, if_false, if_true]
      rfl
    case last =>
      intro hc he hw hp h1 hpf htr
      have hp : (seqAt s.m h k).pc = 0xFFF := hp
      have h1 : (seqAt s.m h k).oneStep = false := h1
      have hfetch : fetchBad s.m h k = false := fetchBad_clean he h k
      have hseen : storeSeen s.regs s.m h k (BitVec.toNat (0xFFF : BitVec 12)) = 0x04000000#32 := by rw [storeSeen_clean he]; exact hw
      have hstop : (seqAt s.m h k).stop = none := canIssue_stop hc
      have hst : stalls s.m h k 0x04000000#32 = false := stalls_nop s.m h k
      have hbad : insBad 0x04000000#32 = false := by decide
      have hcode : insCode 0x04000000#32 = 1 := by decide
      simp only [instruction, run, settled, hc, hp, hseen, hcode, hfetch, hbad, hst, progRead_clean he, faulted, hstop, issued, traceInstr_off htr,
        profile_off hpf, h1, Bool.not_true, bne_self_eq_false, Bool.or_self, Bool.false_eq_true, if_false, Option.isSome_none, Option.isNone_none,
        Option.getD_none, beq_self_eq_true, Bool.and_self, if_true]
      refine congrArg (fun m => Host.Outcome.next (settled s (faultSeq s.regs h k 1 .errDecode 0xFFF m))) (modSeq_congr ?_)
      rw [hp]
      rfl
    case ended =>
      intro inv c own hr hs hi hc
      have hr : (seqAt s.m h k).run = some inv := hr
      have hs : (seqAt s.m h k).stop = some (.ended c own) := hs
      have hc : (seqAt s.m h k).copying = false := hc
      have hi : seqIdle (seqAt s.m h k) = true := hi
      simp only [run, settled, hs, hi, hc, Bool.not_true, Bool.or_self, Bool.false_eq_true, if_false]
      refine ⟨fun hn => ?_, fun hn => ?_, fun ha htr => ?_⟩
      · rw [if_pos (beq_iff_eq.mpr hn)]
      · rw [if_neg (by simpa using hn)]
        simp only [List.isEmpty_iff]
      · simp only [countEnd_unarmed ha, beq_self_eq_true, if_true, endByEnd]
        have htr' : (halfAt (lossOfProgram h k (own && c == .errData) s.m) h).trace.act = false := by
          rw [(lossOfProgram_frame h k _ s.m h k).2]; exact htr
        rw [traceEvent_off htr', endProgram_runs (inv := inv) (by rw [(lossOfProgram_frame h k _ s.m h k).1]; exact hr)]
    case faulted =>
      intro inv cause c pc hr hs ht hb
      have hr : (seqAt s.m h k).run = some inv := hr
      have hs : (seqAt s.m h k).stop = some (.fault cause c pc) := hs
      have ht : (seqAt s.m h k).txns = [] := ht
      have hb : (seqAt s.m h k).busy = 0 := hb
      simp only [run, settled, hs, ht, hb, List.isEmpty_nil, beq_self_eq_true, Bool.and_self, Bool.not_true, Bool.false_eq_true, if_false]
      refine ⟨fun ho hc => ?_, fun ho hd => ?_⟩
      · rw [if_pos]
        simpa using ⟨hc, ho⟩
      · have hd : (seqAt s.m h k).discs = [] := hd
        rw [if_neg (by simpa [or_comm, imp_iff_not_or] using ho), hd, endProgram_runs (inv := inv) (by rw [(lossOfProgram_frame h k _ s.m h k).1]; exact hr)]
        rfl
  · refine ⟨rfl, rfl, rfl, rfl, startA3_append r, fun i hi => ?_, rfl, rfl, rfl, rfl⟩
    have hn : ¬ 1 = i.val ∧ ¬ 2 = i.val ∧ ¬ 3 = i.val := by omega
    obtain ⟨h1, h2, h3⟩ := hn
    simp only [regA, startSeq, Fin.getElem_fin, Vector.getElem_set, Vector.getElem_replicate, h1, h2, h3, if_false, ite_self]

end Sys2Proof.Machine
end

section
/-!
Changes of one part of the slice in a row, and changes that agree on the part as it stands.
-/

namespace Sys2Proof.Machine

variable {m : Mach}

theorem modHalf_modHalf (h : Half) (f f' : HalfSt → HalfSt) (m : Mach) : modHalf h f (modHalf h f' m) = modHalf h (fun x => f (f' x)) m := by
  simp [modHalf, setHalf, halfAt, Vector.set_set]

theorem modHalf_congr {h : Half} {f f' : HalfSt → HalfSt} (e : f (halfAt m h) = f' (halfAt m h)) : modHalf h f m = modHalf h f' m := by
  simp only [modHalf, e]

/-- A change of a half that changes nothing. -/
theorem modHalf_eq_self {h : Half} {f : HalfSt → HalfSt} (e : f (halfAt m h) = halfAt m h) : modHalf h f m = m := by
  rw [modHalf, e, setHalf]
  simp [halfAt]

theorem modChan_modChan (c : Half) (f f' : MemChan → MemChan) (m : Mach) : modChan c f (modChan c f' m) = modChan c (fun x => f (f' x)) m := by
  simp [modChan, Vector.set_set]

theorem modChan_congr {c : Half} {f f' : MemChan → MemChan} (e : f (chanAt m c) = f' (chanAt m c)) : modChan c f m = modChan c f' m := by
  have e : f m.chans[c] = f' m.chans[c] := e
  simp only [modChan, e]

theorem modAnv_modAnv (h : Half) (f f' : Anvil → Anvil) (m : Mach) : modAnv h f (modAnv h f' m) = modAnv h (fun x => f (f' x)) m := by
  simp [modAnv, Vector.set_set]

theorem modAnv_congr {h : Half} {f f' : Anvil → Anvil} (e : f (anvAt m h) = f' (anvAt m h)) : modAnv h f m = modAnv h f' m := by
  have e : f m.anvs[h] = f' m.anvs[h] := e
  simp only [modAnv, e]

end Sys2Proof.Machine
end

section
/-!
Request ports and waits (O7 to O13): one beat at a free port is `takeReq_free` and the parse of its request.
-/

namespace Sys2Proof.Machine

/-! ## REQ beats -/

/-- Every row of Table 2.6 is the REQ beat of its opcode. -/
theorem exec_reqRow {c : Instr} {o : Op} {p : PortIx} {b : ReqBeat} (h : reqRow c = some (o, p, b)) (s : State) :
    exec c s = reqBeat (opcBits o) p b s := by
  cases c <;> simp only [reqRow, Option.some.injEq, Prod.mk.injEq, reduceCtorEq] at h <;> (obtain ⟨rfl, rfl, rfl⟩ := h; rfl)

/-- The opcodes of the rows of Table 2.6 are read back. -/
theorem opOfBits_reqRow {c : Instr} {o : Op} {p : PortIx} {b : ReqBeat} (h : reqRow c = some (o, p, b)) : opOfBits (opcBits o) = some o := by
  cases c <;> simp only [reqRow, Option.some.injEq, Prod.mk.injEq, reduceCtorEq] at h <;> (obtain ⟨rfl, -, -⟩ := h; rfl)

/-- Settles O7: every row of Table 2.6 is `reqBeat`. -/
theorem requestWithoutACreditFaults : Obligations.RequestWithoutACreditFaults := by
  intro c o p b s hc hclk hen hj h0
  have h0 : (if b.lane then (portAt s.m p).avail.req1 else (portAt s.m p).avail.req0) = 0 := h0
  simp only [exec_reqRow hc, reqBeat, hclk, hen, hj, h0, Bool.not_true, Bool.and_false, Bool.false_eq_true, if_false, beq_self_eq_true, Bool.and_self,
    if_true]

section Free

variable {s : State} {p : PortIx} {b : ReqBeat} (hf : portFree s p b)

include hf in
/-- A beat at a free port is taken and parsed. -/
theorem reqBeat_free (opc : BitVec 6) :
    reqBeat opc p b s = .next (settled s (parseReq s.regs p (inBeat s.regs p opc b s.m) (beatIn p b (beatsOf opc b.size) s.m))) := by
  obtain ⟨haw, htl, hst, hen, hj, hcr, h0, h1, hx, hw, hwi⟩ := hf
  have hclk : clocked s.m (portHalf p) = true := by simp [clocked, haw]
  have hcr : ¬ (if b.lane then (portAt s.m p).avail.req1 else (portAt s.m p).avail.req0) = 0 := hcr
  simp only [reqBeat, hclk, hen, hj, Bool.not_true, Bool.and_false, Bool.false_eq_true, if_false, Bool.true_and, beq_iff_eq, hcr, run,
    takeReq_free htl hst h0 h1 hx hw hwi]
  rfl

include hf in
/-- No TXN is outstanding on a free port. -/
theorem txnOut_free (txn : BitVec 10) : txnOut (portAt s.m p) txn = false := by
  obtain ⟨-, -, -, -, -, -, h0, h1, hx, -, -⟩ := hf
  simp [txnOut, unparsed, h0, h1, hx]

include hf in
/-- The beat of a free port as it stands in the ingress buffer. -/
theorem inBeat_free {opc : BitVec 6} {o : Op} (ho : (opOfBits opc).getD .rdNc = o) :
    inBeat s.regs p opc b s.m = ⟨opc, b, true, s.regs.detEn, false, portReq s p o b⟩ := by
  subst ho
  obtain ⟨-, -, -, hen, -⟩ := id hf
  simp only [inBeat, txnOut_free hf, hen, portReq]

include hf in
/-- The port once the beat has been taken: no transaction and no other beat. -/
theorem beatIn_port (need : Nat) : let y := portAt (beatIn p b need s.m) p
    y.in0 = [] ∧ y.in1 = [] ∧ y.txns = [] ∧ y.caching = (portAt s.m p).caching := by
  obtain ⟨-, -, -, -, -, -, h0, h1, hx, -, -⟩ := hf
  have hy : portAt (beatIn p b need s.m) p = (fun x => { takeReqCredit b.lane x with
      laneRun := if b.lane then x.laneRun + 1 else 0, wd := if need = 0 then [] else [(s.m.nextId, need, 0)] }) (portAt s.m p) := by
    simp only [portAt, beatIn, modPort, vector_get_set, if_true]
  simp only [hy, takeReqCredit_in0, takeReqCredit_in1, takeReqCredit_txns, takeReqCredit_caching]
  exact ⟨h0, h1, hx, trivial⟩

/-- The request of the beat is held: its label is regulated and has no level (R417). -/
def isHeld (s : State) (r : Req) : Bool := !r.lane && regulated s.regs r && decide (levelOf s.m r.label < 1)

theorem isHeld_of_notHeld {r : Req} (h : notHeld s r) : isHeld s r = false := by
  obtain h | h | h := h <;> simp [isHeld, h]

include hf in
/-- The parse of a request that passes its checks at a free port: the transaction is held, or may enter the pipeline. -/
theorem parseReq_passes {o : Op} (ho : opOfBits (opcBits o) = some o) (hp : parsed s p o b) :
    parseReq s.regs p (inBeat s.regs p (opcBits o) b s.m) (beatIn p b (beatsOf (opcBits o) b.size) s.m)
      = if isHeld s (portReq s p o b) then beatHeld s p b ⟨portReq s p o b, .held, wdBeats o b.size.toNat, false⟩
        else enterReady s.regs p (beatParsed s p b ⟨portReq s p o b, .ranged, wdBeats o b.size.toNat, false⟩) := by
  have hn : beatsOf (opcBits o) b.size = wdBeats o b.size.toNat := by simp only [beatsOf, ho]
  obtain ⟨-, -, hx, hc⟩ := beatIn_port hf (wdBeats o b.size.toNat)
  have hop : (portReq s p o b).op = o := rfl
  have hlev : levelOf (beatIn p b (wdBeats o b.size.toNat) s.m) (portReq s p o b).label = levelOf s.m (portReq s p o b).label := rfl
  have hheld : heldOn (portAt (beatIn p b (wdBeats o b.size.toNat) s.m) p) = [] := by simp [heldOn, hx]
  have hcode : parseCode s.regs (beatIn p b (wdBeats o b.size.toNat) s.m) true s.regs.detEn
      (b.rsv != 0 || (needsCache o && !(portAt s.m p).caching)) (portReq s p o b) = none := hp
  have hone (t : Txn) : modPort p (fun y => { y with txns := y.txns ++ [t] }) (beatIn p b (wdBeats o b.size.toNat) s.m)
      = modPort p (fun y => { y with txns := [t] }) (beatIn p b (wdBeats o b.size.toNat) s.m) := modPort_congr (by rw [hx]; rfl)
  rw [inBeat_free hf (o := o) (by rw [ho]; rfl), hn]
  simp only [parseReq, ho, hop, hn, hc, hcode, hheld, hlev, hone, Option.isNone_some, Option.isSome_some, Bool.false_or, Bool.or_false, Bool.and_true,
    Option.isNone_none, Bool.true_and, List.any_nil]
  cases hh : isHeld s (portReq s p o b) <;> simp only [isHeld] at hh <;> simp only [hh, if_true, Bool.false_eq_true, if_false] <;> rfl

/-- A transaction of the beat stands alone on its port. -/
theorem beatParsed_port (t : Txn) : portAt (beatParsed s p b t) p = oneTxn t (portAt (beatIn p b (wdBeats t.req.op b.size.toNat) s.m) p) := by
  have hh : portAt (beatHeld s p b t) p = oneTxn t (portAt (beatIn p b (wdBeats t.req.op b.size.toNat) s.m) p) := portAt_modPort _ p _
  unfold beatParsed
  split <;> exact hh

/-- The phase of the transaction changes. -/
theorem modPort_beatParsed {t t' : Txn} (ht : t'.req = t.req) : modPort p (oneTxn t') (beatParsed s p b t) = beatParsed s p b t' := by
  have hh : modPort p (oneTxn t') (beatHeld s p b t) = beatHeld s p b t' := by
    simp only [beatHeld, modPort_modPort, ht]
    rfl
  unfold beatParsed
  rw [ht]
  split
  · exact congrArg (deduct t.req) hh
  · exact hh

end Free

/-- Settles O8: the parse by `parseReq_passes`, then `enterReady_one` or `enterReady_waits`. -/
theorem parsedRequestGoesOnOrIsHeld : Obligations.ParsedRequestGoesOnOrIsHeld := by
  intro c o p b s hc hf hp
  have ho := opOfBits_reqRow hc
  rw [exec_reqRow hc, reqBeat_free hf, parseReq_passes hf ho hp]
  obtain ⟨h0, h1, -, -⟩ := beatIn_port hf (wdBeats o b.size.toNat)
  have hport (t : Txn) := beatParsed_port (s := s) (p := p) (b := b) t
  refine ⟨fun hh => ?_, fun hl hr hlev => ?_⟩
  · simp only [isHeld_of_notHeld hh, Bool.false_eq_true, if_false]
    refine ⟨fun hz => ?_, fun hz => ?_⟩
    · rw [enterReady_one (t := ⟨portReq s p o b, .ranged, wdBeats o b.size.toNat, false⟩) (by rw [hport]; rfl) (by rw [hport]; exact h0)
        (by rw [hport]; exact h1) rfl hz, modPort_beatParsed (by rfl), hz]
    · rw [enterReady_waits (t := ⟨portReq s p o b, .ranged, wdBeats o b.size.toNat, false⟩) (by rw [hport]; rfl) hz]
  · have hh : isHeld s (portReq s p o b) = true := by simpa [isHeld] using ⟨⟨hl, hr⟩, hlev⟩
    simp only [hh, if_true]

/-! ## A reserved opcode -/

/-- Settles O9: the parse refuses the request, whose data are no beats. -/
theorem reservedOpcodeIsRefused : Obligations.ReservedOpcodeIsRefused := by
  intro p opc b s hopc hf hsafe
  have hn : beatsOf opc b.size = 0 := by simp only [beatsOf, hopc]
  obtain ⟨-, -, hx, -⟩ := beatIn_port hf 0
  have hs : homeSafe (beatIn p b 0 s.m) (portReq s p .rdNc b) = false := hsafe
  have hcode (m : Mach) (hm : homeSafe m (portReq s p .rdNc b) = false) :
      parseCode s.regs m true s.regs.detEn true (portReq s p .rdNc b) = some .errDecode := by
    simp only [parseCode, hm, Bool.true_or, if_true, Bool.false_eq_true, if_false]
  have hone (t : Txn) : modPort p (fun y => { y with txns := y.txns ++ [t] }) (beatIn p b 0 s.m)
      = modPort p (fun y => { y with txns := [t] }) (beatIn p b 0 s.m) := modPort_congr (by rw [hx]; rfl)
  change reqBeat opc p b s = _
  rw [reqBeat_free hf, inBeat_free hf (o := .rdNc) (by rw [hopc]; rfl), hn]
  simp only [parseReq, hopc, hn, Option.isNone_none, Bool.true_or, hcode _ hs, hone]
  rfl

/-! ## WD beats -/

theorem addBeat_id (r : Req) (k : Nat) (b : WdBeat) : (addBeat r k b).id = r.id := by
  unfold addBeat
  split <;> rfl

section WriteBeat

variable {s : State} {p : PortIx} {t : Txn} {n k : Nat} {b : WdBeat} (hr : wdReady s p t n k)

include hr in
/-- A WD beat goes to the one transaction that waits for beats. -/
theorem wdBeat_taken : exec (.wdBeat p b) s = .next (settled s (takeWd s.regs p t.req.id n k t b (modPort p wdPort s.m))) := by
  obtain ⟨haw, htl, hen, hj, hcr, h0, h1, hwi, hsk, hx, hw, hph⟩ := hr
  have hclk : clocked s.m (portHalf p) = true := by simp [clocked, haw]
  have hrest : modPort p (fun x => { x with wdIn := [] }) (modPort p (fun x => { x with
      avail := { x.avail with wd := x.avail.wd - 1 }, owed := { x.owed with wd := x.owed.wd + 1 }, wdIn := x.wdIn ++ [b] }) s.m)
      = modPort p wdPort s.m := by
    rw [modPort_modPort]
    exact modPort_congr (by simp only [wdPort, hwi])
  have hskip : (wdPort (portAt s.m p)).wdSkip = false := hsk
  change execWdBeat p b s = _
  simp only [execWdBeat, hclk, hen, hj, beq_eq_false_iff_ne.mpr hcr, Bool.not_true, Bool.and_false, Bool.false_eq_true, if_false, run, wdTake, takeBeat,
    modPort_halfAt, htl, drainPort, drainIngress, portAt_modPort, h0, h1, hwi, List.nil_append, List.length_nil, Nat.add_zero, ingressLoop,
    List.length_singleton, wdLoop, hw, hx, List.find?_cons, beq_self_eq_true, hskip, hrest]
  rfl

/-- The transaction with all its data. -/
def fullTxn (t : Txn) (k : Nat) (b : WdBeat) : Txn := { t with req := addBeat t.req k b, need := 0 }

include hr in
/-- The last beat lets the request enter the pipeline. -/
theorem beatsDone_last (g : Regs) : beatsDone g p t.req.id (modTxn p t.req.id (fun t => { t with req := addBeat t.req k b }) (modPort p wdPort s.m))
    = enterReady g p (modPort p (fun x => { wdPort x with wd := [], txns := [fullTxn t k b] }) s.m) := by
  obtain ⟨-, -, -, -, -, -, -, -, -, hx, hw, hph⟩ := hr
  have hm : modPort p (fun x => { x with wd := x.wd.filter fun y => y.1 != t.req.id }) (modTxn p t.req.id (fun t => { t with need := 0 })
      (modTxn p t.req.id (fun t => { t with req := addBeat t.req k b }) (modPort p wdPort s.m)))
      = modPort p (fun x => { wdPort x with wd := [], txns := [fullTxn t k b] }) s.m := by
    unfold modTxn
    rw [modPort_modPort, modPort_modPort, modPort_modPort]
    exact modPort_congr (by simp [wdPort, hx, hw, addBeat_id, fullTxn])
  simp only [beatsDone, hm, portAt_modPort, List.find?_singleton, fullTxn, addBeat_id, beq_self_eq_true, if_true, hph]

end WriteBeat

/-- Settles O10: the beat reaches its transaction by `wdBeat_taken`; with the last one the port holds one full transaction. -/
theorem writeBeatsJoinTheirRequest : Obligations.WriteBeatsJoinTheirRequest := by
  intro p b s t n k hr hb
  rw [wdBeat_taken hr]
  obtain ⟨-, -, -, -, -, h0, h1, -, -, hx, hw, hph⟩ := id hr
  refine ⟨fun hk hl => ?_, fun hk hl => ?_⟩
  · have hfits : (t.req.txn == b.txn && false == decide (k + 1 = n)) = true := by simp [hb]; omega
    simp only [takeWd, hph, hl, hfits, if_true, Bool.false_eq_true, if_false]
    unfold modTxn
    rw [modPort_modPort, modPort_modPort]
    exact congrArg (fun m => Host.Outcome.next (settled s m)) (modPort_congr (by simp [wdPort, hw, hx, hph]))
  · have hfits : (t.req.txn == b.txn && true == decide (k + 1 = n)) = true := by simp [hb, hk]
    simp only [takeWd, hph, hl, hfits, if_true]
    rw [beatsDone_last hr, enterReady_one (t := fullTxn t k b) (by rw [portAt_modPort]) (by rw [portAt_modPort]; exact h0)
      (by rw [portAt_modPort]; exact h1) hph rfl, modPort_modPort]
    rfl

/-! ## Snoop responses, transfers, credits, releases -/

/-- Settles O11. -/
theorem snoopResponseReachesItsDecider : Obligations.SnoopResponseReachesItsDecider := by
  intro p stxn had s x haw htl hcr hx
  have hclk : clocked s.m (portHalf p) = true := by simp [clocked, haw]
  change execSrsp p stxn had s = _
  simp only [execSrsp, hclk, beq_eq_false_iff_ne.mpr hcr, Bool.not_true, Bool.and_false, Bool.false_eq_true, if_false, run, srspTake, takeBeat,
    modPort_halfAt, htl, portAt_modPort, hx, modPort_modPort]
  rfl

/-- Settles O12. -/
theorem portEventsHappen : Obligations.PortEventsHappen := by
  refine ⟨fun p s hclk => ?_, fun p c s x hclk hen hj hx => ?_, fun p s t hst hclk hn hc => ?_⟩
  · intro free
    dsimp only [exec, execCompletionTransfer]
    refine ⟨?rsp, ?rd, ?rdLast, ?place, ?snp⟩
    case rsp =>
      intro c hc
      simp only [run, settled, hclk, rspTransfer, hc, Bool.not_true, Bool.false_eq_true, if_false]
    case rd =>
      intro c hc
      simp only [run, settled, hclk, rdTransfer, hc, Bool.not_true, Bool.false_eq_true, if_false, Bool.not_false, Bool.and_true]
      rfl
    case rdLast =>
      intro c hc
      simp only [run, settled, hclk, rdTransfer, hc, Bool.not_true, Bool.false_eq_true, if_false, Bool.and_false]
      rfl
    case place =>
      intro id stxn inst gen d second hc
      cases second with
      | false =>
        simp only [run, settled, hclk, rdTransfer, hc, twoBeats, Bool.not_true, Bool.not_false, Bool.false_eq_true, if_false, if_true, Bool.and_self]
      | true =>
        simp only [run, settled, hclk, rdTransfer, hc, Bool.not_true, Bool.false_eq_true, if_false, if_true, Bool.and_false]
        rfl
    case snp =>
      intro x rest hx
      simp only [run, settled, hclk, snpTransfer, hx, Bool.not_true, Bool.false_eq_true, if_false]
      refine congrArg (fun m => Host.Outcome.next { s with m := settle s.regs m }) ?_
      by_cases hk : x.snoop.kind = .place
      · simp only [hk, beq_self_eq_true, if_true]
        rfl
      · simp only [beq_eq_false_iff_ne.mpr hk, hk, Bool.false_eq_true, if_false]
        rfl
  · dsimp only [exec, execCreditReturn]
    simp only [run, settled, hclk, hen, hj, hx, Bool.not_true, Bool.or_self, Bool.false_eq_true, if_false]
  · dsimp only [exec, execHoldRelease]
    simp only [run, settled, hclk, hst, hn, releaseHeld, hc, Bool.not_true, Bool.or_self, Bool.false_eq_true, if_false]

/-- Settles O13. -/
theorem waitsEnd : Obligations.WaitsEnd := by
  refine ⟨?order, ?dead, ?window, ?refetch, ?misses, ?prefetch⟩
  case order =>
    intro h s r rest hclk hs hn
    dsimp only [exec, execOrderPointWaitEnd]
    simp only [run, settled, hclk, hn, halfAt_modHalf, hs, Bool.not_true, Bool.false_eq_true, if_false, Bool.false_and]
  case dead =>
    intro p stxn s hx
    dsimp only [exec, execSnoopTimeout]
    simp only [run, settled, hx, if_true]
  case window =>
    intro h l s w hw hl hx
    dsimp only [exec, execHoldWindowEnd]
    have hkeep : modHalf h (fun hs => { hs with wins := hs.wins.filter fun w => w.line != l }) s.m = modHalf h (fun hs => { hs with wins := [] }) s.m :=
      modHalf_congr (by simp [hw, hl])
    have hmine : ((halfAt s.m h).wins.filter fun w => w.line == l) = [w] := by simp [hw, hl]
    simp only [run, settled, hkeep, hmine, List.foldl_cons, List.foldl_nil, hx]
  case refetch =>
    intro h s l hl hc
    dsimp only [exec, execMissWaitRelease]
    have hc' : chanJoined (modHalf h (fun hs => { hs with refetch := hs.refetch.erase l }) s.m) h = true := hc
    simp only [run, settled, hl, releaseRefetch, hc', if_true]
  case misses =>
    intro h s r hr hw
    dsimp only [exec, execMissWaitRelease]
    simp only [run, settled, hr, List.find?_nil, List.contains_nil, Bool.not_false, Bool.and_true, hw, releaseMisses, List.partition_eq_filter_filter]
    have hrest : modHalf h (fun hs => { hs with missWait := (halfAt s.m h).missWait.filter (not ∘ fun x => lineOf x.addr == lineOf r.addr) }) s.m
        = modHalf h (fun hs => { hs with missWait := hs.missWait.filter fun x => lineOf x.addr != lineOf r.addr }) s.m :=
      modHalf_congr rfl
    rw [hrest]
    rfl
  case prefetch =>
    intro h s r rest hst hclk hs hp
    dsimp only [exec, execBellowsPrefetch]
    simp only [run, settled, hst, hclk, hp, halfAt_modHalf, hs, Bool.not_true, Bool.or_self, Bool.false_eq_true, if_false]

end Sys2Proof.Machine
end

section
/-!
The management port: accesses that wait and return, and the indirect pair (O15, O19, O20).
-/

namespace Sys2Proof.Machine

/-! ## Accesses -/

/-- The slice with another queue of accesses. -/
def withQueue (q : List Access) (m : Mach) : Mach := { m with mg := { m.mg with q := q } }

/-- What a register reads does not depend on the queue of the port. -/
theorem regRead_withQueue (q : List Access) (g : Regs) (m : Mach) (off : Nat) : regRead g (withQueue q m) off = regRead g m off := rfl

theorem withQueue_self {q : List Access} {m : Mach} (hq : m.mg.q = q) : withQueue q m = m := by
  rw [withQueue, ← hq]

theorem clocked_of_awake {m : Mach} {h : Half} (ha : (halfAt m h).pw.awake = true) : clocked m h = true := by simp [clocked, ha]

/-- With no queued access, and its halves AWAKE, a read returns at once. -/
theorem serveReads_one {m : Mach} {a : BitVec 18} {g : Regs} (hq : m.mg.q = []) (hi : offsetOf a ≠ indData)
    (ha : ∀ h ∈ neededHalves m (wordOff (offsetOf a)), (halfAt m h).pw.awake = true) :
    serveReads 4 g (modMg (enqueue (.read a)) m) = emit (.mrsp a (regRead g m (offsetOf a))) m := by
  have hmg : modMg (enqueue (.read a)) m = withQueue [.read a] m := by simp [modMg, enqueue, hq, withQueue]
  have hwake : wakeHalves (neededHalves (withQueue [.read a] m) (wordOff (offsetOf a))) (withQueue [.read a] m) = withQueue [.read a] m :=
    wakeHalves_awake ha
  have hall : ((neededHalves (withQueue [.read a] m) (wordOff (offsetOf a))).all (clocked (withQueue [.read a] m))) = true :=
    List.all_eq_true.mpr fun h hh => clocked_of_awake (ha h hh)
  have hfront : (withQueue [.read a] m).mg.q = [.read a] := rfl
  have hout (o : Output) : emit o (modMg (fun x => { x with q := [] }) (withQueue [.read a] m)) = emit o m :=
    congrArg (emit o) (withQueue_self hq)
  have hempty (o : Output) : (emit o m).mg.q = [] := hq
  rw [hmg]
  unfold serveReads
  simp only [hfront, beq_eq_false_iff_ne.mpr hi, Bool.false_eq_true, if_false, hwake, hall, if_true, regRead_withQueue, hout]
  unfold serveReads
  simp only [hempty]

/-- Settles O15. -/
theorem accessesWaitAndReturn : Obligations.AccessesWaitAndReturn := by
  refine ⟨fun a v k s => ⟨fun ho hf => ?full, fun hr => ?reads, fun ho => ?paired⟩, fun a s => ⟨fun ht hq ha hi => ?front, fun b v q ht hq hr => ?behind⟩⟩
  case full =>
    have hw : writeReady a s.m.mg = false := by simp only [writeReady, ho, Option.isSome_none, Bool.false_or, decide_eq_false_iff_not, Nat.not_lt, hf]
    change execMgmtWrite a v k s = _
    simp only [execMgmtWrite, hw, Bool.false_and, Bool.false_eq_true, if_false]
  case reads =>
    have hw : readReady s.m.mg = false := by simp only [readReady, decide_eq_false_iff_not, Nat.not_lt, hr]
    change execMgmtRead a s = _
    simp only [execMgmtRead, hw, Bool.false_and, Bool.false_eq_true, if_false]
  case paired => simp only [writeReady, Option.isSome_iff_ne_none.mpr ho, Bool.true_or]
  case front =>
    have hr : readReady s.m.mg = true := by simp [readReady, queuedReads, hq]
    change execMgmtRead a s = _
    simp only [execMgmtRead, hr, ht, Bool.not_false, Bool.and_self, if_true, serveReads_one hq hi ha]
  case behind =>
    have hr : readReady s.m.mg = true := by simp only [readReady, decide_eq_true_eq, hr]
    change execMgmtRead a s = _
    simp only [execMgmtRead, hr, ht, Bool.not_false, Bool.and_self, if_true, modMg, enqueue, hq, List.cons_append, serveReads]

/-! ## The indirect pair -/

/-- Settles O19. -/
theorem indirectPairMovesAndCaptureEnds : Obligations.IndirectPairMovesAndCaptureEnds := by
  refine ⟨fun s a q ho ha => ?_, fun s v hv => ?_⟩
  · intro moved m
    have hmoved : moved = stepInd := by
      funext g
      simp only [moved, stepInd]
      split <;> rfl
    have hoff : (offsetOf a != indData) = false := by rw [ho]; rfl
    have hready : indReady s.regs s.m = (s.m, true) := by
      have hall : ((indHalves s.m (indOffset s.regs)).all (clocked s.m)) = true := List.all_eq_true.mpr fun h hh => clocked_of_awake (ha h hh)
      have hw : wakeHalves (indHalves s.m (indOffset s.regs)) s.m = s.m := wakeHalves_awake ha
      simp only [indReady, hw, hall]
    rw [hmoved]
    refine ⟨fun hq => ?_, fun v hq => ?_⟩
    · change execIndDataRead s = _
      simp only [execIndDataRead, hq, hoff, Bool.false_eq_true, if_false, hready, Bool.not_true]
      rfl
    · change execIndDataWrite s = _
      simp only [execIndDataWrite, hq, hoff, Bool.false_eq_true, if_false, hready, Bool.not_true]
      rfl
  · change execMailboxCaptureDone s = _
    have ht : takeSample s.regs s.m = s.m := by simp [takeSample, hv]
    simp only [execMailboxCaptureDone, ht, hv, modMg]

end Sys2Proof.Machine
end

section
/-!
The stores behind the indirect pair (O20): where an address lies, what a read of it gives, what a write of it changes.
-/

namespace Sys2Proof.Machine

/-! ## Areas -/

theorem areaHalf_none {base size a : Nat} (h : ¬ (base ≤ a ∧ a < base + 2 * size)) : areaHalf base size a = none := by
  simp only [areaHalf, Bool.and_eq_true, decide_eq_true_eq, if_neg h]

theorem areaHalf_some {base size a : Nat} (h : base ≤ a ∧ a < base + 2 * size) : areaHalf base size a = some (halfIx ((a - base) / size)) := by
  simp only [areaHalf, Bool.and_eq_true, decide_eq_true_eq, if_pos h]

theorem halfIx_val {n : Nat} (h : n < 2) : (halfIx n).val = n := by
  unfold halfIx
  split
  next h0 => simp at h0; simp [h0]
  next h0 => simp at h0; simp; omega

/-- The place of a word in the store of its half and sequencer. -/
theorem seqIx_val (h k : Half) : (seqIx h k).val = 2 * h.val + k.val := rfl

/-- An address of the program stores belongs to the half of that area. -/
theorem indHalf_store {a : Nat} {h : Half} (h6 : areaHalf 0x60000 0x2000 a = none) (h7 : areaHalf 0x70000 0x4000 a = none)
    (h8 : areaHalf 0x80000 0x4000 a = none) (h10 : areaHalf 0x100000 0x8000 a = some h) (h4 : ¬ (0x40000 ≤ a ∧ a < 0x50000)) : indHalf a = some h := by
  simp only [indHalf, Bool.and_eq_true, decide_eq_true_eq, h4, if_false, h6, h7, h8, h10, Option.none_or, Option.some_or]

/-- An address of the constant pools belongs to the half of that area. -/
theorem indHalf_pool {a : Nat} {h : Half} (h6 : areaHalf 0x60000 0x2000 a = none) (h7 : areaHalf 0x70000 0x4000 a = none)
    (h8 : areaHalf 0x80000 0x4000 a = none) (h10 : areaHalf 0x100000 0x8000 a = none) (h11 : areaHalf 0x110000 0x2000 a = some h)
    (h4 : ¬ (0x40000 ≤ a ∧ a < 0x50000)) : indHalf a = some h := by
  simp only [indHalf, Bool.and_eq_true, decide_eq_true_eq, h4, if_false, h6, h7, h8, h10, h11, Option.none_or, Option.some_or]

section Indirect

variable {a : Nat} {g : Regs} {m : Mach}

section Store

variable (hlo : 0x100000 ≤ a) (hhi : a < 0x110000)

include hlo hhi

/-- An address of the program stores. -/
theorem store_areas : areaHalf 0x60000 0x2000 a = none ∧ areaHalf 0x70000 0x4000 a = none ∧ areaHalf 0x80000 0x4000 a = none
    ∧ areaHalf 0x100000 0x8000 a = some (halfIx ((a - 0x100000) / 0x8000)) ∧ areaHalf 0x1000000 0x400000 a = none
    ∧ areaHalf 0x2000000 0x200000 a = none := by
  refine ⟨areaHalf_none ?_, areaHalf_none ?_, areaHalf_none ?_, areaHalf_some ?_, areaHalf_none ?_, areaHalf_none ?_⟩ <;> omega

theorem store_half : (indHalf a).getD 0 = halfIx ((a - 0x100000) / 0x8000) := by
  obtain ⟨h6, h7, h8, h10, -, -⟩ := store_areas hlo hhi
  rw [indHalf_store h6 h7 h8 h10 (by omega), Option.getD_some]

theorem store_key : storeKey (halfIx ((a - 0x100000) / 0x8000)) (halfIx ((a - 0x100000) / 0x4000 % 2)) (a % 0x4000 / 4) = (a - 0x100000) / 4 := by
  rw [storeKey, seqIx_val, halfIx_val (by omega), halfIx_val (by omega)]
  omega

/-- What a read of a program store gives, without errors. -/
theorem indRead_store (hf : frugal m = false) (he : m.ras.errs = []) : indRead g a m = (tabGet 0 g.store ((a - 0x100000) / 4), m) := by
  obtain ⟨h6, h7, h8, h10, hv, hw⟩ := store_areas hlo hhi
  have h1 : ¬ (0x10000 ≤ a ∧ a < 0x10050) := by omega
  have h4 : ¬ (0x40000 ≤ a ∧ a < 0x50000) := by omega
  simp only [indRead, indDead, hf, Bool.false_and, Bool.false_eq_true, if_false, hv, hw, progRead_clean he, indPlain, Bool.and_eq_true, decide_eq_true_eq,
    h1, h4, h6, h7, h8, h10, Option.isSome_none, Option.isSome_some, if_true, store_half hlo hhi, storeSeen_clean he, storeWord, store_key hlo hhi]

/-- A write of a program store changes its word, without an injection. -/
theorem indWrite_store (hf : frugal m = false) (he : m.ras.errs = []) (ha : m.ras.armed = false) (v : BitVec 32) :
    indWrite a v (g, m) = ({ g with store := tabSet 0 g.store ((a - 0x100000) / 4) v }, m) := by
  obtain ⟨-, -, -, h10, -, -⟩ := store_areas hlo hhi
  have h1 : ¬ (0x10000 ≤ a ∧ a < 0x10050) := by omega
  have h4 : ¬ (0x40000 ≤ a ∧ a < 0x50000) := by omega
  simp only [indWrite, indDead, hf, Bool.false_and, Bool.false_eq_true, if_false, Bool.and_eq_true, decide_eq_true_eq, h1, h4, h10, Option.isSome_some, if_true,
    store_half hlo hhi, store_key hlo hhi, onMach, onRegs, noteWrite, ha, he, List.isEmpty_nil]

end Store

section Pool

variable (hlo : 0x110000 ≤ a) (hhi : a < 0x114000)

include hlo hhi

/-- An address of the constant pools. -/
theorem pool_areas : areaHalf 0x60000 0x2000 a = none ∧ areaHalf 0x70000 0x4000 a = none ∧ areaHalf 0x80000 0x4000 a = none
    ∧ areaHalf 0x100000 0x8000 a = none ∧ areaHalf 0x110000 0x2000 a = some (halfIx ((a - 0x110000) / 0x2000))
    ∧ areaHalf 0x1000000 0x400000 a = none ∧ areaHalf 0x2000000 0x200000 a = none := by
  refine ⟨areaHalf_none ?_, areaHalf_none ?_, areaHalf_none ?_, areaHalf_none ?_, areaHalf_some ?_, areaHalf_none ?_, areaHalf_none ?_⟩ <;> omega

theorem pool_half : (indHalf a).getD 0 = halfIx ((a - 0x110000) / 0x2000) := by
  obtain ⟨h6, h7, h8, h10, h11, -, -⟩ := pool_areas hlo hhi
  rw [indHalf_pool h6 h7 h8 h10 h11 (by omega), Option.getD_some]

theorem pool_key : poolKey (halfIx ((a - 0x110000) / 0x2000)) (halfIx ((a - 0x110000) / 0x1000 % 2)) (a % 0x1000 / 4) = (a - 0x110000) / 4 := by
  rw [poolKey, seqIx_val, halfIx_val (by omega), halfIx_val (by omega)]
  omega

/-- What a read of a constant pool gives, without errors. -/
theorem indRead_pool (hf : frugal m = false) (he : m.ras.errs = []) : indRead g a m = (tabGet 0 g.pool ((a - 0x110000) / 4), m) := by
  obtain ⟨h6, h7, h8, h10, h11, hv, hw⟩ := pool_areas hlo hhi
  have h1 : ¬ (0x10000 ≤ a ∧ a < 0x10050) := by omega
  have h4 : ¬ (0x40000 ≤ a ∧ a < 0x50000) := by omega
  simp only [indRead, indDead, hf, Bool.false_and, Bool.false_eq_true, if_false, hv, hw, progRead_clean he, indPlain, Bool.and_eq_true, decide_eq_true_eq,
    h1, h4, h6, h7, h8, h10, h11, Option.isSome_none, Option.isSome_some, if_true, pool_half hlo hhi, poolSeen_clean he, poolWord, pool_key hlo hhi]

/-- A write of a constant pool changes its word, without an injection. -/
theorem indWrite_pool (hf : frugal m = false) (he : m.ras.errs = []) (ha : m.ras.armed = false) (v : BitVec 32) :
    indWrite a v (g, m) = ({ g with pool := tabSet 0 g.pool ((a - 0x110000) / 4) v }, m) := by
  obtain ⟨-, -, -, h10, h11, -, -⟩ := pool_areas hlo hhi
  have h1 : ¬ (0x10000 ≤ a ∧ a < 0x10050) := by omega
  have h4 : ¬ (0x40000 ≤ a ∧ a < 0x50000) := by omega
  simp only [indWrite, indDead, hf, Bool.false_and, Bool.false_eq_true, if_false, Bool.and_eq_true, decide_eq_true_eq, h1, h4, h10, h11, Option.isSome_none,
    Option.isSome_some, if_true, pool_half hlo hhi, pool_key hlo hhi, onMach, onRegs, noteWrite, ha, he, List.isEmpty_nil]

end Pool

section Label

variable (hlo : 0x40000 ≤ a) (hhi : a < 0x50000)

include hlo hhi

/-- What a read of a shadow label gives. -/
theorem indRead_label (hf : frugal m = false) (he : m.ras.errs = []) (hs : g.lblSrc = false) :
    indRead g a m = (labelRead (tabGet LabelCtx.off g.shadow ((a - 0x40000) / 16)) (a / 4 % 4), m) := by
  have h1 : ¬ (0x10000 ≤ a ∧ a < 0x10050) := by omega
  have hv : areaHalf 0x1000000 0x400000 a = none := areaHalf_none (by omega)
  have hw : areaHalf 0x2000000 0x200000 a = none := areaHalf_none (by omega)
  simp only [indRead, indDead, hf, Bool.false_and, Bool.false_eq_true, if_false, hv, hw, progRead_clean he, indPlain, Bool.and_eq_true, decide_eq_true_eq,
    h1, hlo, hhi, and_self, if_true, hs]

/-- A write of a shadow label changes the fields of its word, while no copy runs. -/
theorem indWrite_label (hf : frugal m = false) (hc : m.svc.copy = false) (v : BitVec 32) :
    indWrite a v (g, m) = ({ g with shadow := tabMod LabelCtx.off g.shadow ((a - 0x40000) / 16) (labelPut (a / 4 % 4) v) }, m) := by
  have h1 : ¬ (0x10000 ≤ a ∧ a < 0x10050) := by omega
  simp only [indWrite, indDead, hf, Bool.false_and, Bool.false_eq_true, if_false, Bool.and_eq_true, decide_eq_true_eq, h1, hlo, hhi, and_self, if_true, hc,
    onRegs]

end Label

end Indirect

/-! ## A table after a write -/

theorem tabGet_tabSet {α : Type} [DecidableEq α] {d : α} {t : Tab α} (h : tabWf d t = true) (k i : Nat) (v : α) :
    tabGet d (tabSet d t k v) i = if i = k then v else tabGet d t i := by
  split
  next e => rw [e, tabGet_tabSet_same h]
  next e => rw [tabGet_tabSet_ne h e]

/-! ## The fields of a label -/

/-- A field written and read back keeps its bits of the word. -/
theorem fieldAt_vbits (v : BitVec 32) (lo n : Nat) : fieldAt (vbits v lo n) lo = v &&& (BitVec.allOnes n).setWidth 32 <<< lo := by
  refine BitVec.eq_of_getLsbD_eq fun i hi => ?_
  simp only [fieldAt, vbits, BitVec.getLsbD_shiftLeft, BitVec.getLsbD_setWidth, BitVec.getLsbD_extractLsb', BitVec.getLsbD_and, BitVec.getLsbD_allOnes, hi,
    decide_true, Bool.true_and]
  by_cases h : i < lo
  · simp [h]
  · rw [show lo + (i - lo) = i by omega]
    cases v.getLsbD i <;> simp

/-- A flag written and read back keeps its bit of the word. -/
theorem bit32_bitAt (v : BitVec 32) (i : Nat) : bit32 (bitAt v i) i = v &&& 1#32 <<< i := by
  refine BitVec.eq_of_getLsbD_eq fun j hj => ?_
  have hbit : (1#32 <<< i).getLsbD j = decide (j = i) := by
    rw [← BitVec.twoPow_eq, BitVec.getLsbD_twoPow]
    by_cases h : i = j <;> simp [h, hj, eq_comm]
  rw [BitVec.getLsbD_and, hbit, bit32, flagAt, bitAt]
  split
  next h =>
    rw [hbit]
    by_cases e : j = i <;> simp [e, h]
  next h =>
    by_cases e : j = i
    · subst e
      simpa using h
    · simp [e]

/-- Word 0 of a label keeps EN, CLASS, INST and ATTR. -/
theorem labelRead_labelPut_zero (c : LabelCtx) (v : BitVec 32) : labelRead (labelPut 0 v c) 0 = v &&& 0x8F3F003F := by
  simp only [labelRead, labelPut, beq_self_eq_true, if_true, bit32_bitAt, fieldAt_vbits, ← BitVec.and_or_distrib_left]
  rfl

/-- Word 1 of a label keeps BURST and RATE. -/
theorem labelRead_labelPut_one (c : LabelCtx) (v : BitVec 32) : labelRead (labelPut 1 v c) 1 = v &&& 0xFFFF1FFF := by
  simp only [labelRead, labelPut, show ((1 : Nat) == 0) = false from rfl, Bool.false_eq_true, if_false, beq_self_eq_true, if_true, fieldAt_vbits,
    ← BitVec.and_or_distrib_left]
  rfl

/-- A write of another word of a label leaves what a word reads. -/
theorem labelRead_labelPut_ne {w u : Nat} (h : u ≠ w) (c : LabelCtx) (v : BitVec 32) : labelRead (labelPut w v c) u = labelRead c u := by
  simp only [labelPut, beq_iff_eq]
  split_ifs with h0 h1
  · simp only [labelRead, beq_iff_eq, show ¬ u = 0 by omega, if_false]
  · simp only [labelRead, beq_iff_eq, show ¬ u = 1 by omega, if_false]
  · rfl

/-- What a word of a label reads after a write of a word. -/
theorem labelRead_labelPut (c : LabelCtx) (v : BitVec 32) (w u : Nat) : labelRead (labelPut w v c) u
    = if u = w then v &&& (if w = 0 then 0x8F3F003F else if w = 1 then 0xFFFF1FFF else 0) else labelRead c u := by
  split_ifs with h h0 h1
  · rw [h, h0, labelRead_labelPut_zero]
  · rw [h, h1, labelRead_labelPut_one]
  · simp [labelRead, h, h0, h1]
  · exact labelRead_labelPut_ne h c v

/-- Settles O20: each store is a table whose key is the word's place in the area. -/
theorem indirectStoresReadBack : Obligations.IndirectStoresReadBack := by
  intro g m v hs hf he ha
  refine ⟨fun a b h4 h4' hlo hhi hlo' hhi' => ?_, fun a b h4 h4' hlo hhi hlo' hhi' => ?_, fun a b h4 h4' hlo hhi hlo' hhi' hsrc hc => ?_⟩
  · have hk : (b - 0x100000) / 4 = (a - 0x100000) / 4 ↔ b = a := by omega
    dsimp only
    rw [indWrite_store hlo hhi hf he ha, indRead_store hlo' hhi' hf he, indRead_store hlo' hhi' hf he]
    simp only [tabGet_tabSet hs.store, hk]
  · have hk : (b - 0x110000) / 4 = (a - 0x110000) / 4 ↔ b = a := by omega
    dsimp only
    rw [indWrite_pool hlo hhi hf he ha, indRead_pool hlo' hhi' hf he, indRead_pool hlo' hhi' hf he]
    simp only [tabGet_tabSet hs.pool, hk]
  · dsimp only
    rw [indWrite_label hlo hhi hf hc, indRead_label hlo' hhi' hf he (by exact hsrc), indRead_label hlo' hhi' hf he hsrc]
    simp only [tabMod, tabGet_tabSet hs.shadow]
    by_cases hk : (b - 0x40000) / 16 = (a - 0x40000) / 16
    · have hw : b / 4 % 4 = a / 4 % 4 ↔ b = a := by omega
      rw [if_pos hk, labelRead_labelPut, hk]
      simp only [hw]
    · have hne : b ≠ a := fun e => hk (by rw [e])
      rw [if_neg hk, if_neg hne]

end Sys2Proof.Machine
end

section
/-!
Reads and writes of stored code words of a slice without stored errors and with no armed injection.
-/

namespace Sys2Proof.Machine

section Clean

variable {m : Mach} (he : m.ras.errs = [])

include he

theorem readWord_clean (g : Regs) (h : Half) (a : Arr) (i : Nat) : readWord g h a i m = (false, 0, m) := by
  have h0 : eccRead (0 : BitVec 266) = .clean 0 := eccRead_zero
  simp only [readWord, errMask_clean he, h0, beq_self_eq_true, if_true]

theorem readTag_clean (g : Regs) (h : Half) (set : BitVec 13) (k : Nat) : readTag g h set k m = m := by
  simp only [readTag, readWord_clean he, Bool.false_eq_true, if_false, beq_self_eq_true, if_true]

theorem readLookup_clean (g : Regs) (h : Half) (l : LineAddr) : readLookup g h l m = m := by
  simp only [readLookup, he, List.isEmpty_nil, if_true]

theorem readFlips_clean (g : Regs) (h : Half) (a : Arr) (ks : List Nat) : readFlips g h a ks m = (false, [], m) := by
  simp only [readFlips, he, List.isEmpty_nil, if_true]

/-- Without an armed injection a write stores no error. -/
theorem noteWrite_clean (ha : m.ras.armed = false) (g : Regs) (a : Arr) (h : Half) (i : Nat) : noteWrite g a h i m = m := by
  simp only [noteWrite, ha, he, Bool.false_and, Bool.false_eq_true, if_false, List.isEmpty_nil, if_true]

end Clean

end Sys2Proof.Machine
end

section
/-!
Register writes of cache control and coherence (O21, O22).
-/

namespace Sys2Proof.Machine

/-! ## Cache control -/

/-- A rewrite of tag entries passes the frames without a line by. -/
theorem retag_free {g : Regs} {h : Half} {upd : Nat → Frame → Frame} {m : Mach} (he : m.ras.errs = [])
    (hf : ∀ x ∈ (halfAt m h).frames, isFree (frameAt (halfAt m h) (BitVec.ofNat 13 (x.1 / Config.ways)) (x.1 % Config.ways)) = true) :
    retag g h upd m = m := by
  unfold retag
  generalize hks : ((halfAt m h).frames.filter fun x => upd x.1 x.2 != x.2).map (·.1) = ks
  have hk : ∀ k ∈ ks, isFree (frameAt (halfAt m h) (BitVec.ofNat 13 (k / Config.ways)) (k % Config.ways)) = true := by
    intro k hk
    obtain ⟨x, hx, rfl⟩ := List.mem_map.mp (hks ▸ hk)
    exact hf x (List.mem_of_mem_filter hx)
  clear hks
  induction ks with
  | nil => rfl
  | cons k ks ih =>
    rw [List.foldl_cons]
    dsimp only
    rw [readTag_clean he, if_pos (hk k (by simp))]
    exact ih fun x hx => hk x (by simp [hx])

/-- A frame without a line whose pin stands. -/
def pinnedFree : Frame := { Frame.free with pinned := true }

/-- The slice after reset, but for one frame of Half 0, at set 0 and way 0. -/
def withPinnedFree : Mach := modHalf 0 (fun hs => { hs with frames := [(0, pinnedFree)] }) State.reset.m

theorem withPinnedFree_frame : frameAt (halfAt withPinnedFree 0) 0 0 = pinnedFree := by
  simp [frameAt, withPinnedFree, tabGet]

/-- Refutes O21: the last conjunct says that every frame of a way that changes loses its pin, also one without a line; the pass rewrites no frame
without a line, so that the pin of one stays. -/
theorem not_cacheControlWrites : ¬ Obligations.CacheControlWrites := by
  intro h
  obtain ⟨-, -, -, -, -, -, -, -, -, -, hways⟩ := h State.reset 0 0
  have hframe := hways State.reset.regs (fun _ => 0) 1 withPinnedFree 0 0 (by decide) rfl rfl (by decide)
  dsimp only at hframe
  have hsame : unpinWays State.reset.regs 0 (fun _ => 0) 1 withPinnedFree = withPinnedFree := by
    refine retag_free rfl fun x hx => ?_
    have hx0 : x = (0, pinnedFree) := by simpa [withPinnedFree] using hx
    subst hx0
    exact congrArg isFree withPinnedFree_frame
  rw [hsame, withPinnedFree_frame, if_pos (by decide)] at hframe
  exact absurd (congrArg Frame.pinned hframe) (by decide)

/-! ## Coherence -/

/-- A write that its row takes leaves the registers that `applyWrite` leaves. -/
theorem regs_of_row {c : Instr} {row : Nat → BitVec 32 → Bool} {off : Nat} {v : BitVec 32} {s : State} (hc : registerRow c = some row)
    (hr : row off v = true) (hw : writeAtFront s off v) : ∃ t, exec c s = .next t ∧ t = rest s (applyWrite off v (s.regs, accessTaken s off)) :=
  ⟨_, registerWriteIsApplied c row off v s hc hr hw, rfl⟩

theorem rest_regs (s : State) (x : Slice) : (rest s x).regs = x.1 := rfl

theorem applyWrite_coh {off : Nat} (h4 : off % 4 = 0) (hlo : 0x3000 ≤ off) (hhi : off < 0x4000) (v : BitVec 32) (x : Slice) :
    applyWrite off v x = cohWrite off v x := by
  simp only [applyWrite, h4, show ¬ off < 0x1000 by omega, show ¬ off < 0x1400 by omega, show ¬ off < 0x2000 by omega, show ¬ off < 0x2400 by omega,
    show ¬ off < 0x3000 by omega, hhi, bne_self_eq_false, Bool.false_eq_true, if_false, if_true]

theorem applyWrite_hold (v : BitVec 32) (x : Slice) : applyWrite 0x3000 v x = onRegs (putHoldWindow false v) x := rfl

theorem applyWrite_pred (v : BitVec 32) (x : Slice) : applyWrite 0x3004 v x = writePred v x := rfl

/-- R227: HOLD takes a value of its range. -/
theorem putHoldWindow_eq (v : BitVec 32) (g : Regs) : putHoldWindow false v g
    = if 16 ≤ (v.extractLsb' 0 11).toNat ∧ (v.extractLsb' 0 11).toNat ≤ 1024 then { g with cohHold := v.extractLsb' 0 11 } else g := by
  have hc : ((false || (decide (16 ≤ (vbits v 0 11).toNat) && decide ((vbits v 0 11).toNat ≤ 1024))) = true)
      ↔ 16 ≤ (v.extractLsb' 0 11).toNat ∧ (v.extractLsb' 0 11).toNat ≤ 1024 := by
    rw [Bool.false_or, Bool.and_eq_true, decide_eq_true_eq, decide_eq_true_eq, vbits]
  exact if_congr hc rfl rfl

/-- IDX_INSTk sets the four owners that it names. -/
theorem putIdx_eq {k : Nat} (hk : k < 16) (v : BitVec 32) (g : Regs) : putIdx k v g = { g with idxInst :=
    ((((g.idxInst.set (4 * k) (ownerOf (vbits v 0 8)) (by omega)).set (4 * k + 1) (ownerOf (vbits v 8 8)) (by omega)).set (4 * k + 2)
      (ownerOf (vbits v 16 8)) (by omega)).set (4 * k + 3) (ownerOf (vbits v 24 8)) (by omega)) } := by
  have h0 : 4 * k < 64 := by omega
  have h1 : 4 * k + 1 < 64 := by omega
  have h2 : 4 * k + 2 < 64 := by omega
  have h3 : 4 * k + 3 < 64 := by omega
  simp only [putIdx, show List.range 4 = [0, 1, 2, 3] from rfl, List.foldl_cons, List.foldl_nil, setIdxInst, Nat.add_zero, h0, h1, h2, h3, dif_pos]

theorem ownerOf_vbits (v : BitVec 32) (lo : Nat) : ownerOf (vbits v lo 8) = ⟨v.getLsbD (lo + 7), v.extractLsb' lo 6⟩ := by
  simp only [ownerOf, vbits, bitAt, BitVec.getLsbD_extractLsb', Owner.mk.injEq]
  refine ⟨by simp, BitVec.eq_of_getLsbD_eq fun i hi => ?_⟩
  simp [show i < 8 by omega, hi]

/-- Settles O22: each write by its row, and the part of `cohWrite` for its register. -/
theorem coherenceWrites : Obligations.CoherenceWrites := by
  intro s v
  refine ⟨?hold, ?mode, ?rst, ?idx, ?own⟩
  case hold =>
    intro hw
    obtain ⟨t, ht, rfl⟩ := regs_of_row (c := .cohCtlWrite) rfl (by rfl) hw
    refine ⟨_, ht, ?_⟩
    rw [rest_regs, applyWrite_hold]
    simp only [onRegs, putHoldWindow_eq]
  case mode =>
    intro hw
    obtain ⟨t, ht, rfl⟩ := regs_of_row (c := .cohPredMode) rfl (by rfl) hw
    refine ⟨_, ht, ?_⟩
    rw [rest_regs, applyWrite_pred]
    simp only [writePred, vbits, onRegs, onMach, beq_iff_eq]
    split_ifs <;> rfl
  case rst =>
    intro hw hv hm
    obtain ⟨t, ht, rfl⟩ := regs_of_row (c := .cohPredRst) rfl (by simp [rowCohPredRst, bitAt, hv]) hw
    refine ⟨_, ht, congrArg (rest s) ?_⟩
    rw [applyWrite_pred]
    simp only [writePred, vbits, onRegs, onMach, beq_iff_eq, hm, bitAt, hv, if_false, if_true]
    rfl
  case idx =>
    intro k hw
    have hk := k.isLt
    have hrow : rowIdxInstWrite (0x3040 + 4 * k.val) v = true := by
      simp only [rowIdxInstWrite, within, Bool.and_eq_true, decide_eq_true_eq, beq_iff_eq]
      omega
    obtain ⟨t, ht, rfl⟩ := regs_of_row (c := .idxInstWrite) rfl hrow hw
    have happly (x : Slice) : applyWrite (0x3040 + 4 * k.val) v x = onRegs (putIdx k.val v) x := by
      rw [applyWrite_coh (by omega) (by omega) (by omega)]
      simp only [cohWrite, Bool.and_eq_true, decide_eq_true_eq, beq_iff_eq, show ¬ 0x3040 + 4 * k.val = 0x3000 by omega,
        show ¬ 0x3040 + 4 * k.val = 0x3004 by omega, show 0x3040 ≤ 0x3040 + 4 * k.val ∧ 0x3040 + 4 * k.val < 0x3080 by omega, if_true, if_false,
        Nat.add_sub_cancel_left, Nat.mul_div_cancel_left _ (show 0 < 4 by decide), and_self]
    refine ⟨_, ht, ?_⟩
    simp only [rest_regs, happly, onRegs, putIdx_eq hk, ownerOf_vbits]
    refine ⟨fun j => ?_, fun i hi => ?_, trivial⟩
    · obtain ⟨j, hj⟩ := j
      have hcases : j = 0 ∨ j = 1 ∨ j = 2 ∨ j = 3 := by omega
      rcases hcases with rfl | rfl | rfl | rfl <;> simp
    · have hne : ¬ 4 * k.val = i.val ∧ ¬ 4 * k.val + 1 = i.val ∧ ¬ 4 * k.val + 2 = i.val ∧ ¬ 4 * k.val + 3 = i.val := by omega
      obtain ⟨h0, h1, h2, h3⟩ := hne
      simp only [Fin.getElem_fin, Vector.getElem_set, h0, h1, h2, h3, if_false]
  case own =>
    intro k hw
    have hk := k.isLt
    have hrow : rowCtrOwnWrite (0x3100 + 4 * k.val) v = true := by
      simp only [rowCtrOwnWrite, within, Bool.and_eq_true, decide_eq_true_eq, beq_iff_eq]
      omega
    obtain ⟨t, ht, rfl⟩ := regs_of_row (c := .ctrOwnWrite) rfl hrow hw
    have happly (x : Slice) : applyWrite (0x3100 + 4 * k.val) v x = onRegs (putOwner k.val v) x := by
      rw [applyWrite_coh (by omega) (by omega) (by omega)]
      simp only [cohWrite, Bool.and_eq_true, decide_eq_true_eq, beq_iff_eq, show ¬ 0x3100 + 4 * k.val = 0x3000 by omega,
        show ¬ 0x3100 + 4 * k.val = 0x3004 by omega, show ¬ (0x3040 ≤ 0x3100 + 4 * k.val ∧ 0x3100 + 4 * k.val < 0x3080) by omega,
        show 0x3100 ≤ 0x3100 + 4 * k.val ∧ 0x3100 + 4 * k.val < 0x3200 by omega, if_true, if_false,
        Nat.add_sub_cancel_left, Nat.mul_div_cancel_left _ (show 0 < 4 by decide), and_self]
    refine ⟨_, ht, ?_⟩
    rw [rest_regs, happly]
    simp only [onRegs, putOwner, hk, dif_pos, bitAt, vbits]

end Sys2Proof.Machine
end

section
/-!
The memory channels: a command is presented (O24).
-/

namespace Sys2Proof.Machine

/-! ## Free identifiers -/

/-- Where an identifier below n is not in use, the one that is picked is not. -/
theorem pickId_free {c n : Nat} {used : Nat → Bool} (h : ∃ i, i < n ∧ used i = false) : used (pickId c n used) = false ∧ pickId c n used < n := by
  obtain ⟨i, hi, hu⟩ := h
  unfold pickId
  dsimp only
  split
  · obtain ⟨j, hj⟩ : ∃ j, (List.range n).find? (fun i => !used i) = some j := by
      rw [← Option.isSome_iff_exists, List.find?_isSome]
      exact ⟨i, List.mem_range.mpr hi, by simp [hu]⟩
    rw [hj, Option.getD_some]
    refine ⟨by simpa using List.find?_some hj, ?_⟩
    exact List.mem_range.mp (List.mem_of_find?_eq_some hj)
  next hc => exact ⟨by simpa using hc, Nat.mod_lt _ (by omega)⟩

/-- A list of fewer than n entries leaves an identifier below n unused. -/
theorem exists_unused {α : Type} (l : List α) (f : α → Nat) {n : Nat} (h : l.length < n) : ∃ i, i < n ∧ (l.any fun y => f y == i) = false := by
  by_contra hno
  have hsub : List.range n ⊆ l.map f := by
    intro i hi
    by_contra hm
    refine hno ⟨i, List.mem_range.mp hi, ?_⟩
    rw [List.any_eq_false]
    intro y hy he
    exact hm (List.mem_map.mpr ⟨y, hy, by simpa using he⟩)
  have hle := (List.subperm_of_subset List.nodup_range hsub).length_le
  simp only [List.length_range, List.length_map] at hle
  omega

/-! ## The class that goes -/

section Issue

variable {g : Regs} {h : Half} {m : Mach}

/-- The classes whose command can go. -/
def classCan (ch : MemChan) (c : Nat) : Bool := if c == 0 then canRead ch else if c == 1 then (nextWrite ch).isSome else (nextAtomic ch).isSome

/-- When one class alone can go, the rotation finds it. -/
theorem rotation_only {can : Nat → Bool} {c : Nat} (p : Nat) (hc : c < 3) (h1 : can c = true) (h2 : ∀ i, i < 3 → i ≠ c → can i = false) :
    ([p % 3, (p + 1) % 3, (p + 2) % 3]).find? can = some c := by
  have key : ∀ i, i < 3 → (can i = true ↔ i = c) := fun i hi => by
    by_cases e : i = c
    · simp [e, h1]
    · simp [e, h2 i hi e]
  obtain ⟨hp, hp'⟩ : p % 3 < 3 ∧ (p + 1) % 3 < 3 := by omega
  by_cases e0 : p % 3 = c
  · rw [List.find?_cons_of_pos ((key _ hp).mpr e0), e0]
  by_cases e1 : (p + 1) % 3 = c
  · rw [List.find?_cons_of_neg (by rw [key _ hp]; exact e0), List.find?_cons_of_pos ((key _ hp').mpr e1), e1]
  · have e2 : (p + 2) % 3 = c := by omega
    rw [List.find?_cons_of_neg (by rw [key _ hp]; exact e0), List.find?_cons_of_neg (by rw [key _ hp']; exact e1),
      List.find?_cons_of_pos (by rw [e2]; exact h1), e2]

theorem issueCmd_read (h0 : canRead (chanAt m h) = true) (h1 : nextWrite (chanAt m h) = none) (h2 : nextAtomic (chanAt m h) = none) :
    issueCmd g h m = issueRead g h m := by
  have hrot : _ = some 0 := rotation_only (can := classCan (chanAt m h)) (c := 0) (chanAt m h).ptr (by decide) (by simp [classCan, h0])
    (fun i hi hne => by simp [classCan, hne, h1, h2])
  unfold issueCmd
  dsimp only
  unfold classCan at hrot
  rw [hrot]
  rfl

theorem issueCmd_write {x : WrCmd} (h0 : canRead (chanAt m h) = false) (h1 : nextWrite (chanAt m h) = some x)
    (h2 : nextAtomic (chanAt m h) = none) : issueCmd g h m = issueWrite g h x m := by
  have hrot : _ = some 1 := rotation_only (can := classCan (chanAt m h)) (c := 1) (chanAt m h).ptr (by decide) (by simp [classCan, h1])
    (fun i hi hne => by simp [classCan, hne, h0, h2])
  unfold issueCmd
  dsimp only
  unfold classCan at hrot
  rw [hrot, h1]
  rfl

theorem issueCmd_atomic {x : AtCmd} (h0 : canRead (chanAt m h) = false) (h1 : nextWrite (chanAt m h) = none)
    (h2 : nextAtomic (chanAt m h) = some x) : issueCmd g h m = issueAtomic h x m := by
  have hrot : _ = some 2 := rotation_only (can := classCan (chanAt m h)) (c := 2) (chanAt m h).ptr (by decide) (by simp [classCan, h2])
    (fun i hi hne => by
      obtain rfl | rfl : i = 0 ∨ i = 1 := by omega
      · exact h0
      · simp [classCan, h1])
  unfold issueCmd
  dsimp only
  unfold classCan at hrot
  rw [hrot, h2]
  rfl

/-- A command that is presented changes its channel alone, and leaves the slice calm. -/
theorem memCmdIssue_calm {s : State} (hclk : clocked s.m h = true) (hj : chanJoined s.m h = true) (hc : calm s.m = true) {o : Output}
    {f : MemChan → MemChan} (hm : issueCmd s.regs h s.m = emit o (spend (modChan h f s.m))) :
    ∃ t, exec (.memCmdIssue h) s = .next t ∧ t.m.out = s.m.out ++ [o] ∧ chanAt t.m h = f (chanAt s.m h) := by
  have hcalm : calm (issueCmd s.regs h s.m) = true := by
    rw [hm]
    exact hc
  refine ⟨{ s with m := issueCmd s.regs h s.m }, ?_, ?_, ?_⟩
  · change execMemCmdIssue h s = _
    simp only [execMemCmdIssue, run, hclk, hj, Bool.and_self, if_true, settle_of_calm hcalm]
  · simp only [hm]
    rfl
  · simp only [hm, emit_chanAt, spend_chanAt, chanAt_modChan]

end Issue

/-- Clearing deficits changes the DRR state alone. -/
theorem drrClear_frame (g : Regs) (w : List RdCmd) (ch : MemChan) : ∃ d i, drrClear g w ch = { ch with deficit := d, drrIn := i } := by
  unfold drrClear
  generalize List.range 16 = l
  suffices H : ∀ c : MemChan, (∃ d i, c = { ch with deficit := d, drrIn := i }) → ∃ d i, l.foldl (fun ch k =>
      if (drrOldest g ch w k).isSome then ch
      else { ch with deficit := tabSet 0 ch.deficit k 0, drrIn := if ch.drrPtr == k then false else ch.drrIn }) c = { ch with deficit := d, drrIn := i } from
    H ch ⟨ch.deficit, ch.drrIn, rfl⟩
  induction l with
  | nil => exact fun c hc => hc
  | cons k l ih =>
    rintro c ⟨d, i, rfl⟩
    refine ih _ ?_
    dsimp only
    split
    · exact ⟨d, i, rfl⟩
    · exact ⟨_, _, rfl⟩

theorem spendBucket_frame (g : Regs) (x : RdCmd) (ch : MemChan) : ∃ b, spendBucket g x ch = { ch with bucket := b } := by
  unfold spendBucket
  dsimp only
  split
  · exact ⟨ch.bucket, rfl⟩
  · exact ⟨_, rfl⟩

theorem sendableReads_one {ch : MemChan} {x : RdCmd} (hq : ch.readQ = [x]) (hw : ∀ y ∈ ch.writeO, y.line ≠ x.line)
    (ha : atomicOut ch x.line = false) : sendableReads ch = [x] := by
  have hany : (ch.writeO.any fun y => y.line == x.line) = false := by simpa using hw
  rw [sendableReads, hq, List.filter_cons_of_pos (by rw [hany, ha]; rfl), List.filter_nil]

theorem nextWrite_one {ch : MemChan} {x : WrCmd} (hq : ch.writeQ = [x]) (ho : ch.writeO = []) (hr : ∀ y ∈ ch.readO, y.line ≠ x.line)
    (ha : atomicOut ch x.line = false) (hc : 1 ≤ ch.hcr[1]) (hd : maskCount x.smask ≤ ch.dcr[1]) : nextWrite ch = some x := by
  have hany : (ch.readO.any fun y => y.line == x.line) = false := by simpa using hr
  simp [nextWrite, hq, ho, hany, ha, hc, hd, Config.writesOut]

theorem nextAtomic_front {ch : MemChan} {x : AtCmd} {rest : List AtCmd} (hq : ch.atomQ = x :: rest) (hf : lineInFlight ch (lineOf x.req.addr) = false)
    (ho : ch.atomO.length < 64) (hc : 1 ≤ ch.hcr[2]) (hd : 1 ≤ ch.dcr[2]) : nextAtomic ch = some x := by
  simp [nextAtomic, hq, hf, ho, hc, hd, Config.atomicsOut]

/-- A READ alone is presented, its credit taken. -/
theorem issueRead_only {g : Regs} {h : Half} {m : Mach} {x : RdCmd} (hord : g.svcOrder = false) (hpf : g.pfEn = 0)
    (hs : sendableReads (chanAt m h) = [x]) :
    let y := { x with tag := BitVec.ofNat 9 (pickId m.freeCtr Config.readsOut fun i => (chanAt m h).readO.any fun y => y.tag.toNat == i) }
    ∃ b d i, issueRead g h m = emit (.read h y (readHeader y)) (spend (modChan h (fun ch => takeCredits 0 0
      { ch with readQ := ch.readQ.erase x, readO := ch.readO ++ [y], bucket := b, deficit := d, drrIn := i }) m)) := by
  intro y
  have hchoose : chooseRead g [x] (chanAt m h) = some (x, chanAt m h) := by simp [chooseRead, hord]
  obtain ⟨b, hb⟩ := spendBucket_frame g x { chanAt m h with readQ := (chanAt m h).readQ.erase x, readO := (chanAt m h).readO ++ [y] }
  have hm : issueRead g h m = emit (.read h y (readHeader y)) (spend (modChan h (fun _ =>
      let c := takeCredits 0 0 (spendBucket g x { chanAt m h with readQ := (chanAt m h).readQ.erase x, readO := (chanAt m h).readO ++ [y] })
      drrClear g (sendableReads c) c) m)) := by
    simp only [issueRead, hs, hchoose, profile_off hpf]
    rfl
  rw [hb] at hm
  obtain ⟨d, i, hd⟩ := drrClear_frame g (sendableReads (takeCredits 0 0 { chanAt m h with
    readQ := (chanAt m h).readQ.erase x, readO := (chanAt m h).readO ++ [y], bucket := b })) (takeCredits 0 0 { chanAt m h with
      readQ := (chanAt m h).readQ.erase x, readO := (chanAt m h).readO ++ [y], bucket := b })
  refine ⟨b, d, i, hm.trans ?_⟩
  refine congrArg (fun m => emit (.read h y (readHeader y)) (spend m)) (modChan_congr ?_)
  dsimp only
  rw [hd]
  rfl

/-- Settles O24: one class alone can go, and its command is presented with a tag of `pickId`. -/
theorem memoryCommandIsPresented : Obligations.MemoryCommandIsPresented := by
  intro h s hclk hj hcalm ch
  refine ⟨?read, ?write, ?atomic⟩
  case read =>
    intro x hord hpf hq ho hw ha hat hnw hcr
    have hsend : sendableReads ch = [x] := sendableReads_one hq hw ha
    have hcan : canRead ch = true := by simp [canRead, hsend, ho, hcr, Config.readsOut]
    have hna : nextAtomic ch = none := by simp [nextAtomic, hat]
    obtain ⟨b, d, i, hm⟩ := issueRead_only (m := s.m) hord hpf hsend
    obtain ⟨t, ht, hout, hch⟩ := memCmdIssue_calm hclk hj hcalm ((issueCmd_read hcan hnw hna).trans hm)
    refine ⟨t, _, ht, hout, ?_, ?_, ?_⟩ <;> rw [hch]
    · simp [takeCredits, show (chanAt s.m h).readQ = [x] from hq]
    · simp [takeCredits, show (chanAt s.m h).readO = [] from ho]
    · simp [takeCredits, ch]
  case write =>
    intro x hpf hq ho hr ha hat hs hcr hdr
    have hcan : canRead ch = false := by simp [canRead, hs]
    have hnw : nextWrite ch = some x := nextWrite_one hq ho hr ha hcr hdr
    have hna : nextAtomic ch = none := by simp [nextAtomic, hat]
    have hm := (issueCmd_write (g := s.regs) hcan hnw hna).trans (by rw [issueWrite, profile_off hpf])
    obtain ⟨t, ht, hout, hch⟩ := memCmdIssue_calm hclk hj hcalm hm
    refine ⟨t, _, ht, hout, ?_, ?_, ?_, ?_⟩ <;> rw [hch]
    · simp [takeCredits, show (chanAt s.m h).writeQ = [x] from hq]
    · simp [takeCredits, show (chanAt s.m h).writeO = [] from ho]
    · simp [takeCredits, ch]
    · simp [takeCredits, ch]
  case atomic =>
    intro x rest hq hf ho hs hnw hcr hdr
    have hcan : canRead ch = false := by simp [canRead, hs]
    have hm := issueCmd_atomic (g := s.regs) hcan hnw (nextAtomic_front hq hf ho hcr hdr)
    obtain ⟨t, ht, hout, hch⟩ := memCmdIssue_calm hclk hj hcalm hm
    refine ⟨t, _, ht, hout, ?_, ?_, ?_, ?_, ?_⟩
    · obtain ⟨hfree, hlt⟩ := pickId_free (c := s.m.freeCtr) (exists_unused ch.atomO (fun y => y.tag.toNat) ho)
      intro z hz htag
      have hval : z.tag.toNat = pickId s.m.freeCtr 64 fun i => ch.atomO.any fun y => y.tag.toNat == i := by
        rw [htag]
        exact (BitVec.toNat_ofNat _ _).trans (Nat.mod_eq_of_lt (Nat.lt_trans hlt (by decide)))
      simp only [List.any_eq_false] at hfree
      exact hfree z hz (beq_iff_eq.mpr hval)
    all_goals rw [hch]
    · simp [takeCredits, show (chanAt s.m h).atomQ = x :: rest from hq]
    · simp [takeCredits, ch]
    · simp [takeCredits, ch]
    · simp [takeCredits, ch]

end Sys2Proof.Machine
end

section
/-!
The READ that is granted, credits that come back, the sectors of a mask (O25, O26, O28).
-/

namespace Sys2Proof.Machine

/-! ## The earliest deadline -/

theorem earlier_trans_false {a b c : Option Nat} (hab : earlier a b = false) (hbc : earlier b c = false) : earlier a c = false := by
  cases a <;> cases b <;> cases c <;> simp_all [earlier]
  omega

theorem earlier_asymm {a b : Option Nat} (h : earlier a b = true) : earlier b a = false := by
  cases a <;> cases b <;> simp_all [earlier]
  omega

/-- One step of the choice: a READ with an earlier deadline takes the place of the one chosen so far. -/
def earlierOf (b : Option RdCmd) (x : RdCmd) : Option RdCmd :=
  match b with | none => some x | some y => if earlier x.deadline y.deadline then some x else b

/-- The choice begins with `y`: it finds `y` or a READ of the list, and none has an earlier deadline. -/
theorem foldl_earlierOf (l : List RdCmd) (y : RdCmd) : ∃ x, l.foldl earlierOf (some y) = some x ∧ x ∈ y :: l
    ∧ ∀ z ∈ y :: l, earlier z.deadline x.deadline = false := by
  induction l generalizing y with
  | nil => exact ⟨y, rfl, by simp, fun z hz => by
      obtain rfl := List.mem_singleton.mp hz
      cases h : earlier z.deadline z.deadline
      · rfl
      · rw [← h, earlier_asymm h]⟩
  | cons a l ih =>
    by_cases ha : earlier a.deadline y.deadline = true
    · obtain ⟨x, hx, hm, hmin⟩ := ih a
      refine ⟨x, by simpa only [List.foldl_cons, earlierOf, ha, if_true] using hx, List.mem_cons_of_mem y hm, fun z hz => ?_⟩
      rcases List.mem_cons.mp hz with rfl | hz
      · exact earlier_trans_false (earlier_asymm ha) (hmin a (by simp))
      · exact hmin z hz
    · obtain ⟨x, hx, hm, hmin⟩ := ih y
      refine ⟨x, by simpa only [List.foldl_cons, earlierOf, ha, Bool.false_eq_true, if_false] using hx, ?_, fun z hz => ?_⟩
      · rcases List.mem_cons.mp hm with rfl | hm <;> simp [*]
      · rcases List.mem_cons.mp hz with rfl | hz
        · exact hmin z (by simp)
        rcases List.mem_cons.mp hz with rfl | hz
        · exact earlier_trans_false (by simpa using ha) (hmin y (by simp))
        · exact hmin z (by simp [hz])

/-- Where a READ of a deadline class waits, the choice is one with the earliest deadline. -/
theorem deadlineChoice_some {g : Regs} {w : List RdCmd} (h : ∃ y ∈ w, isDeadline g y = true) : ∃ x, deadlineChoice g w = some x ∧ x ∈ w
    ∧ isDeadline g x = true ∧ ∀ y ∈ w, isDeadline g y = true → earlier y.deadline x.deadline = false := by
  have hfold : deadlineChoice g w = (w.filter (isDeadline g)).foldl earlierOf none := rfl
  obtain ⟨y, hy, hd⟩ := h
  have hmem : ∀ z, z ∈ w.filter (isDeadline g) ↔ z ∈ w ∧ isDeadline g z = true := fun z => List.mem_filter
  cases hl : w.filter (isDeadline g) with
  | nil =>
    have hin := (hmem y).mpr ⟨hy, hd⟩
    simp [hl] at hin
  | cons a l =>
    obtain ⟨x, hx, hm, hmin⟩ := foldl_earlierOf l a
    obtain ⟨hxw, hxd⟩ := (hmem x).mp (hl ▸ hm)
    refine ⟨x, by rw [hfold, hl]; exact hx, hxw, hxd, fun z hz hzd => hmin z (hl ▸ (hmem z).mpr ⟨hz, hzd⟩)⟩

/-- Settles O25. -/
theorem deadlineReadsGoFirst : Obligations.DeadlineReadsGoFirst := by
  intro g w ch hord hs hw
  obtain ⟨x, hx, hm, hd, hmin⟩ := deadlineChoice_some hw
  obtain ⟨d, i, hclear⟩ := drrClear_frame g w ch
  refine ⟨x, { drrClear g w ch with since := min ((drrClear g w ch).since + 1) 15 }, ?_, hm, hd, hmin, ?_⟩
  · have hsince : ¬ (drrClear g w ch).since ≥ 15 := by
      rw [hclear]
      exact Nat.not_le.mpr hs
    simp only [chooseRead, hord, Bool.not_true, Bool.false_eq_true, if_false, hsince, decide_false, Bool.false_and, hx]
  · simp only [hclear]
    omega

/-! ## Credits -/

/-- A return keeps the pools when it keeps each of them. -/
theorem creditsOk_iff {n hp dp : Nat} {v w : Vector Nat n} {hc : BitVec 4} {dc : BitVec 12} :
    creditsOk n hp dp (fun i => v.toList.getD i 0) (fun i => w.toList.getD i 0) hc dc = true
      ↔ ∀ i : Fin n, dataCredit dc i ≤ 4 ∧ v[i] + hdrCredit hc i ≤ hp ∧ w[i] + dataCredit dc i ≤ dp := by
  simp only [creditsOk, List.all_eq_true, List.mem_range, Bool.and_eq_true, decide_eq_true_eq, and_assoc]
  constructor
  · intro h i
    simpa using h i.val i.isLt
  · intro h i hi
    simpa [hi] using h ⟨i, hi⟩

theorem creditsOk_false {n hp dp : Nat} {v w : Vector Nat n} {hc : BitVec 4} {dc : BitVec 12} (i : Fin n)
    (h : 4 < dataCredit dc i ∨ hp < v[i] + hdrCredit hc i ∨ dp < w[i] + dataCredit dc i) :
    creditsOk n hp dp (fun i => v.toList.getD i 0) (fun i => w.toList.getD i 0) hc dc = false := by
  refine Bool.eq_false_iff.mpr fun hok => ?_
  have hi := creditsOk_iff.mp hok i
  omega

theorem half_cases (c : Half) : c = 0 ∨ c = 1 := by revert c; decide

theorem fin3Half_peerLink (c : Half) : fin3Half (peerLink c) = c := by revert c; decide

/-- A link and its place: the remote port is link 2, a peer channel the link of its half. -/
def linkPlace (k : LinkIx) (j : Fin 3) : Prop := (k = .remote ∧ j = 2) ∨ ∃ c, k = .peer c ∧ j = peerLink c

/-- Credits of a peer or a package. -/
theorem creditReturn_link {k : LinkIx} {j : Fin 3} (hk : linkPlace k j) {s : State} (hclk : clocked s.m (fin3Half j) = true) (hc : BitVec 4)
    (dc : BitVec 12) : execMsgCreditReturn k hc dc s =
      if !isJoined (linkAt s.m j).hello then run (fun _ m => m) s
      else if !creditsOk 4 (if j = 2 then 64 else 32) (if j = 2 then 128 else 64) (fun i => (linkAt s.m j).hcr.toList.getD i 0)
        (fun i => (linkAt s.m j).dcr.toList.getD i 0) hc dc then .fault .creditOverflow
      else run (fun _ m => flushLink j (modLink j (fun x => { x with
        hcr := x.hcr.mapFinIdx fun i v _ => v + hdrCredit hc i, dcr := x.dcr.mapFinIdx fun i v _ => v + dataCredit dc i }) m)) s := by
  rcases hk with ⟨rfl, rfl⟩ | ⟨c, rfl, rfl⟩
  · have hclk' : clocked s.m (linkHalf .remote) = true := hclk
    simp only [execMsgCreditReturn, hclk', Bool.not_true, Bool.false_eq_true, if_false]
    rfl
  · have hclk' : clocked s.m (linkHalf (.peer c)) = true := by
      rw [fin3Half_peerLink] at hclk
      exact hclk
    simp only [execMsgCreditReturn, hclk', Bool.not_true, Bool.false_eq_true, if_false]
    obtain rfl | rfl := half_cases c
    · rfl
    · rfl

/-- Settles O26: the pools by `creditsOk_iff`, a pool past its bound by `creditsOk_false`. -/
theorem partnerCreditsArrive : Obligations.PartnerCreditsArrive := by
  intro hc dc s hd dd
  refine ⟨fun c hclk => ?_, fun k j hk hclk => ?_⟩
  · intro x
    change (_ → execMsgCreditReturn (.mem c) hc dc s = _) ∧ (_ → (_ → ∃ ch, execMsgCreditReturn (.mem c) hc dc s = _ ∧ _)
      ∧ ∀ i : Fin 3, _ → execMsgCreditReturn (.mem c) hc dc s = _)
    have hclk' : clocked s.m (linkHalf (.mem c)) = true := hclk
    refine ⟨fun hj => ?_, fun hj => ⟨fun hok => ?_, fun i hi => ?_⟩⟩
    · have hj : isJoined (chanAt s.m c).hello = false := hj
      simp only [execMsgCreditReturn, hclk', hj, Bool.not_true, Bool.not_false, Bool.false_eq_true, if_false, if_true]
      rfl
    · have hj : isJoined (chanAt s.m c).hello = true := hj
      have hok : creditsOk 3 4095 4095 (fun i => (chanAt s.m c).hcr.toList.getD i 0) (fun i => (chanAt s.m c).dcr.toList.getD i 0) hc dc = true :=
        creditsOk_iff.mpr hok
      refine ⟨{ x with hcr := x.hcr.mapFinIdx fun i v _ => v + hdrCredit hc i, dcr := x.dcr.mapFinIdx fun i v _ => v + dataCredit dc i }, ?_, ?_, rfl⟩
      · simp only [execMsgCreditReturn, hclk', hj, hok, Bool.not_true, Bool.false_eq_true, if_false]
        rfl
      · intro i
        simp only [Fin.getElem_fin, Vector.getElem_mapFinIdx]
        exact ⟨rfl, rfl⟩
    · have hj : isJoined (chanAt s.m c).hello = true := hj
      have hbad := creditsOk_false (v := (chanAt s.m c).hcr) (w := (chanAt s.m c).dcr) i hi
      simp only [execMsgCreditReturn, hclk', hj, hbad, Bool.not_true, Bool.not_false, Bool.false_eq_true, if_false, if_true]
  · intro x headers data
    have hrow := creditReturn_link hk hclk hc dc
    have hexec : exec (.msgCreditReturn k hc dc) s = execMsgCreditReturn k hc dc s := rfl
    rw [hexec, hrow]
    refine ⟨fun hj => ?_, fun hj => ⟨fun hok => ?_, fun i hi => ?_⟩⟩
    · have hj : isJoined (linkAt s.m j).hello = false := hj
      rw [if_pos (by rw [hj]; rfl)]
      rfl
    · have hj : isJoined (linkAt s.m j).hello = true := hj
      have hok := (creditsOk_iff (v := x.hcr) (w := x.dcr)).mpr hok
      refine ⟨{ x with hcr := x.hcr.mapFinIdx fun i v _ => v + hdrCredit hc i, dcr := x.dcr.mapFinIdx fun i v _ => v + dataCredit dc i }, ?_, ?_, rfl⟩
      · rw [if_neg (by rw [hj]; decide), if_neg (by rw [hok]; decide)]
        rfl
      · intro i
        simp only [Fin.getElem_fin, Vector.getElem_mapFinIdx]
        exact ⟨rfl, rfl⟩
    · have hj : isJoined (linkAt s.m j).hello = true := hj
      have hbad := creditsOk_false (v := x.hcr) (w := x.dcr) i hi
      rw [if_neg (by rw [hj]; decide), if_pos (by rw [hbad]; rfl)]

/-! ## Sectors of a mask -/

theorem getLsbD_sectorOf (d : Line) (s i : Nat) : (sectorOf d s).getLsbD i = (decide (i < 512) && d.getLsbD (512 * s + i)) := by
  simp only [sectorOf, BitVec.getLsbD_extractLsb']

theorem getLsbD_withSector (d : Line) {s i : Nat} (x : Sector) (hi : i < 2048) : (withSector d s x).getLsbD i
    = if 512 * s ≤ i ∧ i < 512 * s + 512 then x.getLsbD (i - 512 * s) else d.getLsbD i := by
  simp only [withSector, BitVec.getLsbD_or, BitVec.getLsbD_and, BitVec.getLsbD_not, BitVec.getLsbD_shiftLeft, BitVec.getLsbD_setWidth,
    BitVec.getLsbD_allOnes, hi, decide_true, Bool.true_and]
  by_cases hlo : i < 512 * s
  · simp [hlo, show ¬ (512 * s ≤ i ∧ i < 512 * s + 512) by omega]
  · by_cases hhi : i < 512 * s + 512
    · simp [hlo, show i - 512 * s < 2048 by omega, show i - 512 * s < 512 by omega, show 512 * s ≤ i ∧ i < 512 * s + 512 by omega]
    · have hx : x.getLsbD (i - 512 * s) = false := BitVec.getLsbD_of_ge _ _ (by omega)
      simp [hlo, hx, show ¬ i - 512 * s < 512 by omega, show ¬ (512 * s ≤ i ∧ i < 512 * s + 512) by omega]

/-- A sector that was put into a line is read back; the others stay. -/
theorem sectorOf_withSector (d : Line) {s t : Nat} (x : Sector) (ht : t < 4) : sectorOf (withSector d s x) t = if s = t then x else sectorOf d t := by
  refine BitVec.eq_of_getLsbD_eq fun i hi => ?_
  rw [getLsbD_sectorOf, getLsbD_withSector d x (by omega)]
  by_cases hs : s = t
  · subst hs
    simp [hi]
  · rw [if_neg (by omega), if_neg hs, getLsbD_sectorOf]

/-- The sectors of the mask below n. -/
def rankOf (mask : BitVec 4) (n : Nat) : Nat := ((List.range n).filter fun i => mask.getLsbD i).length

theorem rankOf_succ (mask : BitVec 4) (n : Nat) : rankOf mask (n + 1) = rankOf mask n + if mask.getLsbD n then 1 else 0 := by
  simp only [rankOf, List.range_succ, List.filter_append, List.length_append, List.filter_cons, List.filter_nil]
  split <;> rfl

theorem rankOf_le (mask : BitVec 4) (n : Nat) : rankOf mask n ≤ n := by
  simpa [rankOf] using List.length_filter_le (fun i => mask.getLsbD i) (List.range n)

/-- A sector of the mask has a lower place than one above it. -/
theorem rankOf_lt {mask : BitVec 4} {k n : Nat} (hk : mask.getLsbD k = true) (h : k < n) : rankOf mask k < rankOf mask n := by
  induction n with
  | zero => omega
  | succ n ih =>
    rw [rankOf_succ]
    by_cases e : k = n
    · subst e
      simp [hk]
    · have := ih (by omega)
      omega

/-- The sectors below n, packed. -/
def packTo (mask : BitVec 4) (d : Line) (n : Nat) : Line × Nat := (List.range n).foldl (fun (acc : Line × Nat) s =>
  if mask.getLsbD s then (withSector acc.1 acc.2 (sectorOf d s), acc.2 + 1) else acc) (0, 0)

theorem packTo_succ (mask : BitVec 4) (d : Line) (n : Nat) : packTo mask d (n + 1) =
    if mask.getLsbD n then (withSector (packTo mask d n).1 (packTo mask d n).2 (sectorOf d n), (packTo mask d n).2 + 1) else packTo mask d n := by
  simp only [packTo, List.range_succ, List.foldl_append, List.foldl_cons, List.foldl_nil]

/-- Each sector of the mask below n stands at its place. -/
theorem packTo_places (mask : BitVec 4) (d : Line) {n : Nat} (hn : n ≤ 4) : (packTo mask d n).2 = rankOf mask n
    ∧ ∀ k, k < n → mask.getLsbD k = true → sectorOf (packTo mask d n).1 (rankOf mask k) = sectorOf d k := by
  induction n with
  | zero => exact ⟨rfl, fun k hk => by omega⟩
  | succ n ih =>
    obtain ⟨hcount, hplace⟩ := ih (by omega)
    rw [packTo_succ, rankOf_succ]
    by_cases hb : mask.getLsbD n = true
    · simp only [hb, if_true, hcount, true_and]
      intro k hk hm
      have hle := rankOf_le mask k
      rw [sectorOf_withSector _ _ (by omega)]
      by_cases e : k = n
      · rw [e, if_pos rfl]
      · have hlt := rankOf_lt hm (show k < n by omega)
        rw [if_neg (by omega)]
        exact hplace k (by omega) hm
    · simp only [hb, Bool.false_eq_true, if_false, hcount, Nat.add_zero, true_and]
      intro k hk hm
      exact hplace k (by by_cases e : k = n; exact absurd (e ▸ hm) hb; omega) hm

/-- The sectors below n, unpacked. -/
def unpackTo (mask : BitVec 4) (d : Line) (n : Nat) : Line × Nat := (List.range n).foldl (fun (acc : Line × Nat) s =>
  if mask.getLsbD s then (withSector acc.1 s (sectorOf d acc.2), acc.2 + 1) else acc) (0, 0)

theorem unpackTo_succ (mask : BitVec 4) (d : Line) (n : Nat) : unpackTo mask d (n + 1) =
    if mask.getLsbD n then (withSector (unpackTo mask d n).1 n (sectorOf d (unpackTo mask d n).2), (unpackTo mask d n).2 + 1)
    else unpackTo mask d n := by
  simp only [unpackTo, List.range_succ, List.foldl_append, List.foldl_cons, List.foldl_nil]

/-- Each sector of the mask below n comes from its place; the others are zero. -/
theorem unpackTo_places (mask : BitVec 4) (d : Line) (n : Nat) : (unpackTo mask d n).2 = rankOf mask n
    ∧ ∀ k, k < 4 → sectorOf (unpackTo mask d n).1 k = if k < n ∧ mask.getLsbD k = true then sectorOf d (rankOf mask k) else 0 := by
  induction n with
  | zero =>
    refine ⟨rfl, fun k _ => ?_⟩
    rw [if_neg (by omega)]
    exact BitVec.extractLsb'_zero
  | succ n ih =>
    obtain ⟨hcount, hplace⟩ := ih
    rw [unpackTo_succ, rankOf_succ]
    by_cases hb : mask.getLsbD n = true
    · simp only [hb, if_true, hcount, true_and]
      intro k hk
      rw [sectorOf_withSector _ _ hk, hplace k hk]
      by_cases e : n = k
      · subst e
        rw [if_pos rfl, if_pos ⟨by omega, hb⟩]
      · simp only [if_neg e, show k < n ↔ k < n + 1 by omega]
    · simp only [hb, Bool.false_eq_true, if_false, hcount, Nat.add_zero, true_and]
      intro k hk
      rw [hplace k hk]
      by_cases e : k = n
      · subst e
        rw [if_neg (by omega), if_neg (by simp [hb])]
      · simp only [show k < n ↔ k < n + 1 by omega]

/-- Settles O28: the places by induction over the sectors. -/
theorem sectorsKeepTheirPlaces : Obligations.SectorsKeepTheirPlaces := by
  intro mask d k rank
  have hk := k.isLt
  obtain ⟨-, hpack⟩ := packTo_places mask d (n := 4) (Nat.le_refl 4)
  obtain ⟨-, hunpack⟩ := unpackTo_places mask d 4
  refine ⟨fun hb => ⟨hpack k hk hb, ?_⟩, fun hb => ?_⟩
  · exact (hunpack k hk).trans (if_pos ⟨hk, hb⟩)
  · exact (hunpack k hk).trans (if_neg fun h => Bool.false_ne_true (hb.symm.trans h.2))

end Sys2Proof.Machine
end

section
/-!
Responses of memory (O27).
-/

namespace Sys2Proof.Machine

/-! ## Responses -/

section Response

variable {α : Type} {c : Half} {find : MemChan → Option α} {take : Regs → α → Mach → Mach} {s : State}

/-- The response to an outstanding command is taken. -/
theorem memResponse_takes {x : α} (hclk : clocked s.m c = true) (hj : chanJoined s.m c = true) (hx : find (chanAt s.m c) = some x) :
    memResponse c find take s = .next (settled s (take s.regs x s.m)) := by
  simp only [memResponse, run, settled, hclk, hj, hx, Bool.not_true, Bool.false_eq_true, if_false]

theorem memResponse_stray (hclk : clocked s.m c = true) (hj : chanJoined s.m c = true) (hx : find (chanAt s.m c) = none) :
    memResponse c find take s = .next (settled s s.m) := by
  simp only [memResponse, run, settled, hclk, hj, hx, Bool.not_true, Bool.false_eq_true, if_false]

theorem memResponse_unjoined (hclk : clocked s.m c = true) (hj : chanJoined s.m c = false) :
    memResponse c find take s = .next (settled s (discardResponse s.m)) := by
  simp only [memResponse, run, settled, hclk, hj, Bool.not_true, Bool.not_false, Bool.false_eq_true, if_false, if_true]

end Response

theorem modChan_erase_read {c : Half} {m : Mach} {x : RdCmd} (hq : (chanAt m c).readO = [x]) :
    modChan c (fun ch => { ch with readO := ch.readO.erase x }) m = modChan c (fun ch => { ch with readO := [] }) m :=
  modChan_congr (by simp [hq])

theorem modChan_erase_write {c : Half} {m : Mach} {x : WrCmd} (hq : (chanAt m c).writeO = [x]) :
    modChan c (fun ch => { ch with writeO := ch.writeO.erase x }) m = modChan c (fun ch => { ch with writeO := [] }) m :=
  modChan_congr (by simp [hq])

theorem modChan_erase_atomic {c : Half} {m : Mach} {x : AtCmd} (hq : (chanAt m c).atomO = [x]) :
    modChan c (fun ch => { ch with atomO := ch.atomO.erase x }) m = modChan c (fun ch => { ch with atomO := [] }) m :=
  modChan_congr (by simp [hq])

section Taken

variable {c : Half} {s : State} (hclk : clocked s.m c = true) (hj : chanJoined s.m c = true)

include hclk hj

/-- The response to the one outstanding READ. -/
theorem memReadResponse_only {x : RdCmd} (hq : (chanAt s.m c).readO = [x]) (ok : Bool) (d : Line) : exec (.memReadResponse c x.tag ok d) s
    = .next (settled s (readOver s.regs c x ok d (modChan c (fun ch => { ch with readO := [] }) s.m))) := by
  change execMemReadResponse c x.tag ok d s = _
  rw [execMemReadResponse, memResponse_takes hclk hj (x := x) (by simp [hq]), readResponse, modChan_erase_read hq]

/-- The response to the one outstanding WRITE. -/
theorem memWriteResponse_only {x : WrCmd} (hq : (chanAt s.m c).writeO = [x]) (ok : Bool) : exec (.memWriteResponse c x.tag ok) s
    = .next (settled s (if ok then writeDone s.regs c x (modChan c (fun ch => { ch with writeO := [] }) s.m)
      else writeFailed s.regs c lossWRITE lossLOST x (modChan c (fun ch => { ch with writeO := [] }) s.m))) := by
  change execMemWriteResponse c x.tag ok s = _
  rw [execMemWriteResponse, memResponse_takes hclk hj (x := x) (by simp [hq]), writeResponse, modChan_erase_write hq]

/-- The response to the one outstanding ATOMIC. -/
theorem memAtomicResponse_only {x : AtCmd} (hq : (chanAt s.m c).atomO = [x]) (hs : (halfAt s.m c).safe = false) (ok : Bool) (old : BitVec 64) :
    exec (.memAtomicResponse c x.tag ok old) s = .next (settled s
      (if ok then complete x.req .done ((old &&& BitVec.ofNat 64 (2 ^ (8 * 2 ^ x.req.size.toNat) - 1)).setWidth 2048)
          (modChan c (fun ch => { ch with atomO := [] }) s.m)
        else failData c lossMEM x.req (modChan c (fun ch => { ch with atomO := [] }) s.m))) := by
  change execMemAtomicResponse c x.tag ok old s = _
  rw [execMemAtomicResponse, memResponse_takes hclk hj (x := x) (by simp [hq]), atomicResponse, modChan_erase_atomic hq]
  simp only [modChan_halfAt, hs, Bool.false_eq_true, if_false]

end Taken

/-- No writeback is held back in an empty victim buffer. -/
theorem sendHeldBack_empty {g : Regs} {h : Half} {l : LineAddr} {m : Mach} (hv : (halfAt m h).vb = []) : sendHeldBack g h l m = m := by
  simp only [sendHeldBack, hv, List.filter_nil, List.foldl_nil]

/-- Settles O27: the response is taken (`memResponse_takes`), and its one command is gone. -/
theorem memoryResponsesArrive : Obligations.MemoryResponsesArrive := by
  refine ⟨fun c s hclk hj hs => ⟨?fill, ?failed, ?write, ?lost, ?atomic, ?atomicFailed⟩, fun c tag ok d old s hclk => ⟨fun hj => ?stray, fun hj => ?unjoined⟩⟩
  case fill =>
    intro x e d hq hwhy hmiss hl hp
    have hm : missOf (halfAt s.m c) x.line = some e := by simp [missOf, hmiss, hl]
    rw [memReadResponse_only hclk hj hq]
    simp only [readOver, hwhy, modChan_halfAt, hs, Bool.false_eq_true, if_false, fillArrive, hm, if_true, fillData]
    refine congrArg (fun m => Host.Outcome.next (settled s m)) (modHalf_congr ?_)
    simp [hmiss, quietFill, hp]
  case failed =>
    intro x e d hq hwhy hm hl
    have hl' : locate (halfAt (dropMiss c x.line (modChan c (fun ch => { ch with readO := [] }) s.m)) c) x.line = none := by
      simp only [dropMiss, halfAt_modHalf, modChan_halfAt]
      exact hl
    rw [memReadResponse_only hclk hj hq]
    simp only [readOver, hwhy, modChan_halfAt, hs, Bool.false_eq_true, if_false, fillArrive, hm, hl', Option.isSome_none]
  case write =>
    intro x r hq hvb hv hws m
    have hv' : (halfAt (modChan c (fun ch => { ch with writeO := [] }) s.m) c).vb = [] := hv
    refine ⟨fun old hop hg => ?_, fun hg => ?_⟩ <;> rw [memWriteResponse_only hclk hj hq]
    · simp only [if_true, writeDone, hvb, hws, sendHeldBack_empty hv', List.foldl_cons, List.foldl_nil, hg, Option.isNone_some, Bool.false_eq_true, if_false,
        wroteBack, hop, Option.getD_some]
      rfl
    · simp only [if_true, writeDone, hvb, hws, sendHeldBack_empty hv', List.foldl_cons, List.foldl_nil, hg, Option.isNone_none]
      rfl
  case lost =>
    intro x hq hvb hws
    rw [memWriteResponse_only hclk hj hq]
    simp only [Bool.false_eq_true, if_false, writeFailed, hvb, hws, List.foldl_nil]
  case atomic =>
    intro x old hq
    rw [memAtomicResponse_only hclk hj hq hs, if_pos rfl]
  case atomicFailed =>
    intro x old hq
    rw [memAtomicResponse_only hclk hj hq hs, if_neg Bool.false_ne_true]
  case stray =>
    refine ⟨fun hx => ?_, fun hx => ?_, fun hx => ?_⟩
    · change execMemReadResponse c tag ok d s = _
      exact memResponse_stray hclk hj (List.find?_eq_none.mpr fun x hm => by simpa using hx x hm)
    · change execMemWriteResponse c tag ok s = _
      exact memResponse_stray hclk hj (List.find?_eq_none.mpr fun x hm => by simpa using hx x hm)
    · change execMemAtomicResponse c tag ok old s = _
      exact memResponse_stray hclk hj (List.find?_eq_none.mpr fun x hm => by simpa using hx x hm)
  case unjoined =>
    refine ⟨(Config.freeWord s.m.freeCtr).extractLsb' 0 4, (Config.freeWord s.m.freeCtr).extractLsb' 4 6, ?_, ?_, ?_⟩
    · change execMemReadResponse c tag ok d s = _
      exact memResponse_unjoined hclk hj
    · change execMemWriteResponse c tag ok s = _
      exact memResponse_unjoined hclk hj
    · change execMemAtomicResponse c tag ok old s = _
      exact memResponse_unjoined hclk hj

end Sys2Proof.Machine
end

section
/-!
Fills, recalls, drains and moves of a half (O29).
-/

namespace Sys2Proof.Machine

section Pass

variable {h : Half} {m : Mach}

/-- A pass of the install stage moves its pointer alone. -/
theorem instGrant_ras (rs : List Req) : (instGrant h rs m).ras = m.ras := by
  unfold instGrant
  split <;> rfl

theorem instGrant_locate (rs : List Req) (l : LineAddr) : locate (halfAt (instGrant h rs m) h) l = locate (halfAt m h) l := by
  unfold instGrant
  split
  · rfl
  · rw [halfAt_modHalf]
    rfl

theorem noteRange_off (before : Mach) : noteRange h false before m = m := by simp only [noteRange, Bool.false_eq_true, if_false]

theorem goAll_nil (st : Stage) : goAll h st [] m = m := by simp [goAll]

end Pass

section Fill

variable {h : Half} {l : LineAddr} {s : State} {e : MissEntry} (hclk : clocked s.m h = true) (he : missOf (halfAt s.m h) l = some e)
  (ha : e.arrived = true)

include hclk he ha

/-- A fill whose data has arrived goes to its place. -/
theorem fillInstall_arrived : exec (.fillInstall h l) s = .next (settled s (noteRange h (ofRange e.waiters) s.m
    (installLine s.regs h e (instGrant h e.waiters (readLookup s.regs h l s.m))))) := by
  change execFillInstall h l s = _
  simp only [execFillInstall, run, settled, he, hclk, ha, Bool.not_true, Bool.or_self, Bool.false_eq_true, if_false]

end Fill

/-- A fill of one read, whose line no frame holds. -/
theorem installLine_read {g : Regs} {h : Half} {e : MissEntry} {r : Req} {m m' : Mach} {pl : Place} (herr : m.ras.errs = []) (hno : e.noFill = false)
    (hl : locate (halfAt m h) e.line = none) (hw : e.waiters = [r]) (hop : r.op = .rdNc) (hx : e.xreq = none) (hc : g.hc[h].cen = true)
    (hp : placeFor g h e.line (writtenLine [r] (mergedData (halfAt m h) e.line e.data)) (fillMask g m h e) m = (pl, m')) :
    installLine g h e m = if pl == .wait then m' else fillInto g h e (mergedData (halfAt m h) e.line e.data)
      (e.dirty ||| mergedSectors (halfAt m h) e.line) pl (discardMerges h e.line (dropMiss h e.line m')) := by
  have hm (log : Bool) : readMerges g h e.line log m = (false, m) := by simp only [readMerges, herr, List.isEmpty_nil, if_true]
  have hpin : ([r].find? fun r => r.op == .pin) = none := by simp [hop]
  have hcen : (e.noFill || !g.hc[h].cen) = false := by rw [hno, hc]; rfl
  simp only [installLine, hl, installFill, Option.isSome_none, Bool.false_eq_true, if_false, hm, hw, hpin, hcen, hx, hp]

/-- The one read is answered, and its line goes into its place. -/
theorem fillInto_read {g : Regs} {h : Half} {e : MissEntry} {r : Req} {m : Mach} {pl : Place} (hw : e.waiters = [r]) (hop : r.op = .rdNc)
    (hx : e.xreq = none) (hpl : pl ≠ .nowhere) (d : Line) (dirty : BitVec 4) :
    fillInto g h e d dirty pl m = putLine g h e.line d dirty (installAge g h e) pl (answerRead r d m) := by
  have hs : serveAll (pl != .nowhere) [r] d dirty m = ⟨d, dirty, [], [], answerRead r d m⟩ := by
    simp [serveAll, answeredByFill, serveOne, hop, isUpdate]
  have hn : (pl == .nowhere) = false := by simpa using hpl
  simp only [fillInto, hx, Option.isSome_none, Bool.false_eq_true, if_false, hw, hs, hn, markFilled, List.map_nil, goAll_nil]

/-- Settles O29: a fill by `installLine_read` and `fillInto_read`; the other events under the conditions of their rows. -/
theorem cacheEventsHappen : Obligations.CacheEventsHappen := by
  refine ⟨fun h l s e hclk he ha hl => ?_, fun h l s e hclk => ?_, fun h l s => ⟨?drain, ?drainEnd, ?moveOut, ?moveEnd, ?moveAgain⟩⟩
  · intro m0
    refine ⟨fun r pl m herr hno hloc hw hop hor hx hc => ?_, fun p hno hloc hlost hlook hx => ?_⟩
    · subst hl
      have hfar : ofRange e.waiters = false := by
        rw [hw]
        cases horig : r.origin <;> simp [ofRange, horig]
        case range k => exact hor k horig
      have herr0 : m0.ras.errs = [] := by rw [instGrant_ras, readLookup_clean herr, herr]
      have hloc0 : locate (halfAt m0 h) e.line = none := by rw [instGrant_locate, readLookup_clean herr, hloc]
      intro d hp
      have hinst := installLine_read herr0 hno hloc0 hw hop hx hc hp
      rw [fillInstall_arrived hclk he ha, hfar, noteRange_off, hinst]
      refine ⟨fun hpl => ?_, fun hpl hpn => ?_⟩
      · rw [if_pos (by rw [hpl]; rfl)]
      · rw [if_neg (by simpa using hpl), fillInto_read hw hop hx hpn]
    · rw [fillInstall_arrived hclk he ha]
      subst hl
      have hsome : (lookup s.regs m0 h e.line).isNone = false := by simpa [Option.isSome_iff_ne_none] using hlook
      have hline : installLine s.regs h e m0 = if overwriteFits s.regs m0 h e.line p e.data then
          goAll h .data (markFilled e.waiters) (drainLine s.regs h e.line (overwriteLine s.regs h e.line p e.data e.dirty (dropMiss h e.line m0)))
          else startMove h e.line e.label none m0 := by
        simp only [installLine, hloc, hno, hlost, hsome, Bool.false_eq_true, if_false, hx, Option.isSome_none]
      rw [← hline]
  · intro m0 hdue
    have hnow : exec (.victimRecall h l) s
        = .next (settled s (noteRange h (ofRange e.waiters) m0 (recallNow s.regs h l e (instGrant h e.waiters m0)))) := by
      change execVictimRecall h l s = _
      simp only [execVictimRecall, run, settled, hclk, Bool.not_true, Bool.false_eq_true, if_false, hdue, m0]
    refine ⟨hnow, fun herr hslot hfree hc hway hw => ?_⟩
    have hm0 : m0 = s.m := readLookup_clean herr s.regs h l
    rw [hnow, hm0, hw]
    simp only [ofRange, List.any_nil, noteRange_off, instGrant, recallNow, checkWords, herr, List.isEmpty_nil, if_true, hslot, hfree, hc, Bool.not_true,
      Bool.false_eq_true, if_false, recallFrame, hway, recallAbandoned, hw, List.map_nil, List.eraseDups_nil, List.foldl_nil]
  case drain => 
    intro k e he hclk hd
    change execMergeEntryTimeout h l k s = _
    simp only [execMergeEntryTimeout, run, settled, he, hclk, hd, Bool.not_true, Bool.or_self, Bool.false_eq_true, if_false]
  case drainEnd =>
    intro k e he hd
    change execMergeDrainEnd h l k s = _
    simp only [execMergeDrainEnd, run, settled, he, hd, Bool.not_true, Bool.false_eq_true, if_false]
  case moveOut =>
    intro v hv hclk hs
    change execPackMoveOut h l s = _
    simp only [execPackMoveOut, run, settled, hv, hclk, hs, Bool.not_true, Bool.or_self, Bool.false_eq_true, if_false]
  case moveEnd =>
    intro v hv hs hm hn
    change execPackMoveEnd h l s = _
    have hn' : needsHold (halfAt (modHalf h (fun hs => { hs with moves := hs.moves.filter fun x => x.line != l }) s.m) h) l = false := by
      rw [halfAt_modHalf]
      exact hn
    simp only [execPackMoveEnd, run, settled, hv, hs, hm, Bool.not_true, Bool.false_eq_true, if_false, hn']
  case moveAgain =>
    intro v hv hs hm
    change execPackMoveEnd h l s = _
    simp only [execPackMoveEnd, run, settled, hv, hs, hm, Bool.not_true, Bool.false_eq_true, if_false, if_true]

end Sys2Proof.Machine
end

section
/-!
Messages of partners that have joined, and of those that have not (O34, O35, O36).
-/

namespace Sys2Proof.Machine

section Taken

variable {k : Fin 3} {src : BitVec 5} {cls : Fin 4} {units : Nat} {mtype : BitVec 6} {a : Addr} {f : Regs → Mach → Mach} {s : State}

/-- The count of the messages received is all that a message taken changes on its link. -/
theorem partJoined_takeMsg (j : Fin 3) (m : Mach) : partJoined (takeMsg k cls units m) j src = partJoined m j src := by
  unfold partJoined
  rcases eq_or_ne j k with rfl | hj
  · simp [takeMsg, partOf]
  · simp [takeMsg, linkAt_modLink_ne _ _ hj]

/-- A half that takes beats takes a message of its link: its credits go back, and the rest depends on its partner. -/
theorem message_awake (ha : awakeHalf s.m (fin3Half k)) : message k src cls units mtype a f s = .next (settled s
    (if partJoined s.m k src then f s.regs (takeMsg k cls units s.m)
      else logVio (vioMessage (BitVec.ofNat 4 (4 + k.val)) mtype a) (takeMsg k cls units s.m))) := by
  obtain ⟨hawake, htail⟩ := ha
  simp only [message, clocked_of_awake hawake, run, htail, Bool.not_true, Bool.false_eq_true, if_false, partJoined_takeMsg, settled]

theorem message_heard (hc : canHear s k src) :
    message k src cls units mtype a f s = .next (settled s (f s.regs (takeMsg k cls units s.m))) := by
  rw [message_awake hc.1, if_pos hc.2]

theorem message_unjoined (ha : awakeHalf s.m (fin3Half k)) (hj : partJoined s.m k src = false) :
    message k src cls units mtype a f s
      = .next (settled s (logVio (vioMessage (BitVec.ofNat 4 (4 + k.val)) mtype a) (takeMsg k cls units s.m))) := by
  rw [message_awake ha, if_neg (by simp [hj])]

end Taken

/-! ## Peer messages -/

theorem execFwd_heard {x : FwdMsg} {o : Op} {s : State} (ho : opOfBits x.opc = some o) (hc : canHear s (peerLink x.ch) x.sslice) :
    exec (.fwd x) s = .next (settled s
      (fwdTake s.regs x o (takeMsg (peerLink x.ch) (if isLane1 o then 3 else 0) (wdBeats o x.beat.size.toNat) s.m))) := by
  change execFwd x s = _
  unfold execFwd
  rw [message_heard hc]
  simp only [ho, Option.getD_some, Option.isSome_some, if_true, beatsOf]

theorem fwdTake_report {g : Regs} {x : FwdMsg} {o : Op} {m : Mach} (h : x.beat.rsv.getLsbD 0 = true ∨ x.beat.rsv.getLsbD 1 = true) :
    fwdTake g x o m
      = { m with reports := m.reports ++ [⟨ctrNum x.beat.addr, x.beat.aux.toNat, x.beat.rsv.getLsbD 0, x.beat.rsv.getLsbD 1⟩] } := by
  unfold fwdTake
  rw [if_pos (by simpa only [bitAt, Bool.or_eq_true] using h)]

theorem fwdTake_request {g : Regs} {x : FwdMsg} {o : Op} {m : Mach} (h0 : x.beat.rsv.getLsbD 0 = false) (h1 : x.beat.rsv.getLsbD 1 = false)
    (hp : o ≠ .pref ∨ x.beat.aux.getLsbD 31 = false) :
    fwdTake g x o m = orderAt g (reqHalf m (fwdReq x o m.nextId (coreTime m x.ch))) (fwdReq x o m.nextId (coreTime m x.ch))
      { m with nextId := m.nextId + 1 } := by
  unfold fwdTake
  rw [if_neg (by simp only [bitAt, h0, h1]; decide)]
  have hb : (o == .pref && bitAt x.beat.aux 31) = false := by
    rcases hp with hp | hp
    · simp [hp]
    · simp only [bitAt, hp, Bool.and_false]
  simp only [hb, Bool.false_eq_true, if_false]
  rfl

theorem execFwd_reserved {x : FwdMsg} {s : State} (ho : opOfBits x.opc = none) (hc : canHear s (peerLink x.ch) x.sslice) :
    exec (.fwd x) s =
      let m := takeMsg (peerLink x.ch) 0 0 s.m
      let r := fwdReq x .rdNc m.nextId (coreTime m x.ch)
      .next (settled s (complete r .errDecode 0
        (logVio (vioRequest (BitVec.ofNat 4 (4 + x.ch.val)) .errDecode x.opc r) { m with nextId := m.nextId + 1 }))) := by
  change execFwd x s = _
  unfold execFwd
  rw [message_heard hc]
  simp only [ho, beatsOf]
  rfl

/-- Settles O34: a joined partner's message is taken and has its effect; each opcode class is one case. -/
theorem peerMessagesAreTaken : Obligations.PeerMessagesAreTaken := by
  unfold Obligations.PeerMessagesAreTaken
  refine ⟨fun x o s ho hc => ⟨fun hr => ?_, fun h0 h1 hp => ?_⟩, fun x s ho hc => execFwd_reserved ho hc, fun x f s hc hf => ?_,
    fun x s hc hf => ?_, fun x s hc => ?_, fun x f s hc hf => ?_, fun x s hc hf => ?_⟩
  case refine_1 => rw [execFwd_heard ho hc, fwdTake_report hr]
  case refine_2 => rw [execFwd_heard ho hc, fwdTake_request h0 h1 hp]
  case refine_3 =>
    change execCmpl x s = _
    rw [execCmpl, message_heard hc, show cmplOf x (takeMsg _ _ _ s.m) = some f from hf]
  case refine_4 =>
    change execCmpl x s = _
    rw [execCmpl, message_heard hc, show cmplOf x (takeMsg _ _ _ s.m) = none from hf]
  case refine_5 =>
    change execSnpf x s = _
    rw [execSnpf, message_heard hc]
  case refine_6 =>
    change execSrspf x s = _
    rw [execSrspf, message_heard hc, show srspfOf x (takeMsg _ _ _ s.m) = some f from hf]
  case refine_7 =>
    change execSrspf x s = _
    rw [execSrspf, message_heard hc, show srspfOf x (takeMsg _ _ _ s.m) = none from hf]

/-! ## Remote messages -/

/-- Settles O35: the remote messages are the same, their requests built by `remoteReq`. -/
theorem remoteMessagesAreTaken : Obligations.RemoteMessagesAreTaken := by
  unfold Obligations.RemoteMessagesAreTaken
  refine ⟨fun x s hc => ?_, fun x s hc hs => ?_, fun x s hc => ?_, fun x o s hc ho => ?_, fun x s hc ho => ?_⟩
  case refine_1 =>
    change execXreq x s = _
    rw [execXreq, message_heard hc]
    rfl
  case refine_2 =>
    change execXwb x s = _
    rw [execXwb, message_heard hc]
    dsimp only [remoteReq, newId] at hs ⊢
    rw [hs]
    rfl
  case refine_3 =>
    change execXsnp x s = _
    rw [execXsnp, message_heard hc]
    rfl
  case refine_4 =>
    change execXrsp x s = _
    rw [execXrsp, message_heard hc, show xrspOf x (takeMsg _ _ _ s.m) = some o from ho]
  case refine_5 =>
    change execXrsp x s = _
    rw [execXrsp, message_heard hc, show xrspOf x (takeMsg _ _ _ s.m) = none from ho]

/-! ## Partners that have not joined -/

/-- Settles O36: every message goes through `message`, whose other branch logs it. -/
theorem unjoinedMessageIsDiscarded : Obligations.UnjoinedMessageIsDiscarded := by
  unfold Obligations.UnjoinedMessageIsDiscarded
  intro s
  refine ⟨fun x ha hj => ?_, fun x ha hj => ?_, fun x ha hj => ?_, fun x ha hj => ?_, fun x ha hj => ?_, fun x ha hj => ?_,
    fun x ha hj => ?_, fun x ha hj => ?_⟩
  case refine_1 =>
    change execFwd x s = _
    rw [execFwd, message_unjoined ha hj]
    rfl
  case refine_2 =>
    change execCmpl x s = _
    rw [execCmpl, message_unjoined ha hj]
    rfl
  case refine_3 =>
    change execSnpf x s = _
    rw [execSnpf, message_unjoined ha hj]
    simp only [beq_iff_eq]
    rfl
  case refine_4 =>
    change execSrspf x s = _
    rw [execSrspf, message_unjoined ha hj]
    rfl
  case refine_5 =>
    change execXreq x s = _
    rw [execXreq, message_unjoined ha hj]
    rfl
  case refine_6 =>
    change execXwb x s = _
    rw [execXwb, message_unjoined ha hj]
    rfl
  case refine_7 =>
    change execXsnp x s = _
    rw [execXsnp, message_unjoined ha hj]
    rfl
  case refine_8 =>
    change execXrsp x s = _
    rw [execXrsp, message_unjoined ha hj]
    rfl

end Sys2Proof.Machine
end

section
/-!
The hello exchange of a request port (O37), reclaim (O38), the levels of the links and the reset of a port (O39).
-/

namespace Sys2Proof.Machine

/-! ## The hello exchange -/

section Exchange

variable {p : PortIx} {s : State} {w : BitVec 64}

/-- An exchange of a port whose half takes beats takes place. -/
theorem helloCommand_port {f : Regs → Mach → Mach} (ha : awakeHalf s.m (portHalf p)) (hs : silenced s.m (.port p) = false) :
    helloCommand (.port p) f s = .next (settled s (f s.regs s.m)) := by
  obtain ⟨hawake, htail⟩ := ha
  have hc : clocked s.m (helloHalf (.port p)) = true := clocked_of_awake hawake
  have ht : (halfAt s.m (helloHalf (.port p))).pw.tail = false := htail
  simp only [helloCommand, hc, run, ht, msgLink, hs, Bool.not_true, Bool.false_eq_true, if_false, settled]

/-- That the partner's HELLO has been heard. -/
def hearHello (x : Port) : Port := { x with hello := { x.hello with heard := true } }

theorem portIdx_hearHello (m : Mach) (q : PortIx) : (portAt (modPort p hearHello m) q).idx = (portAt m q).idx := by
  rcases eq_or_ne q p with rfl | hq
  · rw [portAt_modPort]
    rfl
  · rw [portAt_modPort_ne _ _ hq]

theorem pickIndex_hearHello (m : Mach) : pickIndex (modPort p hearHello m) p = pickIndex m p := by
  have hfree : freeIndex (modPort p hearHello m) = freeIndex m := by
    funext i
    simp only [freeIndex, portIdx_hearHello]
    rfl
  have hformer : (portAt (modPort p hearHello m) p).former = (portAt m p).former := by
    rw [portAt_modPort]
    rfl
  simp only [pickIndex, hfree, hformer, portIdx_hearHello]
  rfl

/-- What a HELLO is refused for does not depend on its having been heard. -/
theorem helloReason_hearHello (g : Regs) (m : Mach) : helloReason g (modPort p hearHello m) (.port p) w = helloReason g m (.port p) w := by
  have hformer : (portAt (modPort p hearHello m) p).former = (portAt m p).former := by
    rw [portAt_modPort]
    rfl
  have hjoined : isJoined (portAt (modPort p hearHello m) p).hello = isJoined (portAt m p).hello := by
    rw [portAt_modPort]
    rfl
  simp only [helloReason, pickIndex_hearHello, reclaiming, hformer, helloOf, hjoined]
  rfl

theorem execHello_port (ha : awakeHalf s.m (portHalf p)) (hs : silenced s.m (.port p) = false) (hk : wordKind w = 1) :
    exec (.hello (.port p) w) s = .next (settled s (helloTake s.regs (.port p) w (modPort p hearHello s.m))) := by
  change execHello (.port p) w s = _
  rw [execHello, helloCommand_port ha hs]
  simp only [hk, beq_self_eq_true, if_true]
  rfl

/-- The JOIN of a port whose partner has not sent its own is sent, and completes nothing. -/
theorem markJoin_out {m : Mach} (hj : (portAt m p).hello.joinIn = false) :
    markJoin (.port p) (fun x => { x with joinOut := true }) m
      = modPort p (fun x => { x with hello := { x.hello with joinOut := true } }) m := by
  unfold markJoin
  have hn : isJoined (helloOf (modHello (.port p) (fun x => { x with joinOut := true }) m) (.port p)) = false := by
    simp [helloOf, modHello, isJoined, hj]
  rw [if_neg (by simp [hn])]
  rfl

theorem emit_modPort (o : Output) (f : Port → Port) (m : Mach) : emit o (modPort p f m) = modPort p f (emit o m) := rfl

/-- The HELLO of an agent without a cache whose port keeps no former index is accepted. -/
theorem acceptHello_uncached {m : Mach} (hc : w.getLsbD 0 = false) (hj : (portAt m p).hello.joinIn = false)
    (hf : (portAt m p).former = none) :
    acceptHello (.port p) w m = modPort p (fun x => { x with
        hello := { x.hello with waiting := none, joinOut := true }, caching := false, idx := none })
      (emit (.hello (.port p) 0xA000000000000000) m) := by
  have hr : stillReclaiming m (.port p) = false := by simp [stillReclaiming, reclaiming, hf]
  have hw : helloWord 2 8 0 0 = 0xA000000000000000 := by decide
  have hsend : ∀ t : Mach, sendWord (.port p) 2 0 0 t = emit (.hello (.port p) 0xA000000000000000) t := fun t => by
    rw [← hw]
    rfl
  have hb : bitAt w 0 = false := hc
  simp only [acceptHello, hr, hb, Bool.false_eq_true, if_false, takeCap, modHello, hsend]
  rw [markJoin_out (by simp [hj])]
  simp only [emit_modPort, modPort_modPort]

end Exchange

/-- A completed exchange of a port whose state has changed as `f` says. -/
theorem joinDone_port {p : PortIx} (f : Hello → Hello) (m : Mach) :
    joinDone (.port p) (modHello (.port p) f m) = modPort p (fun x => { dropDue { x with hello := f x.hello } with
        departed := false, avail := Credits.none, owed := ⟨64, 16, 32, 16⟩ })
      { m with coh := { m.coh with joins := m.coh.joins + 1 } } :=
  modPort_modPort p (fun x => { dropDue x with departed := false, avail := Credits.none, owed := ⟨64, 16, 32, 16⟩ })
    (fun x => { x with hello := f x.hello }) { m with coh := { m.coh with joins := m.coh.joins + 1 } }

/-- A JOIN after the port's own completes the exchange. -/
theorem joinTake_port {g : Regs} {p : PortIx} {w : BitVec 64} {m : Mach} (hw : wordRole w = 1) (hen : g.rpEn[p] = true)
    (hout : (portAt m p).hello.joinOut = true) (hin : (portAt m p).hello.joinIn = false) :
    joinTake g (.port p) w m = modPort p (fun x => { dropDue x with
        hello := { x.hello with joinIn := true }, departed := false, avail := Credits.none, owed := ⟨64, 16, 32, 16⟩ })
      { m with coh := { m.coh with joins := m.coh.joins + 1 } } := by
  have hbefore : isJoined (helloOf m (.port p)) = false := by simp [isJoined, helloOf, hin]
  have hrole : (wordRole w != roleOf (.port p)) = false := by rw [hw]; rfl
  have hafter : isJoined (helloOf (modHello (.port p) (fun x => { x with joinIn := true }) m) (.port p)) = true := by
    simp [helloOf, modHello, isJoined, hout]
  simp only [joinTake, hbefore, hrole, enabled, hen, Bool.not_true, Bool.or_self, Bool.false_eq_true, if_false, markJoin, hafter,
    Bool.not_false, Bool.and_self, if_true]
  exact joinDone_port _ m

/-- The port's HELLO is sent. -/
theorem startHello_port {p : PortIx} {m : Mach} (hs : silenced m (.port p) = false) : startHello (.port p) m
    = emit (.hello (.port p) 0x6000000000000000) (modPort p (fun x => { x with hello := { x.hello with sent := true } }) m) := by
  have hw : helloWord 1 8 0 0 = 0x6000000000000000 := by decide
  rw [← hw]
  simp only [startHello, hs, Bool.false_eq_true, if_false]
  rfl

theorem execHelloRepeat_port {p : PortIx} {s : State} (ha : (halfAt s.m (portHalf p)).pw.awake = true) (hen : s.regs.rpEn[p] = true)
    (hj : isJoined (portAt s.m p).hello = false) (hd : (portAt s.m p).hello.sent = false ∨ (portAt s.m p).hello.heard = false) :
    exec (.helloRepeat (.port p)) s = .next (settled s (startHello (.port p) s.m)) := by
  have hc : clocked s.m (helloHalf (.port p)) = true := clocked_of_awake ha
  have hdue : (!(portAt s.m p).hello.sent || !(portAt s.m p).hello.heard) = true := by rcases hd with h | h <;> simp [h]
  change execHelloRepeat (.port p) s = _
  simp only [execHelloRepeat, run, helloOf, hc, mayGreet, enabled, hen, msgLink, hj, hdue, Bool.not_false, Bool.and_self, if_true, settled]

/-- Settles O37: each word is taken by the branch of its KIND, of a half that takes beats. -/
theorem helloExchangeCompletes : Obligations.HelloExchangeCompletes := by
  unfold Obligations.HelloExchangeCompletes
  intro p w s ha hs
  refine ⟨fun hk hr hc hj hf => ?_, fun r hk hr => ?_, fun hk hrole hen hout hin => ?_, fun hen hj hd => ?_, fun hj hsent hheard => ?_,
    fun hk hj => ?_, fun hk hj => ?_⟩
  case refine_1 =>
    have hj' : (portAt (modPort p hearHello s.m) p).hello.joinIn = false := by rw [portAt_modPort]; exact hj
    have hf' : (portAt (modPort p hearHello s.m) p).former = none := by rw [portAt_modPort]; exact hf
    rw [execHello_port ha hs hk, helloTake, helloReason_hearHello, hr]
    dsimp only
    rw [acceptHello_uncached hc hj' hf', emit_modPort, modPort_modPort]
    rfl
  case refine_2 =>
    rw [execHello_port ha hs hk, helloTake, helloReason_hearHello, hr]
    rfl
  case refine_3 =>
    change execJoin (.port p) w s = _
    rw [execJoin, helloCommand_port ha hs, if_pos (by simp [hk]), joinTake_port hrole hen hout hin]
  case refine_4 => rw [execHelloRepeat_port ha.1 hen hj hd, startHello_port hs, emit_modPort]
  case refine_5 =>
    change execHelloRepeat (.port p) s = _
    simp only [execHelloRepeat, run, helloOf, hsent, hheard, Bool.not_true, Bool.or_self, Bool.and_false, Bool.false_eq_true, if_false,
      settled]
  case refine_6 =>
    change execBye (.port p) w s = _
    have hj' : isJoined (helloOf (noteReject (wordRole w) (wordReason w) s.m) (.port p)) = true := by
      unfold noteReject
      split
      · exact hj
      · exact hj
    rw [execBye, helloCommand_port ha hs, if_neg (by simp [hk])]
    dsimp only
    rw [if_pos hj']
    rfl
  case refine_7 =>
    change execBye (.port p) w s = _
    have hj' : isJoined (helloOf (noteReject (wordRole w) (wordReason w) s.m) (.port p)) = false := by
      unfold noteReject
      split
      · exact hj
      · exact hj
    rw [execBye, helloCommand_port ha hs, if_neg (by simp [hk])]
    dsimp only
    rw [if_neg (by simp [hj'])]
    rfl

/-! ## Reclaim -/

theorem startWalk_coh (h : Half) (m : Mach) : (startWalk h m).coh = m.coh := by
  unfold startWalk
  split
  · rfl
  · rfl

theorem holderGone_agent_coh (g : Regs) (h : Half) (i : BitVec 6) (m : Mach) : (holderGone g h (.agent i) m).coh = m.coh := rfl

/-- What goes on when an index dies leaves the dead indices as they are. -/
theorem killIndex_dead (g : Regs) (i : BitVec 6) (m : Mach) : (killIndex g i m).coh.dead = m.coh.dead ||| agentBit i := by
  simp only [killIndex, bothHalves, List.foldl_cons, List.foldl_nil, startWalk_coh, holderGone_agent_coh]
  rfl

theorem killIndex_kills (g : Regs) (i : BitVec 6) (m : Mach) : (killIndex g i m).coh.dead.getLsbD i.toNat = true := by
  rw [killIndex_dead, BitVec.getLsbD_or]
  have hi : i.toNat < 64 := i.isLt
  simp [agentBit, hi]

section Clean

variable (e : DirEntry)

/-- To settle the state of an entry changes no holder. -/
theorem settleState_holders : (settleState e).agents = e.agents ∧ (settleState e).chips = e.chips := by
  unfold settleState
  split_ifs <;> exact ⟨rfl, rfl⟩

/-- A settled entry that is owned, or away, was so before. -/
theorem settleState_owned (hx : (settleState e).state = 2#3 ∨ (settleState e).state = 3#3) : settleState e = e := by
  unfold settleState at hx ⊢
  split_ifs at hx ⊢ with h0 h1
  · exact absurd hx (show ¬((0#3 = 2#3) ∨ (0#3 = 3#3)) by decide)
  · exact absurd hx (show ¬((1#3 = 2#3) ∨ (1#3 = 3#3)) by decide)
  · rfl

variable (dead : BitVec 64) (gone : BitVec 32)

/-- The entry without the holders that have gone, its state as it was. -/
def thinned : DirEntry := { e with agents := e.agents &&& ~~~dead, chips := e.chips &&& ~~~gone }

/-- What a clean leaves of an owned entry. -/
theorem cleanEntry_of_unique (h : e.state = 2#3) : cleanEntry dead gone e
    = settleState (if dead.getLsbD e.owner.toNat then { thinned e dead gone with owner := 0, state := stS } else thinned e dead gone) := by
  simp [cleanEntry, h, stU, stX, thinned]

/-- What a clean leaves of an entry that is away. -/
theorem cleanEntry_of_away (h : e.state = 3#3) : cleanEntry dead gone e
    = settleState (if gone.getLsbD e.ochip.toNat then { thinned e dead gone with ochip := 0, state := stS } else thinned e dead gone) := by
  simp [cleanEntry, h, stU, stX, thinned]

/-- What a clean leaves of any other entry. -/
theorem cleanEntry_of_other (h2 : e.state ≠ 2#3) (h3 : e.state ≠ 3#3) : cleanEntry dead gone e = settleState (thinned e dead gone) := by
  simp [cleanEntry, h2, h3, stU, stX, thinned]

theorem cleanEntry_holders :
    (cleanEntry dead gone e).agents = e.agents &&& ~~~dead ∧ (cleanEntry dead gone e).chips = e.chips &&& ~~~gone := by
  unfold cleanEntry
  obtain ⟨ha, hc⟩ := settleState_holders (e := _)
  rw [ha, hc]
  split_ifs <;> exact ⟨rfl, rfl⟩

/-- A cleaned entry is owned only where it was, by an agent that is not dead. -/
theorem cleanEntry_owner (h : (cleanEntry dead gone e).state = 2#3) : dead.getLsbD (cleanEntry dead gone e).owner.toNat = false := by
  by_cases h2 : e.state = 2#3
  · rw [cleanEntry_of_unique e dead gone h2] at h ⊢
    have hset := settleState_owned _ (.inl h)
    rw [hset] at h ⊢
    split_ifs at h ⊢ with hd
    · exact absurd h (show (1#3 : BitVec 3) ≠ 2#3 by decide)
    · simpa [thinned] using hd
  by_cases h3 : e.state = 3#3
  · rw [cleanEntry_of_away e dead gone h3] at h
    rw [settleState_owned _ (.inl h)] at h
    split_ifs at h
    · exact absurd h (show (1#3 : BitVec 3) ≠ 2#3 by decide)
    · exact absurd h h2
  · rw [cleanEntry_of_other e dead gone h2 h3] at h
    rw [settleState_owned _ (.inl h)] at h
    exact absurd h h2

/-- A cleaned entry is away only where it was, with a package that has not gone. -/
theorem cleanEntry_ochip (h : (cleanEntry dead gone e).state = 3#3) : gone.getLsbD (cleanEntry dead gone e).ochip.toNat = false := by
  by_cases h3 : e.state = 3#3
  · rw [cleanEntry_of_away e dead gone h3] at h ⊢
    have hset := settleState_owned _ (.inr h)
    rw [hset] at h ⊢
    split_ifs at h ⊢ with hd
    · exact absurd h (show (1#3 : BitVec 3) ≠ 3#3 by decide)
    · simpa [thinned] using hd
  by_cases h2 : e.state = 2#3
  · rw [cleanEntry_of_unique e dead gone h2] at h
    rw [settleState_owned _ (.inr h)] at h
    split_ifs at h
    · exact absurd h (show (1#3 : BitVec 3) ≠ 3#3 by decide)
    · exact absurd h h3
  · rw [cleanEntry_of_other e dead gone h2 h3] at h
    rw [settleState_owned _ (.inr h)] at h
    exact absurd h h3

end Clean

theorem and_not_and_self {n : Nat} (a d : BitVec n) : a &&& ~~~d &&& d = 0 := by
  rw [BitVec.and_assoc]
  simp

/-- A walk that is not at its last entry goes on to the next. -/
theorem execReclaimWalkStep_next {h : Half} {s : State} (hc : clocked s.m h = true) (hr : (halfAt s.m h).walk.run = true)
    (hp : (halfAt s.m h).walk.pos + 1 < 65536) :
    exec (.reclaimWalkStep h) s = .next (settled s (modHalf h
      (fun hs => { hs with walk := { (halfAt s.m h).walk with pos := (halfAt s.m h).walk.pos + 1 } })
      (walkEntry s.regs h (halfAt s.m h).walk.pos s.m))) := by
  have hsize : (halfAt s.m h).walk.pos + 1 < Config.dirSets * Config.dirWays := hp
  change execReclaimWalkStep h s = _
  simp only [execReclaimWalkStep, run, hc, hr, hsize, Bool.not_true, Bool.or_self, Bool.false_eq_true, if_false, if_true, settled]

/-- Settles O38: notices and answers are taken like any message; a walk writes what `cleanEntry` leaves. -/
theorem reclaimRemovesTheDead : Obligations.ReclaimRemovesTheDead := by
  unfold Obligations.ReclaimRemovesTheDead
  refine ⟨fun ch j w s hc => ⟨?_, killIndex_kills _ _ _⟩, fun ch j w s r hc hr hi => ?_,
    fun h s hc hr hp => execReclaimWalkStep_next hc hr hp, fun dead gone e => ?_⟩
  case refine_1 =>
    change execReclaimNotice ch j w s = _
    rw [execReclaimNotice, message_heard hc]
  case refine_2 =>
    change execReclaimAnswer ch j w s = _
    have hm : (takeMsg (peerLink ch) 3 0 s.m).coh.reclaims = [r] := hr
    rw [execReclaimAnswer, message_heard hc]
    simp only [hm, List.map_cons, List.map_nil, hi, beq_self_eq_true, if_true]
  case refine_3 =>
    obtain ⟨ha, hch⟩ := cleanEntry_holders e dead gone
    refine ⟨?_, ?_, cleanEntry_owner e dead gone, cleanEntry_ochip e dead gone⟩
    · rw [ha, and_not_and_self]
    · rw [hch, and_not_and_self]

/-! ## Link levels and the reset of a port -/

/-- A level that has changed is a demand unless the half of the link takes beats. -/
theorem linkDemand_eq (k : Fin 3) (m : Mach) : linkDemand k m
    = if (halfAt m (fin3Half k)).pw.awake = true ∧ (halfAt m (fin3Half k)).pw.tail = false then m else raiseDemand (fin3Half k) m := by
  unfold linkDemand clocked
  cases (halfAt m (fin3Half k)).pw.awake <;> cases (halfAt m (fin3Half k)).pw.tail <;> rfl

/-- Whoever was joined, a link that departs keeps no partner, no message and no credit. -/
theorem departLink_empty (g : Regs) (k : Fin 3) (m : Mach) : (linkAt (departLink g k m) k).hello = Hello.none
    ∧ (linkAt (departLink g k m) k).part = [] ∧ (linkAt (departLink g k m) k).sendQ = []
    ∧ ∀ c : Fin 4, (linkAt (departLink g k m) k).hcr[c] = 0 ∧ (linkAt (departLink g k m) k).dcr[c] = 0 := by
  have hcount : ∀ (b : Bool) (t : Mach), linkAt (if b = true then countDepart t else t) k = linkAt t k := fun b t => by
    cases b <;> rfl
  unfold departLink
  rw [hcount, linkAt_modLink]
  exact ⟨rfl, rfl, rfl, fun c => by simp⟩

/-- Settles O39: the two changes of a level, what a departure leaves of a link, and the reset of a port with and without its hello. -/
theorem linkLevelsAndPortReset : Obligations.LinkLevelsAndPortReset := by
  unfold Obligations.LinkLevelsAndPortReset
  refine ⟨fun k s => ⟨fun hup => ?_, fun hup => ?_⟩, fun g k m => departLink_empty g k m, fun p s => ⟨fun hoff => ?_, fun hen hc hs => ?_⟩⟩
  case refine_1 =>
    change execLnkUpFall k s = _
    simp only [execLnkUpFall, run, hup, Bool.not_true, Bool.false_eq_true, if_false, linkDemand_eq, settled]
  case refine_2 =>
    change execLnkUpRise k s = _
    simp only [execLnkUpRise, run, hup, Bool.false_eq_true, if_false, linkDemand_eq, settled]
  case refine_3 =>
    change execPortReset p s = _
    simp only [execPortReset, run, settled]
    rw [if_neg]
    rw [Bool.and_eq_true, not_and_or, Bool.not_eq_true, Bool.not_eq_true]
    exact hoff
  case refine_4 =>
    change execPortReset p s = _
    simp only [execPortReset, run, settled]
    rw [if_pos (Bool.and_eq_true _ _ ▸ ⟨hen, hc⟩), startHello_port hs]

end Sys2Proof.Machine
end

section
/-!
The counter unit (O40, O41) and the range engine (O42).
-/

namespace Sys2Proof.Machine

/-! ## Counter opcodes -/

section Counters

variable {g : Regs} {r : Req} {m : Mach}

theorem counterAt_setCounter (hw : tabWf (⟨0, 0⟩ : Counter) m.ctrs = true) (n i : BitVec 13) (v : Counter) :
    counterAt (setCounter n v m) i = if i = n then v else counterAt m i := by
  have hi : (i.toNat = n.toNat) = (i = n) := propext BitVec.toNat_inj
  unfold counterAt setCounter
  rw [tabGet_tabSet (d := Counter.zero) hw]
  simp only [hi]

/-- What an update of a counter changes: that counter, and the parked WAITs on it that it meets. -/
theorem updateCounter_spec (hw : tabWf (⟨0, 0⟩ : Counter) m.ctrs = true) (n : BitVec 13) (v : Counter) :
    let t := updateCounter n v m
    t = { m with ctrs := t.ctrs, parked := t.parked } ∧ (∀ i, counterAt t i = if i = n then v else counterAt m i)
      ∧ t.parked = m.parked.map fun q => if ctrNum q.addr = n ∧ waitMet t q = true then { q with passed := true } else q := by
  intro t
  refine ⟨rfl, fun i => counterAt_setCounter hw n i v, ?_⟩
  change m.parked.map _ = _
  refine List.map_congr_left fun q _ => ?_
  simp only [Bool.and_eq_true, beq_iff_eq]
  rfl

theorem counterOp_add (hs : (halfAt m 0).safe = false) (ho : ownsCounter g (ctrNum r.addr) r.inst = true) (hop : r.op = .ctrAdd) :
    counterOp g r m = complete r .done 0 (updateCounter (ctrNum r.addr)
      ⟨(counterAt m (ctrNum r.addr)).landed + r.aux.setWidth 64, (counterAt m (ctrNum r.addr)).settled + r.aux.setWidth 64⟩ m) := by
  simp only [counterOp, hs, ho, hop, Bool.not_true, Bool.false_eq_true, if_false, addCounter, if_true, BitVec.ofNat_toNat]

theorem counterOp_reset (hs : (halfAt m 0).safe = false) (ho : ownsCounter g (ctrNum r.addr) r.inst = true) (hop : r.op = .ctrReset) :
    counterOp g r m = complete r .done 0 (updateCounter (ctrNum r.addr) ⟨0, 0⟩ m) := by
  simp only [counterOp, hs, ho, hop, Bool.not_true, Bool.false_eq_true, if_false, Counter.zero]

theorem counterOp_read (hs : (halfAt m 0).safe = false) (ho : ownsCounter g (ctrNum r.addr) r.inst = true) (hop : r.op = .ctrRead) :
    counterOp g r m = complete r .done ((counterAt m (ctrNum r.addr)).landed.setWidth 2048) m := by
  simp only [counterOp, hs, ho, hop, Bool.not_true, Bool.false_eq_true, if_false, counterLine]

theorem counterOp_foreign (hs : (halfAt m 0).safe = false) (ho : ownsCounter g (ctrNum r.addr) r.inst = false) :
    counterOp g r m = refuse r .errPerm m := by
  simp only [counterOp, hs, ho, Bool.not_false, Bool.false_eq_true, if_false, if_true]

theorem counterOp_stale (hs : (halfAt m 0).safe = false) (ho : ownsCounter g (ctrNum r.addr) r.inst = true) (hop : r.op = .wait)
    (hg : genCurrent g r.inst r.gen = false) : counterOp g r m = refuse r .errPerm m := by
  simp only [counterOp, hs, ho, hop, hg, Bool.not_true, Bool.not_false, Bool.false_eq_true, if_false, if_true]

/-- A WAIT of the current generation completes, parks or is refused. -/
theorem counterOp_wait (hs : (halfAt m 0).safe = false) (ho : ownsCounter g (ctrNum r.addr) r.inst = true) (hop : r.op = .wait)
    (hg : genCurrent g r.inst r.gen = true) : counterOp g r m =
      if waitMet m r then complete r .done 0 m
      else if m.parked.length < 4096 then profile g 0 0x11 (who r) 1 { m with parked := m.parked ++ [r] }
      else complete r .errOverflow 0 m := by
  have hpark : Config.parkedMax = 4096 := rfl
  have hover : refuse r .errOverflow m = complete r .errOverflow 0 m := rfl
  simp only [counterOp, hs, ho, hop, hg, hpark, hover, Bool.not_true, Bool.false_eq_true, if_false]

end Counters

/-- Settles O40: the owner's opcodes by case, then the two refusals. -/
theorem counterUnitActs : Obligations.CounterUnitActs := by
  unfold Obligations.CounterUnitActs
  refine ⟨fun g r m hs ho hw => ⟨fun hop => ?_, fun hop => ?_, fun hop => ?_, fun hop hg => ⟨fun hmet => ?_, fun hmet hl hp => ?_,
    fun hmet hl => ?_⟩⟩, fun g r m hs hbad => ?_⟩
  case refine_1 =>
    obtain ⟨hframe, hval, hparked⟩ := updateCounter_spec hw (ctrNum r.addr)
      ⟨(counterAt m (ctrNum r.addr)).landed + r.aux.setWidth 64, (counterAt m (ctrNum r.addr)).settled + r.aux.setWidth 64⟩
    exact ⟨_, counterOp_add hs ho hop, hframe, hval, hparked⟩
  case refine_2 =>
    obtain ⟨hframe, hval, hparked⟩ := updateCounter_spec hw (ctrNum r.addr) ⟨0, 0⟩
    refine ⟨_, ?_, hframe, hval, hparked⟩
    exact counterOp_reset hs ho hop
  case refine_3 => exact counterOp_read hs ho hop
  case refine_4 =>
    have hm : waitMet m r = true := hmet
    rw [counterOp_wait hs ho hop hg, if_pos hm]
  case refine_5 =>
    have hm : waitMet m r = false := hmet
    rw [counterOp_wait hs ho hop hg, hm, if_neg Bool.false_ne_true, if_pos hl, profile_off hp]
  case refine_6 =>
    have hm : waitMet m r = false := hmet
    rw [counterOp_wait hs ho hop hg, hm, if_neg Bool.false_ne_true, if_neg (by omega)]
  case refine_7 =>
    change _ = refuse r .errPerm m
    cases ho : ownsCounter g (ctrNum r.addr) r.inst with
    | false => exact counterOp_foreign hs ho
    | true =>
      rcases hbad with hbad | ⟨hop, hg⟩
      · exact absurd (ho.symm.trans hbad) (by decide)
      · exact counterOp_stale hs ho hop hg

/-! ## Reports and satisfied WAITs -/

section Drain

variable {m : Mach} {r : Req} {rest four later : List Req}

theorem releaseWaits_of {rs kept : List Req} (hr : (m.parked.filter (·.passed)).take 4 = rs)
    (hk : (m.parked.filter fun x => !(rs.any fun y => y.id == x.id)) = kept) :
    releaseWaits m = completeAll rs .done 0 { m with parked := kept, ctrPtr := rs.foldl nextPtr m.ctrPtr } := by
  subst hr hk
  rfl

/-- The one WAIT that has passed leaves. -/
theorem releaseWaits_one (hp : m.parked = r :: rest) (hr : r.passed = true) (hrest : ∀ x ∈ rest, x.passed = false)
    (hid : ∀ x ∈ rest, x.id ≠ r.id) : releaseWaits m = complete r .done 0 { m with parked := rest, ctrPtr := nextPtr m.ctrPtr r } := by
  have hnone : rest.filter (·.passed) = [] := List.filter_eq_nil_iff.mpr fun x hx => by simp [hrest x hx]
  have hall : (rest.filter fun x => !([r].any fun y => y.id == x.id)) = rest :=
    List.filter_eq_self.mpr fun x hx => by simpa using (hid x hx).symm
  rw [releaseWaits_of (rs := [r]) (kept := rest)]
  · rfl
  · rw [hp, List.filter_cons_of_pos hr, hnone]
    rfl
  · rw [hp, List.filter_cons_of_neg (by simp), hall]

/-- Of more WAITs that have passed, the four oldest leave. -/
theorem releaseWaits_four (hp : m.parked = four ++ later) (hl : four.length = 4) (hpass : ∀ r ∈ four, r.passed = true)
    (hid : ((four ++ later).map (·.id)).Nodup) :
    releaseWaits m = completeAll four .done 0 { m with parked := later, ctrPtr := four.foldl nextPtr m.ctrPtr } := by
  have hfour : four.filter (·.passed) = four := List.filter_eq_self.mpr hpass
  have hgone : (four.filter fun x => !(four.any fun y => y.id == x.id)) = [] :=
    List.filter_eq_nil_iff.mpr fun x hx => by simpa using ⟨x, hx, rfl⟩
  have hkept : (later.filter fun x => !(four.any fun y => y.id == x.id)) = later := by
    refine List.filter_eq_self.mpr fun x hx => ?_
    rw [List.map_append] at hid
    have hne : ∀ y ∈ four, y.id ≠ x.id := fun y hy e =>
      (List.nodup_append.mp hid).2.2 y.id (List.mem_map_of_mem hy) x.id (List.mem_map_of_mem hx) e
    simpa using hne
  rw [releaseWaits_of (rs := four) (kept := later)]
  · rw [hp, List.filter_append, hfour, List.take_append_of_le_length (by omega), List.take_of_length_le (by omega)]
  · rw [hp, List.filter_append, hgone, hkept]
    rfl

theorem rouse_reports (h : Half) (m : Mach) : (rouse h m).reports = m.reports := by
  unfold rouse
  split <;> rfl

end Drain

/-- Settles O41: the front report, and the WAITs that leave, one and four. -/
theorem counterUnitDrains : Obligations.CounterUnitDrains := by
  unfold Obligations.CounterUnitDrains
  intro s hc
  refine ⟨fun x rest hx => ?_, fun r rest hp hr hrest hid => ?_, fun four later hp hl hpass hid => ?_⟩
  case refine_1 =>
    change execCounterReport s = _
    simp only [execCounterReport, run, hc, if_true, applyReport, rouse_reports, hx, settled]
  case refine_2 =>
    change execWaitRelease s = _
    simp only [execWaitRelease, run, hc, if_true, releaseWaits_one hp hr hrest hid, settled]
  case refine_3 =>
    change execWaitRelease s = _
    simp only [execWaitRelease, run, hc, if_true, releaseWaits_four hp hl hpass hid, settled]

/-! ## The range engine -/

/-- Settles O42: a visit and the completion, each with the guards of its command met. -/
theorem rangeEngineAdvances : Obligations.RangeEngineAdvances := by
  unfold Obligations.RangeEngineAdvances
  intro s hb hd
  refine ⟨fun h i hstop hpin hi hc => ?_, fun hover => ?_⟩
  case refine_1 =>
    change execReLineVisit h s = _
    simp only [execReLineVisit, run, hb, hd, hstop, hpin, Bool.not_true, Bool.or_self, Bool.false_eq_true, if_false, rangeVisit, hi, hc,
      settled]
    rfl
  case refine_2 =>
    change execReComplete s = _
    simp only [execReComplete, run, hb, hd, hover, Bool.not_false, Bool.and_self, if_true, settled]
    rfl

end Sys2Proof.Machine
end

section
/-!
Operations of the Anvil: out of their queue (O49), an OPEN (O50), to their end (O51), and the places of the outputs (O52).
-/

namespace Sys2Proof.Machine

/-! ## Out of the queue -/

section Queue

variable {h k : Half} {s : State} {o : AOp} {rest : List AOp} {mine : Nat → Bool} {act : AOp → Mach → Mach}

/-- The head of a queue that is held by nothing, of an operation of the row: it ends by the checks or a failed read, waits, loses its turn or acts. -/
theorem leaveQueue_head (hq : queueHeld s.regs s.m h k = false) (hc : clocked s.m h = true) (ho : (anvAt s.m h).q[k] = o :: rest)
    (hm : mine (opOp o) = true) : leaveQueue s.regs h k mine act s.m = match headEnds s.m h k o with
      | some f => f s.m
      | none =>
        if opWaits s.m h o || (opUnit o == 1 && !entryReady s.m h k o) then feedAhead s.regs h k o s.m
        else if losesTurn s.regs s.m h k o then s.m
        else act o (opTaken s h k rest) := by
  simp only [leaveQueue, hq, hc, ho, hm, Bool.not_true, Bool.or_self, Bool.false_eq_true, if_false, modAnv_modAnv] <;> rfl

theorem headEnds_of_refused {m : Mach} {c : Code} (hr : opRefusal m h o = some c) : headEnds m h k o
    = some fun m => refuseOp h o c (dropAhead h k (modAnv h (fun a => { a with q := a.q.set k.val (a.q[k].drop 1) k.isLt }) m)) := by
  simp only [headEnds, hr]

theorem headEnds_of_failed {m : Mach} {x : MacOp} {c : Code} (hr : opRefusal m h o = none) (hx : (anvAt m h).ahead[k] = some x)
    (hb : x.bad = some c) : headEnds m h k o = some (headFails h k x c) := by
  simp only [headEnds, hr, hx, hb, Option.map_some]

theorem headEnds_of_good {m : Mach} (hr : opRefusal m h o = none) (hb : ((anvAt m h).ahead[k]).bind (·.bad) = none) :
    headEnds m h k o = none := by
  simp only [headEnds, hr]
  cases hx : (anvAt m h).ahead[k] with
  | none => rfl
  | some x =>
    rw [hx] at hb
    have hx' : x.bad = none := hb
    simp only [hx', Option.map_none]

/-- An operation that can leave its queue leaves it and acts. -/
theorem leaveQueue_acts {n : Nat} (hl : leavesQueue s h k o rest n) (hm : mine n = true) :
    leaveQueue s.regs h k mine act s.m = act o (opTaken s h k rest) := by
  obtain ⟨hq, hc, ho, hn, hr, hb, hw, he, ht⟩ := hl
  have hready : (opUnit o == 1 && !entryReady s.m h k o) = false := by
    by_cases hu : opUnit o = 1
    · simp [he hu]
    · simp [hu]
  rw [leaveQueue_head hq hc ho (hn ▸ hm), headEnds_of_good hr hb]
  simp only [hw, hready, ht, Bool.or_self, Bool.false_eq_true, if_false]

/-- A head that must wait has its lines read. -/
theorem leaveQueue_waits (hq : queueHeld s.regs s.m h k = false) (hc : clocked s.m h = true) (ho : (anvAt s.m h).q[k] = o :: rest)
    (hm : mine (opOp o) = true) (hu : opUnit o = 1) (hr : opRefusal s.m h o = none)
    (hb : ¬ ∃ x c, (anvAt s.m h).ahead[k] = some x ∧ x.bad = some c) (hw : opWaits s.m h o = true ∨ entryReady s.m h k o = false) :
    leaveQueue s.regs h k mine act s.m = feedAhead s.regs h k o s.m := by
  have hgood : ((anvAt s.m h).ahead[k]).bind (·.bad) = none :=
    Option.eq_none_iff_forall_not_mem.mpr fun c hx => by
      obtain ⟨x, hx, hxc⟩ := Option.bind_eq_some_iff.mp hx
      exact hb ⟨x, c, hx, hxc⟩
  rw [leaveQueue_head hq hc ho hm, headEnds_of_good hr hgood]
  dsimp only
  rw [if_pos]
  rcases hw with hw | hw <;> simp [hw, hu]

theorem leaveQueue_failed {x : MacOp} {c : Code} (hq : queueHeld s.regs s.m h k = false) (hc : clocked s.m h = true)
    (ho : (anvAt s.m h).q[k] = o :: rest) (hm : mine (opOp o) = true) (hr : opRefusal s.m h o = none)
    (hx : (anvAt s.m h).ahead[k] = some x) (hb : x.bad = some c) :
    leaveQueue s.regs h k mine act s.m = headFails h k x c s.m := by
  rw [leaveQueue_head hq hc ho hm, headEnds_of_failed hr hx hb]

theorem leaveQueue_refused {c : Code} (hq : queueHeld s.regs s.m h k = false) (hc : clocked s.m h = true)
    (ho : (anvAt s.m h).q[k] = o :: rest) (hm : mine (opOp o) = true) (hr : opRefusal s.m h o = some c) :
    leaveQueue s.regs h k mine act s.m = refuseOp h o c (dropAhead h k (modAnv h (fun a => { a with q := a.q.set k rest }) s.m)) := by
  have hpop : modAnv h (fun a => { a with q := a.q.set k.val (a.q[k].drop 1) k.isLt }) s.m
      = modAnv h (fun a => { a with q := a.q.set k rest }) s.m := by
    refine modAnv_congr ?_
    rw [ho]
    rfl
  rw [leaveQueue_head hq hc ho hm, headEnds_of_refused hr]
  dsimp only
  rw [hpop]

/-- The groups are not the queues'. -/
theorem agroupAt_opTaken (n : Fin 16) : agroupAt (opTaken s h k rest) h n = agroupAt s.m h n := by
  simp [agroupAt, opTaken]

theorem drainOp_failed {g : Regs} {m : Mach} {c : Code} (hf : (agroupAt m h (opAg o)).fail = some c) : drainOp g h o m
    = forgetOpened h o (writeStatus h o (statusWord c ||| rerunField (agroupAt m h (opAg o)).s
        ||| statusFlags (agroupAt m h (opAg o)).ovf (agroupAt m h (opAg o)).wrap false 0) (closeAGroup h (opAg o) m)) := by
  simp only [drainOp, hf]

theorem drainOp_starts {g : Regs} {m : Mach} (hf : (agroupAt m h (opAg o)).fail = none) : drainOp g h o m = startDrainOp g h o m := by
  simp only [drainOp, hf]

/-- A reserved OP is malformed. -/
theorem opRefusal_reserved {m : Mach} (hs : (halfAt m h).safe = false) (hn : 4 < opOp o) : opRefusal m h o = some .errDecode := by
  have hbad : opMalformed m h o = true := by
    unfold opMalformed
    rw [Bool.or_eq_true]
    right
    generalize opOp o = n at hn
    match n, hn with
    | n + 5, _ => rfl
  simp only [opRefusal, hs, hbad, Bool.false_eq_true, if_false, if_true]

end Queue

/-- Settles O49: each row of the Anvil's commands is `leaveQueue` with its own test and act. -/
theorem anvilOperationsLeaveTheirQueue : Obligations.AnvilOperationsLeaveTheirQueue := by
  unfold Obligations.AnvilOperationsLeaveTheirQueue
  intro h k s o rest
  refine ⟨fun hl => ?_, fun hl => ?_, fun hl => ?_, fun hl hf => ?_, fun c hl hf => ?_, fun hl => ?_, fun hq hc ho => ⟨fun hr hb hw =>
    ⟨fun hn => ?_, fun hn => ?_⟩, fun x c hr hx hb => ⟨fun hn => ?_, fun hn => ?_⟩, fun c hr => ⟨fun hn => ?_, fun hn => ?_, fun hn => ?_,
    fun hn => ?_, fun hn => ?_, fun hn => ?_⟩⟩, fun hs hn => opRefusal_reserved hs hn⟩
  case refine_1 => exact congrArg (fun m => Host.Outcome.next (settled s m)) (leaveQueue_acts hl rfl)
  case refine_2 => exact congrArg (fun m => Host.Outcome.next (settled s m)) (leaveQueue_acts hl rfl)
  case refine_3 => exact congrArg (fun m => Host.Outcome.next (settled s m)) (leaveQueue_acts hl rfl)
  case refine_4 =>
    refine congrArg (fun m => Host.Outcome.next (settled s m)) ((leaveQueue_acts hl rfl).trans (drainOp_starts ?_))
    rw [agroupAt_opTaken]
    exact hf
  case refine_5 =>
    have hf' : (agroupAt (opTaken s h k rest) h (opAg o)).fail = some c := by rw [agroupAt_opTaken]; exact hf
    refine congrArg (fun m => Host.Outcome.next (settled s m)) ((leaveQueue_acts hl rfl).trans ((drainOp_failed hf').trans ?_))
    rw [agroupAt_opTaken]
  case refine_6 =>
    refine congrArg (fun m => Host.Outcome.next (settled s m)) ((leaveQueue_acts hl rfl).trans ?_)
    rw [discardOp, agroupAt_opTaken]
  case refine_7 =>
    exact congrArg (fun m => Host.Outcome.next (settled s m)) (leaveQueue_waits hq hc ho (by simp [hn]) (by simp [opUnit, hn]) hr hb hw)
  case refine_8 =>
    exact congrArg (fun m => Host.Outcome.next (settled s m)) (leaveQueue_waits hq hc ho (by simp [hn]) (by simp [opUnit, hn]) hr hb hw)
  case refine_9 => exact congrArg (fun m => Host.Outcome.next (settled s m)) (leaveQueue_failed hq hc ho (by simp [hn]) hr hx hb)
  case refine_10 => exact congrArg (fun m => Host.Outcome.next (settled s m)) (leaveQueue_failed hq hc ho (by simp [hn]) hr hx hb)
  all_goals exact congrArg (fun m => Host.Outcome.next (settled s m)) (leaveQueue_refused hq hc ho (by simp [hn]) hr)

/-! ## OPEN -/

/-- Settles O50: the group is written last, so its fields are those of the OPEN. -/
theorem openSeatsItsGroup : Obligations.OpenSeatsItsGroup := by
  unfold Obligations.OpenSeatsItsGroup
  intro g h o m hc hn
  have hgroup : agroupAt (openOp g h o m) h (opAg o)
      = { AGroup.closed with isOpen := true, inst := o.inst, w0 := opWord o 0, w2 := opWord o 2, seated := true } := by
    simp [openOp, agroupAt, writeStatus, setAGroup]
  have hword : statusWord .done = 0x10000000 := by decide
  have hslot : o.slot.val < 8 := o.slot.isLt
  dsimp only
  rw [hgroup]
  refine ⟨rfl, rfl, rfl, rfl, rfl, rfl, rfl, rfl, ?_, ?_⟩
  · simp [openOp, writeStatus, hc, hword]
  · simp [openOp, writeStatus, hc, hslot]

/-! ## To the end of an operation -/

/-- The only completion for a unit is its next. -/
theorem takeUnit_only {p : Origin → Bool} {m : Mach} {x : Req × Code × Line} (hu : m.unitDone = [x]) (hp : p x.1.origin = true) :
    takeUnit p m = some (x, { m with unitDone := [] }) := by
  simp [takeUnit, hu, hp]

/-- That a feed read is over changes no operation. -/
theorem feederOf_feedOut (h : Half) (m : Mach) (f : List (Nat × Bool) → List (Nat × Bool)) (i : Nat) :
    feederOf (anvAt (modAnv h (fun a => { a with feedOut := f a.feedOut }) m) h) i = feederOf (anvAt m h) i := by
  rw [anvAt_modAnv]
  rfl

/-- Settles O51: every event meets the condition of its command. -/
theorem anvilOperationsComplete : Obligations.AnvilOperationsComplete := by
  unfold Obligations.AnvilOperationsComplete
  intro h s r c d
  refine ⟨fun b hu hr => ?_, fun x hx hst hc => ?_, fun x ck hx hck hst hc => ?_, fun x rest hx => ?_, fun x hu hr hx ha hl hd => ?_⟩
  case refine_1 =>
    have hexec : exec (.feedReadComplete h) s = .next (settled s (feedDone s.regs h r c d { s.m with unitDone := [] })) := by
      change execFeedReadComplete h s = _
      unfold execFeedReadComplete run
      dsimp only
      rw [takeUnit_only hu (by simp [hr])]
      rfl
    have hfeeder : ∀ v, feederOf (anvAt s.m h) r.id = v →
        feederOf (anvAt (modAnv h (fun a => { a with feedOut := a.feedOut.filter fun y => y.1 != r.id }) { s.m with unitDone := [] }) h) r.id = v :=
      fun v hv => (feederOf_feedOut h { s.m with unitDone := [] } (fun l => l.filter fun y => y.1 != r.id) r.id).trans hv
    refine ⟨fun w x hw hd => ?_, fun x hw hd => ?_, fun k x hw hd => ?_, fun hw => ?_⟩
    · simp only [hexec, feedDone, hfeeder _ hw, hd, if_true]
    · simp only [hexec, feedDone, hfeeder _ hw, hd, Bool.false_eq_true, if_false]
    · simp only [hexec, feedDone, hfeeder _ hw, hd, Bool.false_eq_true, if_false]
    · simp only [hexec, feedDone, hfeeder _ hw]
  case refine_2 =>
    change execAnvilSpill h s = _
    simp only [execAnvilSpill, run, hx, hst, hc, beq_self_eq_true, Bool.and_self, if_true, settled]
  case refine_3 =>
    change execAnvilOverflow h s = _
    simp only [execAnvilOverflow, run, hx, hck, hst, hc, beq_self_eq_true, Bool.and_self, if_true, settled]
  case refine_4 =>
    change execAnvilOpComplete h s = _
    simp only [execAnvilOpComplete, run, hx, settled]
  case refine_5 =>
    have hx' : (anvAt { s.m with unitDone := [] } h).drn = some x := hx
    change execDrainWriteComplete h s = _
    unfold execDrainWriteComplete run
    dsimp only
    rw [takeUnit_only hu (by simp [hr])]
    simp only [drainDone, hx', ha, hl, hd, settled]
    simp

/-! ## The places of the outputs -/

/-- Settles O52: every shape is a case of Table 9.2. -/
theorem outputsHaveTheirCells : Obligations.OutputsHaveTheirCells := by
  unfold Obligations.OutputsHaveTheirCells
  intro shape i j role hs hi hj hr
  have hcases : shape = 0 ∨ shape = 1 ∨ shape = 2 ∨ shape = 3 ∨ shape = 4 := by omega
  rcases hcases with rfl | rfl | rfl | rfl | rfl
  case inl =>
    change role < 1 at hr
    exact ⟨hi, hj, Nat.one_pos, Prod.ext rfl (Prod.ext rfl (show 0 = role by omega))⟩
  case inr.inl =>
    change role < 2 at hr
    exact ⟨show i + 32 * role < 64 by omega, hj, Nat.one_pos,
      Prod.ext (show (i + 32 * role) % 32 = i by omega) (Prod.ext rfl (show (i + 32 * role) / 32 = role by omega))⟩
  case inr.inr.inl =>
    change role < 1 at hr
    exact ⟨show i % 16 < 16 by omega, hj, show i / 16 < 2 by omega,
      Prod.ext (show i % 16 + 16 * (i / 16) = i by omega) (Prod.ext rfl (show 0 = role by omega))⟩
  case inr.inr.inr.inl =>
    change role < 1 at hr
    exact ⟨show i % 8 < 8 by omega, hj, show i / 8 < 4 by omega,
      Prod.ext (show i % 8 + 8 * (i / 8) = i by omega) (Prod.ext rfl (show 0 = role by omega))⟩
  case inr.inr.inr.inr =>
    change role < 4 at hr
    exact ⟨show i + 32 * (role / 2) < 64 by omega, show j + 32 * (role % 2) < 64 by omega, Nat.one_pos,
      Prod.ext (show (i + 32 * (role / 2)) % 32 = i by omega) (Prod.ext (show (j + 32 * (role % 2)) % 32 = j by omega)
        (show 2 * ((i + 32 * (role / 2)) / 32) + (j + 32 * (role % 2)) / 32 = role by omega))⟩

end Sys2Proof.Machine
end

section
/-!
The code of stored words and the vote of structure words (O53).
-/

namespace Sys2Proof.Machine

/-! ## Syndrome and parity are linear -/

section Linear

variable (x y : CodeWord) (ps : List Nat)

/-- The exclusive or of the set positions among some. -/
def synOver (x : CodeWord) (ps : List Nat) : Nat := (ps.filter fun p => x.getLsbD p).foldl Nat.xor 0

/-- Whether an odd number of some positions are set. -/
def oddOver (x : CodeWord) (ps : List Nat) : Bool := (ps.filter fun p => x.getLsbD p).length % 2 == 1

theorem foldl_xor (a : Nat) : ps.foldl Nat.xor a = a ^^^ ps.foldl Nat.xor 0 := by
  induction ps generalizing a with
  | nil => exact (Nat.xor_zero a).symm
  | cons p ps ih =>
    rw [List.foldl_cons, List.foldl_cons, ih, ih (Nat.xor 0 p)]
    change a ^^^ p ^^^ _ = a ^^^ (0 ^^^ p ^^^ _)
    rw [Nat.zero_xor, Nat.xor_assoc]

theorem synOver_cons (p : Nat) : synOver x (p :: ps) = (if x.getLsbD p then p else 0) ^^^ synOver x ps := by
  unfold synOver
  by_cases hp : x.getLsbD p = true
  · rw [List.filter_cons_of_pos hp, List.foldl_cons, foldl_xor, if_pos hp]
    change 0 ^^^ p ^^^ _ = _
    rw [Nat.zero_xor]
  · rw [List.filter_cons_of_neg hp, if_neg hp, Nat.zero_xor]

theorem oddOver_cons (p : Nat) : oddOver x (p :: ps) = (x.getLsbD p ^^ oddOver x ps) := by
  unfold oddOver
  by_cases hp : x.getLsbD p = true
  · rw [List.filter_cons_of_pos hp, List.length_cons, hp, Bool.true_xor]
    generalize (ps.filter fun p => x.getLsbD p).length = n
    rcases Nat.mod_two_eq_zero_or_one n with hn | hn
    · simp [Nat.add_mod, hn]
    · simp [Nat.add_mod, hn]
  · rw [List.filter_cons_of_neg hp, Bool.eq_false_iff.mpr hp, Bool.false_xor]

theorem synOver_xor : synOver (x ^^^ y) ps = synOver x ps ^^^ synOver y ps := by
  induction ps with
  | nil => exact (Nat.xor_self 0).symm
  | cons p ps ih =>
    rw [synOver_cons, synOver_cons, synOver_cons, ih, BitVec.getLsbD_xor]
    have hbit : ∀ a b : Bool, (if (a ^^ b) = true then p else 0) = (if a = true then p else 0) ^^^ (if b = true then p else 0) := by
      intro a b
      cases a <;> cases b <;> simp
    rw [hbit, Nat.xor_assoc, Nat.xor_assoc, Nat.xor_left_comm _ (synOver x ps)]

theorem oddOver_xor : oddOver (x ^^^ y) ps = (oddOver x ps ^^ oddOver y ps) := by
  induction ps with
  | nil => rfl
  | cons p ps ih =>
    rw [oddOver_cons, oddOver_cons, oddOver_cons, ih, BitVec.getLsbD_xor]
    cases x.getLsbD p <;> cases y.getLsbD p <;> simp

theorem syndrome_xor : syndrome (x ^^^ y) = syndrome x ^^^ syndrome y := synOver_xor x y (List.range 266)

theorem syndrome_zero : syndrome 0 = 0 := by
  have h := syndrome_xor 0 0
  rwa [BitVec.xor_self, Nat.xor_self] at h

theorem parityP_xor : parityP (x ^^^ y) = (parityP x ^^ parityP y) := oddOver_xor x y (List.range 266)

end Linear

/-! ## One flipped bit -/

section OneBit

variable {p : Nat}

theorem maskPositions_one (hp : p < 266) : maskPositions (1#266 <<< p) = [p] := by
  have hbit : ∀ i ∈ List.range 266, (1#266 <<< p).getLsbD i = (i == p) := fun i hi => by
    have hi' : i < 266 := List.mem_range.mp hi
    rw [BitVec.getLsbD_shiftLeft, BitVec.getLsbD_one, Bool.eq_iff_iff]
    simp
    omega
  rw [maskPositions, List.filter_congr hbit, List.filter_beq, List.count_eq_one_of_mem List.nodup_range (List.mem_range.mpr hp)]
  rfl

theorem syndrome_one (hp : p < 266) : syndrome (1#266 <<< p) = p := by
  rw [syndrome, maskPositions_one hp]
  exact Nat.zero_xor p

theorem parityP_one (hp : p < 266) : parityP (1#266 <<< p) = true := by
  rw [parityP, maskPositions_one hp]
  rfl

/-- To set a bit that is not set is to flip it. -/
theorem or_one_eq_xor {a : CodeWord} (ha : a.getLsbD p = false) : a ||| (1#266 <<< p) = a ^^^ (1#266 <<< p) := by
  refine BitVec.eq_of_getLsbD_eq fun i hi => ?_
  rw [BitVec.getLsbD_or, BitVec.getLsbD_xor]
  by_cases hip : i = p
  · rw [hip, ha]
    simp
  · have hz : (1#266 <<< p).getLsbD i = false := by
      rw [BitVec.getLsbD_shiftLeft, BitVec.getLsbD_one]
      simp
      omega
    rw [hz, Bool.or_false, Bool.xor_false]

end OneBit

/-! ## Encodings -/

/-- What is or-ed at other positions leaves a position as it was. -/
theorem getLsbD_orBits {α : Type} (c : α → Bool) (f : α → Nat) (l : List α) (a : CodeWord) {p : Nat} (hp : ∀ z ∈ l, f z ≠ p) :
    (l.foldl (fun a z => if c z then a ||| (1#266 <<< f z) else a) a).getLsbD p = a.getLsbD p := by
  induction l generalizing a with
  | nil => rfl
  | cons z l ih =>
    rw [List.foldl_cons, ih _ fun w hw => hp w (List.mem_cons_of_mem _ hw)]
    split
    · have hz : (1#266 <<< f z).getLsbD p = false := by
        have hne : f z ≠ p := hp z List.mem_cons_self
        rw [BitVec.getLsbD_shiftLeft, BitVec.getLsbD_one]
        simp
        omega
      rw [BitVec.getLsbD_or, hz, Bool.or_false]
    · rfl

/-- The number whose bits are those of `s` at some places. -/
def xorBits (s : Nat) : List Nat → Nat
  | [] => 0
  | j :: l => (if s.testBit j then 2 ^ j else 0) ^^^ xorBits s l

theorem testBit_xorBits (s i : Nat) {l : List Nat} (hn : l.Nodup) : (xorBits s l).testBit i = (decide (i ∈ l) && s.testBit i) := by
  induction l with
  | nil => simp [xorBits]
  | cons j l ih =>
    obtain ⟨hj, hn⟩ := List.nodup_cons.mp hn
    have hone : (if s.testBit j = true then 2 ^ j else 0).testBit i = (decide (j = i) && s.testBit j) := by
      cases s.testBit j <;> simp [Nat.testBit_two_pow]
    rw [xorBits, Nat.testBit_xor, ih hn, hone]
    by_cases hij : j = i
    · subst hij
      simp [hj]
    · simp [hij, Ne.symm hij]

theorem xorBits_range {s n : Nat} (hs : s < 2 ^ n) : xorBits s (List.range n) = s := by
  refine Nat.eq_of_testBit_eq fun i => ?_
  rw [testBit_xorBits s i List.nodup_range]
  by_cases hi : i < n
  · simp [hi]
  · have : s.testBit i = false := Nat.testBit_lt_two_pow (lt_of_lt_of_le hs (Nat.pow_le_pow_right (by decide) (by omega)))
    simp [this]

/-- An optional bit at a check position changes the syndrome by the position and the parity by one. -/
theorem syndrome_setBit {a : CodeWord} {p : Nat} (hp : p < 266) (ha : a.getLsbD p = false) (c : Bool) :
    syndrome (if c then a ||| (1#266 <<< p) else a) = syndrome a ^^^ if c then p else 0 := by
  cases c
  · exact (Nat.xor_zero _).symm
  · rw [if_pos rfl, if_pos rfl, or_one_eq_xor ha, syndrome_xor, syndrome_one hp]

/-- The check bits of a syndrome, put at free check positions, change the syndrome by what they stand for. -/
theorem syndrome_checks (s : Nat) (l : List Nat) (a : CodeWord) (hn : l.Nodup) (hl : ∀ j ∈ l, 2 ^ j < 266)
    (ha : ∀ j ∈ l, a.getLsbD (2 ^ j) = false) :
    syndrome (l.foldl (fun a j => if s.testBit j then a ||| (1#266 <<< (2 ^ j)) else a) a) = syndrome a ^^^ xorBits s l := by
  induction l generalizing a with
  | nil => exact (Nat.xor_zero _).symm
  | cons j l ih =>
    obtain ⟨hj, hn⟩ := List.nodup_cons.mp hn
    have hnext : ∀ i ∈ l, (if s.testBit j then a ||| (1#266 <<< (2 ^ j)) else a).getLsbD (2 ^ i) = false := fun i hi => by
      have hne : 2 ^ j ≠ 2 ^ i := fun e => hj (Nat.pow_right_injective (le_refl 2) e ▸ hi)
      have := getLsbD_orBits (fun k => s.testBit k) (fun k => 2 ^ k) [j] a (p := 2 ^ i) (by simpa using hne)
      exact this.trans (ha i (List.mem_cons_of_mem _ hi))
    rw [List.foldl_cons, ih _ hn (fun i hi => hl i (List.mem_cons_of_mem _ hi)) hnext,
      syndrome_setBit (hl j List.mem_cons_self) (ha j List.mem_cons_self), xorBits, Nat.xor_assoc]

/-- A syndrome is less than 2^9. -/
theorem syndrome_lt (x : CodeWord) : syndrome x < 2 ^ 9 := by
  have hfold : ∀ ps : List Nat, (∀ p ∈ ps, p < 2 ^ 9) → synOver x ps < 2 ^ 9 := by
    intro ps hps
    induction ps with
    | nil => exact Nat.two_pow_pos 9
    | cons p ps ih =>
      rw [synOver_cons]
      refine Nat.xor_lt_two_pow ?_ (ih fun q hq => hps q (List.mem_cons_of_mem _ hq))
      split
      · exact hps p List.mem_cons_self
      · exact Nat.two_pow_pos 9
  exact hfold _ fun p hp => lt_of_lt_of_le (List.mem_range.mp hp) (by decide)

/-- The data bits of a word at their positions, every check position clear. -/
def dataBody (d : BitVec 256) : CodeWord :=
  (dataPositions.zipIdx).foldl (fun a pi => if d.getLsbD pi.2 then a ||| (1#266 <<< pi.1) else a) 0

/-- No check position is a position of data. -/
theorem dataBody_checkPos (d : BitVec 256) {p : Nat} (hp : isCheckPos p = true) : (dataBody d).getLsbD p = false := by
  have hne : ∀ z ∈ dataPositions.zipIdx, z.1 ≠ p := fun z hz e => by
    have hmem : z.1 ∈ dataPositions := List.fst_mem_of_mem_zipIdx hz
    have hdata : isCheckPos z.1 = false := by simpa using (List.mem_filter.mp hmem).2
    rw [e, hp] at hdata
    exact Bool.noConfusion hdata
  have horig := getLsbD_orBits (fun z : Nat × Nat => d.getLsbD z.2) (fun z => z.1) _ 0 hne
  exact horig.trans BitVec.getLsbD_zero

/-- The encoding before its overall parity. -/
def dataChecks (d : BitVec 256) : CodeWord :=
  (List.range 9).foldl (fun a j => if (syndrome (dataBody d)).testBit j then a ||| (1#266 <<< (2 ^ j)) else a) (dataBody d)

theorem eccEncode_eq (d : BitVec 256) : eccEncode d = if parityP (dataChecks d) then dataChecks d ||| (1#266 <<< 0) else dataChecks d := by
  rw [BitVec.shiftLeft_zero]
  rfl

theorem syndrome_dataChecks (d : BitVec 256) : syndrome (dataChecks d) = 0 := by
  have hfree : ∀ j ∈ List.range 9, (dataBody d).getLsbD (2 ^ j) = false := fun j hj =>
    dataBody_checkPos d (by
      rw [isCheckPos, Bool.or_eq_true, List.any_eq_true]
      exact .inr ⟨j, hj, beq_self_eq_true _⟩)
  have hlt : ∀ j ∈ List.range 9, 2 ^ j < 266 := fun j hj =>
    lt_of_le_of_lt (Nat.pow_le_pow_right (by decide) (show j ≤ 8 by have := List.mem_range.mp hj; omega)) (by decide)
  unfold dataChecks
  rw [syndrome_checks _ _ _ List.nodup_range hlt hfree, xorBits_range (syndrome_lt _), Nat.xor_self]

theorem dataChecks_zero (d : BitVec 256) : (dataChecks d).getLsbD 0 = false := by
  have hne : ∀ j ∈ List.range 9, 2 ^ j ≠ 0 := fun j _ => (Nat.two_pow_pos j).ne'
  have horig := getLsbD_orBits (fun j => (syndrome (dataBody d)).testBit j) (fun j => 2 ^ j) _ (dataBody d) hne
  exact horig.trans (dataBody_checkPos d rfl)

/-- An encoding has syndrome 0 and even parity. -/
theorem eccEncode_clean (d : BitVec 256) : syndrome (eccEncode d) = 0 ∧ parityP (eccEncode d) = false := by
  rw [eccEncode_eq]
  constructor
  · rw [syndrome_setBit (by decide) (dataChecks_zero d), syndrome_dataChecks]
    split <;> rfl
  · cases hp : parityP (dataChecks d) with
    | false => exact hp
    | true => rw [if_pos rfl, or_one_eq_xor (dataChecks_zero d), parityP_xor, hp, parityP_one (by decide)]; rfl

/-! ## Reads -/

/-- A word without a set data position leaves no flip in the data. -/
theorem dataBits_eq_zero {x : CodeWord} (hx : ∀ p ∈ dataPositions, x.getLsbD p = false) : dataBits x = 0 := by
  have hfold : ∀ (l : List (Nat × Nat)), (∀ z ∈ l, x.getLsbD z.1 = false) →
      l.foldl (fun (a : BitVec 256) pi => if x.getLsbD pi.1 then a ||| (1#256 <<< pi.2) else a) 0 = 0 := by
    intro l hl
    induction l with
    | nil => rfl
    | cons z l ih =>
      rw [List.foldl_cons, hl z List.mem_cons_self]
      exact ih fun w hw => hl w (List.mem_cons_of_mem _ hw)
  exact hfold _ fun z hz => hx z.1 (List.fst_mem_of_mem_zipIdx hz)

theorem shiftOne_ne_zero {p : Nat} (hp : p < 266) : (1#266 <<< p) ≠ 0 := fun e => by
  have h := maskPositions_one hp
  rw [e] at h
  exact absurd h (by simp [maskPositions])

/-- One flipped bit is corrected. -/
theorem eccRead_one {p : Nat} (hp : p < 266) : eccRead (1#266 <<< p) = .corrected 0 := by
  have hne : ((1#266 <<< p) == 0) = false := beq_eq_false_iff_ne.mpr (shiftOne_ne_zero hp)
  simp only [eccRead, hne, parityP_one hp, syndrome_one hp, Bool.false_eq_true, if_false, if_true]
  by_cases h0 : p = 0
  · subst h0
    have hdata : dataBits (1#266 <<< 0) = 0 := dataBits_eq_zero fun q hq => by
      have hcheck : isCheckPos q = false := by simpa using (List.mem_filter.mp hq).2
      have hq0 : q ≠ 0 := fun e => by rw [e] at hcheck; exact Bool.noConfusion hcheck
      rw [BitVec.shiftLeft_zero, BitVec.getLsbD_one]
      simp [hq0]
    rw [hdata, beq_self_eq_true, if_pos rfl]
  · have hb : (p == 0) = false := beq_eq_false_iff_ne.mpr h0
    have hdata : dataBits (1#266 <<< p ^^^ 1#266 <<< p) = 0 := by
      rw [BitVec.xor_self]
      exact dataBits_eq_zero fun q _ => BitVec.getLsbD_zero
    rw [hb, hdata, if_neg Bool.false_ne_true, if_pos (by omega)]

/-- Two flipped bits are uncorrectable. -/
theorem eccRead_two {p q : Nat} (hp : p < 266) (hq : q < 266) (hne : p ≠ q) : eccRead (1#266 <<< p ^^^ 1#266 <<< q) = .bad := by
  have hsyn : syndrome (1#266 <<< p ^^^ 1#266 <<< q) = p ^^^ q := by rw [syndrome_xor, syndrome_one hp, syndrome_one hq]
  have hpar : parityP (1#266 <<< p ^^^ 1#266 <<< q) = false := by rw [parityP_xor, parityP_one hp, parityP_one hq]; rfl
  have hx : p ^^^ q ≠ 0 := fun e => hne (Nat.xor_eq_zero_iff.mp e)
  have hmask : ((1#266 <<< p ^^^ 1#266 <<< q) == 0) = false := beq_eq_false_iff_ne.mpr fun e => by
    rw [e] at hsyn
    exact hx (hsyn.symm.trans syndrome_zero)
  have hs : ((p ^^^ q) == 0) = false := beq_eq_false_iff_ne.mpr hx
  simp only [eccRead, hmask, hpar, hsyn, hs, Bool.false_eq_true, if_false]

/-- Settles O53: the code is linear and its encodings are clean, so that a read depends on the flips alone; the vote is a table. -/
theorem storedWordsAreCorrectedAndVoted : Obligations.StoredWordsAreCorrectedAndVoted := by
  unfold Obligations.StoredWordsAreCorrectedAndVoted
  refine ⟨fun d mask => ⟨?_, ?_⟩, if_pos (beq_self_eq_true _), fun i => ⟨0, eccRead_one i.isLt, rfl⟩, fun i j hne => eccRead_two i.isLt j.isLt (Fin.val_ne_of_ne hne),
    fun x c => ?_, fun x y z hxy hxz hyz => ?_, fun x y hxy => ?_, fun x => ⟨rfl, rfl, rfl⟩, rfl, fun h s hc hv => ?_⟩
  case refine_1 => rw [syndrome_xor, (eccEncode_clean d).1, Nat.zero_xor]
  case refine_2 => rw [parityP_xor, (eccEncode_clean d).2, Bool.false_xor]
  case refine_3 => cases c <;> simp [vote]
  case refine_4 => simp [vote, hxy, hxz, hyz]
  case refine_5 => simp [vote, hxy]
  case refine_6 =>
    change execStructVote h s = _
    simp only [execStructVote, run, hc, hv, Bool.and_self, if_true, settled]

end Sys2Proof.Machine
end

section
/-!
What error protection and the sweep do by themselves (O54).
-/

namespace Sys2Proof.Machine

section Protect

variable {h : Half} {s : State} {a : Arr} {i : Nat}

theorem execEccWriteback_next {rest : List (Arr × Nat)} (hc : clocked s.m h = true) (hw : (halfAt s.m h).wback = (a, i) :: rest) :
    exec (.eccWriteback h) s = .next (settled s
      (let m := modHalf h (fun x => { x with wback := rest, recheck := x.recheck ++ [(a, i)] }) s.m
       let left := eccEncode (leftOf (errMask m a h i))
       let t := if a = .structs then setErr a h i 0 m else noteWrite s.regs a h i m
       setErr a h i (errMask t a h i ^^^ left) t)) := by
  change execEccWriteback h s = _
  simp only [execEccWriteback, run, hw, hc, Bool.not_true, Bool.false_eq_true, if_false, settled, beq_iff_eq]

/-- The re-read of a word without an error, or outside the frames. -/
theorem execEccRecheck_passes {rest : List (Arr × Nat)} (hc : clocked s.m h = true) (hw : (halfAt s.m h).recheck = (a, i) :: rest)
    (hk : scanKind s.m a h i = 0 ∨ a ≠ .frames) : exec (.eccRecheck h) s = .next (settled s
      (scanWord s.regs h a i (modHalf h (fun x => { x with recheck := rest }) s.m))) := by
  have hpass : (scanKind s.m a h i != 0 && a == .frames) = false := by rcases hk with hk | hk <;> simp [hk]
  have hpass' : (a == .frames && scanKind s.m a h i != 0) = false := by rw [Bool.and_comm]; exact hpass
  change execEccRecheck h s = _
  simp only [execEccRecheck, run, hw, hc, hpass, hpass', Bool.not_true, Bool.false_and, Bool.or_self, Bool.false_eq_true, if_false, settled]

/-- The re-read of a frame's word that shows an error. -/
theorem execEccRecheck_fails {rest : List (Arr × Nat)} {set way : Nat} (hc : clocked s.m h = true)
    (hw : (halfAt s.m h).recheck = (a, i) :: rest) (hk : scanKind s.m a h i ≠ 0) (ha : a = .frames) (hr : (halfAt s.m h).rcopy = none)
    (hp : framePlace (halfAt (scanWord s.regs h a i (modHalf h (fun x => { x with recheck := rest }) s.m)) h) i = some (set, way)) :
    exec (.eccRecheck h) s = .next (settled s
      (hardFail s.regs h i set way (scanWord s.regs h a i (modHalf h (fun x => { x with recheck := rest }) s.m)))) := by
  subst ha
  have hk' : (scanKind s.m .frames h i != 0) = true := bne_iff_ne.mpr hk
  change execEccRecheck h s = _
  simp only [execEccRecheck, run, hw, hc, hr, hk', hp, Option.isSome_none, Bool.and_false, Bool.not_true, Bool.or_self, Bool.false_eq_true,
    if_false, beq_self_eq_true, Bool.and_self, settled]

theorem execRemapCopy_word {c : RemapCopy} (hc : clocked s.m h = true) (hr : (halfAt s.m h).rcopy = some c) (hw : c.word < 8) :
    exec (.remapCopy h) s = .next (settled s (copyWord s.regs h c c.word
      (modHalf h (fun x => { x with rcopy := some { c with word := c.word + 1 } }) s.m))) := by
  change execRemapCopy h s = _
  simp only [execRemapCopy, run, hr, hc, hw, Bool.not_true, Bool.false_eq_true, if_false, if_true, settled]

theorem execRemapCopy_swap {c : RemapCopy} (hc : clocked s.m h = true) (hr : (halfAt s.m h).rcopy = some c) (hw : 8 ≤ c.word) :
    exec (.remapCopy h) s = .next (settled s (remapSwap h c s.m)) := by
  change execRemapCopy h s = _
  simp only [execRemapCopy, run, hr, hc, Nat.not_lt.mpr hw, Bool.not_true, Bool.false_eq_true, if_false, settled]

theorem execQuenchRead_step (hc : clocked s.m h = true) (hb : (halfAt s.m h).qn.busy = true) (hd : s.m.dbg.stopped = false) :
    exec (.quenchRead h) s = .next (settled s (quenchStep s.regs h s.m)) := by
  change execQuenchRead h s = _
  simp only [execQuenchRead, run, hb, hc, hd, Bool.not_false, Bool.and_self, if_true, settled]

theorem quenchStep_over {g : Regs} {m : Mach} (hn : quenchNext 8200 g m h (halfAt m h).qn.set.toNat (halfAt m h).qn.step = none) :
    quenchStep g h m = endQuench h 0 m := by
  simp only [quenchStep, hn]

/-- A pass reads and counts its next word, and may end behind it. -/
theorem quenchStep_word {g : Regs} {m : Mach} {set step : Nat} {v : Visit}
    (hn : quenchNext 8200 g m h (halfAt m h).qn.set.toNat (halfAt m h).qn.step = some (set, step, v)) (hi : v.idx = some i) :
    quenchStep g h m =
      let t := scanWord g h v.arr i (modHalf h (fun x => { x with
        qn := quenchCount v (scanKind m v.arr h i) { x.qn with set := BitVec.ofNat 13 set, step := step + 1 } }) m)
      if quenchNext 8200 g t h set (step + 1) = none then endQuench h 0 t else t := by
  simp only [quenchStep, hn, hi, Option.isNone_iff_eq_none]

/-- An error in a frame that AUTO remaps takes the lowest free entry. -/
theorem hardFail_auto {g : Regs} {set way e : Nat} {m : Mach} (ha : g.rasAuto = true) (hf : freeRemap (halfAt m h) = some e)
    (hr : remapOf (halfAt m h) set way = none) : hardFail g h i set way m = modHalf h (fun x => { x with
        rcopy := some ⟨e, false, true, BitVec.ofNat 5 way, BitVec.ofNat 13 set, 0, x.qn.found.contains (.frames, i)⟩ }) m := by
  simp only [hardFail, hf, ha, hr, Option.isNone_none, Bool.and_self, if_true]

theorem execSweepFrame_runs (hc : clocked s.m h = true) (hr : (halfAt s.m h).sweep.run = true) :
    exec (.sweepFrame h) s = .next (settled s (sweepFrame s.regs h s.m)) := by
  change execSweepFrame h s = _
  simp only [execSweepFrame, run, hc, hr, Bool.and_self, if_true, settled]

theorem sweepFrame_over {g : Regs} {m : Mach} (hw : wayFrom (halfAt m h).sweep.ways (halfAt m h).sweep.way = none) :
    sweepFrame g h m = modHalf h (fun x => { x with sweep := ⟨false, 0, 0, 0⟩ }) m := by
  simp only [sweepFrame, hw]

section Frame

variable {g : Regs} {m m1 m2 : Mach} {w : Nat} {set : BitVec 13}

/-- A frame that may stay is passed. -/
theorem sweepFrame_stays (hw : wayFrom (halfAt m h).sweep.ways (halfAt m h).sweep.way = some w)
    (hset : BitVec.ofNat 13 (halfAt m h).sweep.set = set) (h1 : readTag g h set (w / 2) m = m1)
    (hs : sweepEvicts g h w (frameAt (halfAt m1 h) set w) = false) :
    sweepFrame g h m = modHalf h (fun hs => { hs with sweep := sweepAdvance (halfAt m h).sweep w }) m1 := by
  simp only [sweepFrame, hw, hset, h1, hs, Bool.false_eq_true, if_false]

/-- A frame that must leave and can is evicted and passed. -/
theorem sweepFrame_evicts (hw : wayFrom (halfAt m h).sweep.ways (halfAt m h).sweep.way = some w)
    (hset : BitVec.ofNat 13 (halfAt m h).sweep.set = set) (h1 : readTag g h set (w / 2) m = m1)
    (hs : sweepEvicts g h w (frameAt (halfAt m1 h) set w) = true) (h2 : emptyFrame g h set w m1 = m2)
    (hb : frameBusy (halfAt m2 h) set w = false) (hf : isFree (frameAt (halfAt m2 h) set w) = false)
    (he : isFree (frameAt (halfAt (evictFrame g h set w m2) h) set w) = true) :
    sweepFrame g h m = modHalf h (fun hs => { hs with sweep := sweepAdvance (halfAt m h).sweep w }) (evictFrame g h set w m2) := by
  simp only [sweepFrame, hw, hset, h1, hs, h2, hb, hf, he, Bool.or_self, Bool.false_eq_true, if_false, if_true]

end Frame

end Protect

/-- Settles O54: each command's row by the lemma of its case. -/
theorem protectionWorksOn : Obligations.ProtectionWorksOn := by
  unfold Obligations.ProtectionWorksOn
  refine ⟨fun h s hc => ⟨fun a i rest hw => execEccWriteback_next hc hw, fun a i rest hw => ⟨fun hk => execEccRecheck_passes hc hw hk,
    fun set way hk ha hr hp => execEccRecheck_fails hc hw hk ha hr hp⟩, fun c hr hw => execRemapCopy_word hc hr hw,
    fun c hr hw => execRemapCopy_swap hc hr hw, fun hb hd => ⟨fun hn => ?_, fun set step v i hn hi => ?_⟩,
    fun hr => ⟨fun hw => ?_, fun w hw => ⟨fun hs => ?_, fun hs hb hf he => ?_⟩⟩⟩,
    fun g h i set way e m ha hf hr => hardFail_auto ha hf hr⟩
  case refine_1 => rw [execQuenchRead_step hc hb hd, quenchStep_over hn]
  case refine_2 => rw [execQuenchRead_step hc hb hd, quenchStep_word hn hi]
  case refine_3 => rw [execSweepFrame_runs hc hr, sweepFrame_over hw]
  case refine_4 => rw [execSweepFrame_runs hc hr, sweepFrame_stays hw rfl rfl hs]
  case refine_5 => rw [execSweepFrame_runs hc hr, sweepFrame_evicts hw rfl rfl hs rfl hb hf he]

end Sys2Proof.Machine
end

section
/-!
Power events of a half (O55), the resets (O56, O57).
-/

namespace Sys2Proof.Machine

/-! ## The slice at rest -/

section Calm

variable {h : Half} {m : Mach} {f : Power → Power}

theorem halfAt_modPw (k : Half) : halfAt (modPw h f m) k = { halfAt m k with pw := (halfAt (modPw h f m) k).pw } := by
  unfold modPw
  rcases eq_or_ne k h with rfl | hk
  · rw [halfAt_modHalf]
  · rw [halfAt_modHalf_ne _ _ hk]

/-- The power of a half has no part in what moves by itself. -/
theorem calm_modPw : calm (modPw h f m) = calm m := by
  have hclosed : ∀ k, closedNow (halfAt (modPw h f m) k) = closedNow (halfAt m k) := fun k => by
    rw [halfAt_modPw]
    rfl
  have hdue : ∀ k, (halfAt (modPw h f m) k).safeDue = (halfAt m k).safeDue := fun k => by rw [halfAt_modPw]
  have hsafe : ∀ k, (halfAt (modPw h f m) k).safe = (halfAt m k).safe := fun k => by rw [halfAt_modPw]
  have hwback : ∀ k, (halfAt (modPw h f m) k).wback = (halfAt m k).wback := fun k => by rw [halfAt_modPw]
  have hctl : controlError (modPw h f m) = controlError m := by
    simp only [controlError, hdue, hsafe, hwback]
    rfl
  simp only [calm, hclosed, hdue, hctl]
  rfl

end Calm

/-! ## Power events -/

section Events

variable {h : Half} {s : State} {when_ : Regs → Mach → Bool} {f : Power → Power}

/-- A power event that can happen changes the power of its half alone. -/
theorem powerEvent_acts (hc : calm s.m = true) (hw : when_ s.regs s.m = true) :
    powerEvent h when_ f s = .next { s with m := modHalf h (fun hs => { hs with pw := f (halfAt s.m h).pw }) s.m } := by
  have hcongr : modPw h f s.m = modHalf h (fun hs => { hs with pw := f (halfAt s.m h).pw }) s.m := modHalf_congr rfl
  have hcalm : calm (if when_ s.regs s.m = true then modPw h f s.m else s.m) = true := by rw [if_pos hw, calm_modPw, hc]
  refine (run_of_calm (f := fun g m => if when_ g m = true then modPw h f m else m) hcalm).trans ?_
  rw [if_pos hw, hcongr]

theorem powerEvent_idle (hc : calm s.m = true) (hw : when_ s.regs s.m = false) : powerEvent h when_ f s = .next s := by
  have hno : ¬ when_ s.regs s.m = true := by rw [hw]; exact Bool.false_ne_true
  have hcalm : calm (if when_ s.regs s.m = true then modPw h f s.m else s.m) = true := by rw [if_neg hno, hc]
  refine (run_of_calm (f := fun g m => if when_ g m = true then modPw h f m else m) hcalm).trans ?_
  rw [if_neg hno]

theorem execPackRise_calm (hc : calm s.m = true) : exec (.packRise h) s = .next { s with m := (modPw h (fun x =>
    if x.pack || x.preq == 0 then x
    else if x.preq == 1 then { x with pack := true, inRet := true }
    else { x with pack := true, pto := false, ckreq := x.ckreq || managed s.m }) s.m) } :=
  run_of_calm (f := fun _ m => modPw h (fun x =>
    if x.pack || x.preq == 0 then x
    else if x.preq == 1 then { x with pack := true, inRet := true }
    else { x with pack := true, pto := false, ckreq := x.ckreq || managed m }) m) (calm_modPw.trans hc)

theorem flushLink_empty {k : Fin 3} {m : Mach} (hq : (linkAt m k).sendQ = []) : flushLink k m = m := by
  rw [flushLink, hq]
  rfl

/-- A calm slice whose management port waits for nothing stays as a register access leaves it. -/
theorem rest_of_calm {g : Regs} {m : Mach} (hc : calm m = true) (hq : m.mg.q = []) : rest s (g, m) = { s with regs := g, m := m } := by
  have hreads : serveReads 4 g m = m := by
    unfold serveReads
    rw [hq]
  rw [rest, settle_of_calm hc, hreads]

theorem execClockStartDone_quiet (hc : calm s.m = true) (hr : (halfAt s.m h).pw.ramp = true) (hq : s.m.mg.q = [])
    (hl : ∀ k : Fin 3, fin3Half k = h → (linkAt s.m k).sendQ = []) : exec (.clockStartDone h) s
      = .next { s with m := modPw h (fun x => { x with ramp := false, awake := true, inRet := false, demand := false }) s.m } := by
  have hflush : ∀ (k : Fin 3) (m : Mach), linkAt m k = linkAt s.m k → (if fin3Half k == h then flushLink k m else m) = m := by
    intro k m hm
    split
    next hk => exact flushLink_empty (by rw [hm]; exact hl k (beq_iff_eq.mp hk))
    next => rfl
  change execClockStartDone h s = _
  have hramp : (!(halfAt s.m h).pw.ramp) = false := by rw [hr]; rfl
  rw [execClockStartDone, hramp, if_neg Bool.false_ne_true]
  generalize ht : modPw h (fun x => { x with ramp := false, awake := true, inRet := false, demand := false }) s.m = t
  have htc : calm t = true := by rw [← ht, calm_modPw, hc]
  have htq : t.mg.q = [] := by rw [← ht]; exact hq
  have htl : ∀ k, linkAt t k = linkAt s.m k := fun k => by rw [← ht]; rfl
  simp only [List.foldl_cons, List.foldl_nil, hflush 0 t (htl 0), hflush 1 t (htl 1), hflush 2 t (htl 2), rest_of_calm htc htq]

end Events

/-- Settles O55: each event under its condition; before step 12 and after a failed start the condition fails. -/
theorem powerEventsHappen : Obligations.PowerEventsHappen := by
  unfold Obligations.PowerEventsHappen
  intro h s hc
  refine ⟨fun hh hm ha hq => ?_, fun hh => ?_, fun hm => ⟨?_, ?_⟩, fun ht => ?_, fun hr hm hp hk hck ha ht hd => ?_,
    fun hm hd hp hk hck ha ht => ?_, fun hm hd hp hk => ?_, fun hk hp => ?_, fun hk hp => ?_, fun hj hck hka => ?_, fun hp hk => ?_,
    fun hr hq hl => ?_⟩
  case refine_1 =>
    change execStopIdleExpiry h s = _
    refine powerEvent_acts hc ?_
    simp [hh, hm, ha, hq]
  case refine_2 =>
    change execStopIdleExpiry h s = _
    refine powerEvent_idle hc ?_
    rcases hh with hh | hh <;> simp [hh]
  case refine_3 =>
    change execRetEntry h s = _
    refine powerEvent_idle hc ?_
    simp [hm]
  case refine_4 =>
    change execDemandSample h s = _
    refine powerEvent_idle hc ?_
    simp [hm]
  case refine_5 =>
    change execStopTailExpiry h s = _
    exact powerEvent_acts hc ht
  case refine_6 =>
    change execRetEntry h s = _
    refine powerEvent_acts hc ?_
    simp [inStop, hr, hm, hp, hk, hck, ha, ht, hd]
  case refine_7 =>
    change execDemandSample h s = _
    refine (powerEvent_acts hc ?_).trans ?_
    · simp [hm, hd]
    · rw [demandTick, if_pos (by simp [inStop, hp, hk, hck, ha, ht])]
  case refine_8 =>
    change execDemandSample h s = _
    refine (powerEvent_acts hc ?_).trans ?_
    · simp [hm, hd]
    · rw [demandTick, if_neg (by simp [inStop, hp]), if_pos (by simp [hp]), if_pos hk]
  case refine_9 =>
    rw [execPackRise_calm hc]
    refine congrArg (fun m => Host.Outcome.next { s with m := m }) (modHalf_congr ?_)
    simp only [hk, hp]
    rfl
  case refine_10 =>
    rw [execPackRise_calm hc]
    refine congrArg (fun m => Host.Outcome.next { s with m := m }) (modHalf_congr ?_)
    simp only [hk, hp]
    rfl
  case refine_11 =>
    change execCkackRise h s = _
    refine powerEvent_acts hc ?_
    simp only [hj, hck, hka]
    rfl
  case refine_12 =>
    change execPackTimeout h s = _
    refine powerEvent_acts hc ?_
    simp [hp, hk]
  case refine_13 =>
    rw [execClockStartDone_quiet hc hr hq hl]
    exact congrArg (fun m => Host.Outcome.next { s with m := m }) (modHalf_congr rfl)

/-! ## The resets -/

/-- The links after a reset keep the level of their pins alone. -/
theorem linkAt_resetLinks (m m' : Mach) (k : Fin 3) :
    linkAt { m' with links := Vector.ofFn fun (k : Fin 3) => { Link.reset with up := (linkAt m k).up } } k
      = { Link.reset with up := (linkAt m k).up } := by
  simp [linkAt]

/-- Settles O56: both resets are written out by the model; the links are read place by place. -/
theorem resetsClear : Obligations.ResetsClear := by
  unfold Obligations.ResetsClear
  intro s
  exact ⟨⟨_, rfl, rfl, rfl, rfl, fun k => linkAt_resetLinks s.m Mach.reset k⟩, ⟨_, rfl, rfl, rfl, fun k => linkAt_resetLinks s.m Mach.reset k, rfl⟩⟩

/-- Settles O57: the reset state is a closed term. -/
theorem resetValuesOfTheTables : Obligations.ResetValuesOfTheTables := by
  unfold Obligations.ResetValuesOfTheTables
  refine ⟨rfl, rfl, rfl, rfl, rfl, rfl, rfl, rfl, rfl, rfl, rfl, rfl, rfl, rfl, rfl, rfl, ?_, ?_, rfl, rfl, ?_⟩
  · decide +kernel
  · decide +kernel
  · decide +kernel

end Sys2Proof.Machine
end

section
/-!
The start journal and the end of a load (O58).
-/

namespace Sys2Proof.Machine

/-! ## Records of the journal -/

section Records

variable {j : Jrn} {i k : Nat} {f : JrnRec → JrnRec}

theorem jrnRec_modRec (hi : 1 ≤ i) (hi' : i ≤ 12) (hk : 1 ≤ k) : jrnRec (modRec k f j) i = if i = k then f (jrnRec j i) else jrnRec j i := by
  have hlt : i - 1 < 12 := by omega
  have heq : (i - 1 = k - 1) = (i = k) := propext ⟨fun e => by omega, fun e => by omega⟩
  simp only [jrnRec, modRec, List.getD_eq_getElem?_getD, Vector.getElem?_toList]
  rw [Vector.getElem?_eq_getElem hlt, Vector.getElem?_eq_getElem hlt]
  simp only [Vector.getElem_mapFinIdx, beq_iff_eq, heq, Option.getD_some]

theorem jrnRec_modRec_same (hk : 1 ≤ k) (hk' : k ≤ 12) : jrnRec (modRec k f j) k = f (jrnRec j k) := by
  rw [jrnRec_modRec hk hk' hk, if_pos rfl]

theorem jrnRec_modRec_ne (hi : 1 ≤ i) (hi' : i ≤ 12) (hk : 1 ≤ k) (hne : i ≠ k) : jrnRec (modRec k f j) i = jrnRec j i := by
  rw [jrnRec_modRec hi hi' hk, if_neg hne]

/-- To cut a step off changes the record of no step that was not running. -/
theorem jrnRec_cutOff (hi : 1 ≤ i) (hi' : i ≤ 12) (hk : 1 ≤ k) (hr : (jrnRec j i).state ≠ 1) : jrnRec (cutOff j k) i = jrnRec j i := by
  unfold cutOff
  split
  · rfl
  next hrun =>
    rw [jrnRec_modRec hi hi' hk]
    split
    next e =>
      subst e
      exact absurd hr (by simpa [stRUNNING] using hrun)
    next => rfl

theorem jrnRec_cutOffs (hi : 1 ≤ i) (hi' : i ≤ 12) (hr : (jrnRec j i).state ≠ 1) (ks : List Nat) (hks : ∀ k ∈ ks, 1 ≤ k) :
    jrnRec (ks.foldl cutOff j) i = jrnRec j i := by
  induction ks generalizing j with
  | nil => rfl
  | cons k ks ih =>
    have hstep := jrnRec_cutOff hi hi' (hks k List.mem_cons_self) hr
    rw [List.foldl_cons, ih (hstep ▸ hr) fun x hx => hks x (List.mem_cons_of_mem _ hx), hstep]

/-- To cut steps off changes nothing of the journal but its records. -/
theorem cutOffs_rest (ks : List Nat) : ks.foldl cutOff j = { j with recs := (ks.foldl cutOff j).recs } := by
  have hone : ∀ (j : Jrn) (k : Nat), cutOff j k = { j with recs := (cutOff j k).recs } := fun j k => by
    unfold cutOff
    split <;> rfl
  induction ks generalizing j with
  | nil => rfl
  | cons k ks ih =>
    rw [List.foldl_cons, ih, hone j k]

end Records

/-! ## The start -/

section Start

variable {s : State}

/-- The journal as the straps are sampled. -/
def sampledJrn (st : Straps) (j : Jrn) : Jrn :=
  { ((List.range 12).map (· + 1)).foldl cutOff j with
    run := true, ready := false, dn := false, starts := (((List.range 12).map (· + 1)).foldl cutOff j).starts + 1
    tmode := st.tmode, die := st.die, pos := st.pos, boota := st.boota }

theorem sampledJrn_starts (st : Straps) (j : Jrn) : (sampledJrn st j).starts = j.starts + 1 := by
  unfold sampledJrn
  rw [cutOffs_rest]

theorem jrnRec_sampledJrn {st : Straps} {j : Jrn} {k : Nat} (hk : 1 ≤ k) (hk' : k ≤ 12) (hr : (jrnRec j k).state ≠ 1) :
    jrnRec (sampledJrn st j) k = jrnRec j k := by
  refine Eq.trans ?_ (jrnRec_cutOffs hk hk' hr ((List.range 12).map (· + 1)) fun i hi => ?_)
  · unfold sampledJrn
    generalize ((List.range 12).map (· + 1)).foldl cutOff j = c
    rfl
  · obtain ⟨a, -, rfl⟩ := List.mem_map.mp hi
    omega

/-- The journal as step k begins. -/
def begunJrn (k : Nat) (j : Jrn) : Jrn :=
  modRec k (fun r => { r with state := stRUNNING, att := if r.att == 15 then r.att else r.att + 1 }) { j with step := BitVec.ofNat 4 k, second := false }

theorem jrnRec_begunJrn_ne {j : Jrn} {i k : Nat} (hi : 1 ≤ i) (hi' : i ≤ 12) (hk : 1 ≤ k) (hne : i ≠ k) :
    jrnRec (begunJrn k j) i = jrnRec j i :=
  jrnRec_modRec_ne (j := { j with step := BitVec.ofNat 4 k, second := false }) hi hi' hk hne

theorem execJournalStart_eq {st : Straps} (hc : calm s.m = true) (hr : s.m.jrn.run = false) (ho : ∀ h : Half, (halfAt s.m h).pw.preq = 0) :
    exec (.journalStart st) s = .next { s with m := modJrn (fun j => begunJrn 1 (sampledJrn st j)) s.m } := by
  have hoff : (s.m.jrn.run || !bothOff s.m) = false := by simp [hr, bothOff, ho]
  change execJournalStart st s = _
  rw [execJournalStart, hoff, if_neg Bool.false_ne_true]
  exact run_of_calm (f := fun g m => beginStep g 1 (modJrn (sampledJrn st) m)) hc

/-! ## The ends of steps -/

/-- A step that ends leaves the slice, with the next step begun where it has succeeded. -/
theorem execJournalStepEnd_of {o : StepEnd} {k : Nat} {x y : Slice} (hr : s.m.jrn.run = true) (hk : s.m.jrn.step.toNat = k)
    (he : endStep k o (s.regs, s.m) = some x) (hn : (if stepOver k x.2 then nextStep k x else x) = y) (hc : calm y.2 = true)
    (hq : y.2.mg.q = []) : exec (.journalStepEnd o) s = .next { s with regs := y.1, m := y.2 } := by
  have hrun : (!s.m.jrn.run) = false := by rw [hr]; rfl
  change execJournalStepEnd o s = _
  simp only [execJournalStepEnd, hk, hrun, he, hn, Bool.false_eq_true, if_false]
  rw [rest_of_calm hc hq]

/-- The record of a step that has succeeded in its normal form. -/
def okRec (ticks : BitVec 16) (r : JrnRec) : JrnRec := { r with state := stOK, fails := 0, slot := false, code := 0, ticks := ticks }

theorem stepOver_of {k : Nat} {m : Mach} (hr : m.jrn.run = true) (hs : (jrnRec m.jrn k).state ≠ stRUNNING) : stepOver k m = true := by
  simp [stepOver, hr, hs]

theorem stepOver_ended {k : Nat} {m : Mach} (hr : m.jrn.run = false) : stepOver k m = false := by simp [stepOver, hr]

theorem bothPw_pw (f : Power → Power) (m : Mach) (h : Half) : (halfAt (bothPw f m) h).pw = f (halfAt m h).pw := by
  have hne : (0 : Half) ≠ 1 := by decide
  simp only [bothPw, bothHalves, List.foldl_cons, List.foldl_nil, modPw]
  rcases half_cases h with rfl | rfl
  · rw [halfAt_modHalf_ne _ _ hne, halfAt_modHalf]
  · rw [halfAt_modHalf, halfAt_modHalf_ne _ _ hne.symm]

theorem calm_bothPw (f : Power → Power) (m : Mach) : calm (bothPw f m) = calm m := by
  simp only [bothPw, bothHalves, List.foldl_cons, List.foldl_nil]
  rw [calm_modPw, calm_modPw]

/-- Step 1 is over, and step 2 raises the rails. -/
theorem execJournalStepEnd_straps {o : StepEnd} (hc : calm s.m = true) (hq : s.m.mg.q = []) (hr : s.m.jrn.run = true) (hs : s.m.jrn.step = 1)
    (ht : s.m.jrn.tmode = false) (ho : o.ok = true) : exec (.journalStepEnd o) s = .next { s with
      m := bothPw (fun x => { x with preq := 3, pack := false }) (modJrn (fun j => begunJrn 2 (modRec 1 (okRec o.ticks) j)) s.m) } := by
  have hend : endStep 1 o (s.regs, s.m) = some (s.regs, modJrn (modRec 1 (okRec o.ticks)) s.m) := by
    have hok : (o.ok && !s.m.jrn.tmode) = true := by rw [ho, ht]; rfl
    change some (onMach (fun _ m => if (o.ok && !s.m.jrn.tmode) = true then stepSucceeds 1 o.ticks m else stepFails 1 0 o.ticks m) (s.regs, s.m)) = _
    rw [hok]
    rfl
  have hstate : (jrnRec (modJrn (modRec 1 (okRec o.ticks)) s.m).jrn 1).state ≠ stRUNNING := by
    rw [show (modJrn (modRec 1 (okRec o.ticks)) s.m).jrn = modRec 1 (okRec o.ticks) s.m.jrn from rfl, jrnRec_modRec_same (by decide) (by decide)]
    exact (by decide : stOK ≠ stRUNNING)
  have hover := stepOver_of (m := modJrn (modRec 1 (okRec o.ticks)) s.m) (k := 1) hr hstate
  refine execJournalStepEnd_of (y := (s.regs, _)) hr (by rw [hs]; rfl) hend ?_ ?_ ?_
  · rw [if_pos hover]
    change (s.regs, if s.m.jrn.run = true then _ else _) = _
    rw [if_pos hr]
    rfl
  · exact (calm_bothPw _ _).trans hc
  · exact hq

/-- Step 1 with TMODE ends the start. -/
theorem execJournalStepEnd_tmode {o : StepEnd} (hc : calm s.m = true) (hq : s.m.mg.q = []) (hr : s.m.jrn.run = true) (hs : s.m.jrn.step = 1)
    (ht : s.m.jrn.tmode = true) : exec (.journalStepEnd o) s = .next { s with m := stepFails 1 0 o.ticks s.m } := by
  have hend : endStep 1 o (s.regs, s.m) = some (s.regs, stepFails 1 0 o.ticks s.m) := by
    have hok : (o.ok && !s.m.jrn.tmode) = false := by rw [ht]; simp
    change some (onMach (fun _ m => if (o.ok && !s.m.jrn.tmode) = true then stepSucceeds 1 o.ticks m else stepFails 1 0 o.ticks m) (s.regs, s.m)) = _
    rw [hok]
    rfl
  have hover : stepOver 1 (stepFails 1 0 o.ticks s.m) = false := stepOver_ended rfl
  exact execJournalStepEnd_of (y := (s.regs, _)) hr (by rw [hs]; rfl) hend (by rw [hover]; rfl) hc hq

/-- The record of a step that has not met all its partners. -/
def partialRec (ticks : BitVec 16) (r : JrnRec) : JrnRec := { r with state := stPARTIAL, slot := false, code := 0, ticks := ticks }

/-- Step 10 without the remote link is over at its limit. -/
theorem execJournalStepEnd_remote {o : StepEnd} (hc : calm s.m = true) (hq : s.m.mg.q = []) (hr : s.m.jrn.run = true) (hs : s.m.jrn.step = 10)
    (ho : o.ok = false) (hx : s.m.jrn.missX = false) (hj : isJoined (linkAt s.m 2).hello = false) : exec (.journalStepEnd o) s
      = .next { s with m := modJrn (fun j => begunJrn 11 { modRec 10 (partialRec o.ticks) j with missX := true }) s.m } := by
  have hend : endStep 10 o (s.regs, s.m)
      = some (s.regs, modJrn (fun j => { modRec 10 (partialRec o.ticks) j with missX := true }) s.m) := by
    have hmet : stepMet s.regs s.m 10 = some false := by
      change some (s.m.jrn.missX || isJoined (linkAt s.m 2).hello) = _
      rw [hx, hj]
      rfl
    have hmiss : (!isJoined (linkAt s.m 2).hello) = true := by rw [hj]; rfl
    simp only [endStep, hmet, ho, Bool.and_false, Bool.false_eq_true, if_false]
    change some (s.regs, modJrn (fun j => { modRec 10 (partialRec o.ticks) j with missX := !isJoined (linkAt s.m 2).hello }) s.m) = _
    rw [hmiss]
  have hstate : (jrnRec (modJrn (fun j => { modRec 10 (partialRec o.ticks) j with missX := true }) s.m).jrn 10).state ≠ stRUNNING := by
    change (jrnRec (modRec 10 (partialRec o.ticks) s.m.jrn) 10).state ≠ _
    rw [jrnRec_modRec_same (by decide) (by decide)]
    exact (by decide : stPARTIAL ≠ stRUNNING)
  have hover := stepOver_of (m := modJrn (fun j => { modRec 10 (partialRec o.ticks) j with missX := true }) s.m) (k := 10) hr hstate
  refine execJournalStepEnd_of (y := (s.regs, _)) hr (by rw [hs]; rfl) hend ?_ ?_ ?_
  · rw [if_pos hover]
    change (s.regs, if s.m.jrn.run = true then _ else _) = _
    rw [if_pos hr]
    rfl
  · exact hc
  · exact hq

/-- Step 12 ends the start. -/
theorem execJournalStepEnd_last {o : StepEnd} (hc : calm s.m = true) (hq : s.m.mg.q = []) (hr : s.m.jrn.run = true) (hs : s.m.jrn.step = 12)
    (ho : o.ok = true) : exec (.journalStepEnd o) s
      = .next { s with m := endStart true (modJrn (modRec 12 (okRec o.ticks)) s.m) } := by
  have hend : endStep 12 o (s.regs, s.m) = some (s.regs, endStart true (modJrn (modRec 12 (okRec o.ticks)) s.m)) := by
    have hmet : stepMet s.regs s.m 12 = none := rfl
    simp only [endStep, hmet, ho, if_true]
    rfl
  have hover : stepOver 12 (endStart true (modJrn (modRec 12 (okRec o.ticks)) s.m)) = false := stepOver_ended rfl
  exact execJournalStepEnd_of (y := (s.regs, _)) hr (by rw [hs]; rfl) hend (by rw [hover]; rfl) hc hq

/-! ## The end of a load -/

theorem finishLoad_failed {ld : Load} {c n : Nat} (he : s.m.ras.errs = []) (hf : ld.failed = some (c, n)) :
    finishLoad ld (s.regs, s.m) = (s.regs, loadFailed c (some n) s.m) := by
  have herrs : s.m.ras.errs.isEmpty = true := by rw [he]; rfl
  simp only [finishLoad, readStaged, herrs, if_true, hf, Option.some_or]
  rfl

theorem finishLoad_good {ld : Load} (he : s.m.ras.errs = []) (hf : ld.failed = none) (hi : imageFailure ld.lines s.m = none) :
    finishLoad ld (s.regs, s.m) = onMach (fun _ m => loadDone ld m) (applyImage ld.lines (s.regs, s.m)) := by
  have herrs : s.m.ras.errs.isEmpty = true := by rw [he]; rfl
  simp only [finishLoad, readStaged, stagedLines, herrs, if_true, hf, Option.none_or, Option.map_none, hi]
  rfl

theorem execImageLoadEnd_loaded {ld : Load} (hl : s.m.img.load = some ld) (ha : ld.await = 0) :
    exec .imageLoadEnd s = .next (rest s (finishLoad ld (s.regs, s.m))) := by
  change execImageLoadEnd s = _
  simp only [execImageLoadEnd, hl, ha, beq_self_eq_true, if_true]

end Start

section Stores

variable {ls : Image} {x : Slice} {n : Nat}

/-- The write of a port's register changes the enables of the ports alone. -/
theorem writePort_regs (p : PortIx) (v : BitVec 32) : ∃ en, (writePort p v x).1 = { x.1 with rpEn := en } := by
  unfold writePort
  dsimp only
  split_ifs <;> exact ⟨_, rfl⟩

theorem applyPorts_regs : ∃ en, (applyPorts ls n x).1 = { x.1 with rpEn := en } := by
  have hfold : ∀ (ps : List PortIx) (y : Slice), ∃ en, (ps.foldl (applyPort ls n) y).1 = { y.1 with rpEn := en } := by
    intro ps
    induction ps with
    | nil => exact fun y => ⟨y.1.rpEn, rfl⟩
    | cons p ps ih =>
      intro y
      obtain ⟨en, hen⟩ := ih (applyPort ls n y p)
      obtain ⟨en', hen'⟩ := writePort_regs (x := y) p (secWord ls typeSLICE (128 * n + 2 + p.val))
      exact ⟨en, by rw [List.foldl_cons, hen, applyPort, hen']⟩
  exact hfold allPorts x

/-- After the services and the programs of an image no part of it changes the stores. -/
theorem applyImage_stores : (applyImage ls x).1.shadow = (applyImage ls x).1.live
    ∧ (applyImage ls x).1.store = tabOf 0 16384 (fun i => secWord ls typePROGRAMS (1024 + i))
    ∧ (applyImage ls x).1.pool = tabOf 0 4096 (fun i => secWord ls typePROGRAMS (17408 + i)) := by
  unfold applyImage
  dsimp only
  generalize imgOwn ls x.2.jrn = n
  generalize applyRegions ls (bothHalves.foldl (applyHalf ls n) (applyControl ls (applyTopology ls n x))) = y
  obtain ⟨en, hen⟩ := applyPorts_regs (ls := ls) (n := n) (x := demandHeld (leaveSafe (applyStructs ls (applyPrograms ls (applyService ls y)))))
  have hregs : (onRegs captureRegs (applyPorts ls n (demandHeld (leaveSafe (applyStructs ls (applyPrograms ls (applyService ls y))))))).1
      = captureRegs { programRegs ls (serviceRegs ls y.1) with rpEn := en } := by
    change captureRegs _ = _
    rw [hen, demandHeld_regs]
    rfl
  rw [hregs]
  exact ⟨by simp only [captureRegs, programRegs, serviceRegs], by simp only [captureRegs, programRegs], by simp only [captureRegs, programRegs]⟩

end Stores

/-- Settles O58: each end of a step and of a load is a closed next state, from which its clause is read. -/
theorem journalRunsTheStart : Obligations.JournalRunsTheStart := by
  unfold Obligations.JournalRunsTheStart
  intro s hc hq
  refine ⟨fun st hr ho => ?_, fun o hr hs ht hok => ?_, fun o hr hs ht => ?_, fun o hr hs hok hx hj => ?_, fun o hr hs hok => ?_,
    fun ld c n hl ha he hf => ?_, fun ld hl ha he hf hi => ?_⟩
  case refine_1 =>
    refine ⟨_, execJournalStart_eq hc hr ho, rfl, rfl, rfl, rfl, rfl, rfl, sampledJrn_starts st s.m.jrn, rfl, rfl, rfl, rfl, ?_,
      fun k hk hk' hst => ?_⟩
    · change (jrnRec (begunJrn 1 (sampledJrn st s.m.jrn)) 1).state = 1
      rw [begunJrn, jrnRec_modRec_same (by decide) (by decide)]
      rfl
    · change jrnRec (begunJrn 1 (sampledJrn st s.m.jrn)) k = _
      rw [jrnRec_begunJrn_ne (by omega) hk' (by decide) (by omega), jrnRec_sampledJrn (by omega) hk' hst]
  case refine_2 =>
    have hrec1 : jrnRec (begunJrn 2 (modRec 1 (okRec o.ticks) s.m.jrn)) 1 = okRec o.ticks (jrnRec s.m.jrn 1) := by
      rw [jrnRec_begunJrn_ne (by decide) (by decide) (by decide) (by decide)]
      exact jrnRec_modRec_same (by decide) (by decide)
    have hrec2 : (jrnRec (begunJrn 2 (modRec 1 (okRec o.ticks) s.m.jrn)) 2).state = 1 := by
      rw [begunJrn, jrnRec_modRec_same (by decide) (by decide)]
      rfl
    refine ⟨_, execJournalStepEnd_straps hc hq hr hs ht hok, hr, rfl, ?_, ?_, ?_, hrec2, fun h => ?_⟩
    · exact congrArg JrnRec.state hrec1
    · exact congrArg JrnRec.fails hrec1
    · exact congrArg JrnRec.ticks hrec1
    · constructor
      · exact congrArg Power.preq (bothPw_pw _ _ h)
      · exact congrArg Power.pack (bothPw_pw _ _ h)
  case refine_3 =>
    refine ⟨_, execJournalStepEnd_tmode hc hq hr hs ht, rfl, rfl, rfl, ?_⟩
    exact congrArg JrnRec.state (jrnRec_modRec_same (by decide) (by decide))
  case refine_4 =>
    refine ⟨_, execJournalStepEnd_remote hc hq hr hs hok hx hj, hr, rfl, rfl, ?_, ?_⟩
    · change (jrnRec (begunJrn 11 { modRec 10 (partialRec o.ticks) s.m.jrn with missX := true }) 10).state = 5
      rw [jrnRec_begunJrn_ne (by decide) (by decide) (by decide) (by decide)]
      exact congrArg JrnRec.state (jrnRec_modRec_same (by decide) (by decide))
    · change (jrnRec (begunJrn 11 { modRec 10 (partialRec o.ticks) s.m.jrn with missX := true }) 11).state = 1
      rw [begunJrn, jrnRec_modRec_same (by decide) (by decide)]
      rfl
  case refine_5 =>
    refine ⟨_, execJournalStepEnd_last hc hq hr hs hok, rfl, rfl, rfl, ?_⟩
    exact congrArg JrnRec.state (jrnRec_modRec_same (by decide) (by decide))
  case refine_6 =>
    rw [execImageLoadEnd_loaded hl ha, finishLoad_failed he hf]
    exact congrArg Host.Outcome.next (rest_of_calm (m := loadFailed c (some n) s.m) hc hq)
  case refine_7 =>
    obtain ⟨hlab, hstore, hpool⟩ := applyImage_stores (ls := ld.lines) (x := (s.regs, s.m))
    refine ⟨_, execImageLoadEnd_loaded hl ha, ?_⟩
    rw [finishLoad_good he hf hi, rest_regs]
    exact ⟨rfl, hlab, hstore, hpool⟩

end Sys2Proof.Machine
end

section
/-!
What a pass over the entries of a table leaves, and what service and instances do by themselves (O59).
-/

namespace Sys2Proof.Machine

/-! ## Passes over tables -/

section Pass

variable {α ι : Type} [DecidableEq α] {d : α}

theorem tabGet_tabMod {t : Tab α} (h : tabWf d t = true) (k i : Nat) (f : α → α) :
    tabGet d (tabMod d t k f) i = if i = k then f (tabGet d t i) else tabGet d t i := by
  unfold tabMod
  rw [tabGet_tabSet h]
  split
  next e => rw [e]
  next => rfl

/-- A pass that changes entries of distinct keys changes each of them once, and no other. -/
theorem tabGet_pass (key : ι → Nat) (f : ι → α → α) (l : List ι) (hn : (l.map key).Nodup) {t : Tab α} (h : tabWf d t = true) :
    (∀ x ∈ l, tabGet d (l.foldl (fun t x => tabMod d t (key x) (f x)) t) (key x) = f x (tabGet d t (key x)))
      ∧ ∀ i, i ∉ l.map key → tabGet d (l.foldl (fun t x => tabMod d t (key x) (f x)) t) i = tabGet d t i := by
  induction l generalizing t with
  | nil => exact ⟨fun x hx => absurd hx List.not_mem_nil, fun i _ => rfl⟩
  | cons y l ih =>
    obtain ⟨hy, hn⟩ := List.nodup_cons.mp hn
    obtain ⟨hin, hout⟩ := ih hn (tabMod_wf h (key y) (f y))
    refine ⟨fun x hx => ?_, fun i hi => ?_⟩
    · rcases List.mem_cons.mp hx with rfl | hx
      · rw [List.foldl_cons, hout _ hy, tabGet_tabMod h, if_pos rfl]
      · have hne : key x ≠ key y := fun e => hy (e ▸ List.mem_map_of_mem hx)
        rw [List.foldl_cons, hin x hx, tabGet_tabMod h, if_neg hne]
    · obtain ⟨hne, hi⟩ : i ≠ key y ∧ i ∉ l.map key := by simpa only [List.map_cons, List.mem_cons, not_or] using hi
      rw [List.foldl_cons, hout i hi, tabGet_tabMod h, if_neg hne]

/-- The keys of a canonical table rise. -/
theorem tabWfFrom_keys {lo : Nat} {t : Tab α} (h : tabWfFrom d lo t = true) : (t.map (·.1)).Nodup ∧ ∀ x ∈ t, lo ≤ x.1 := by
  induction t generalizing lo with
  | nil => exact ⟨List.nodup_nil, fun x hx => absurd hx List.not_mem_nil⟩
  | cons y r ih =>
    obtain ⟨j, v⟩ := y
    simp only [tabWfFrom, Bool.and_eq_true, decide_eq_true_eq] at h
    obtain ⟨⟨hj, -⟩, hr⟩ := h
    obtain ⟨hn, hlo⟩ := ih hr
    refine ⟨List.nodup_cons.mpr ⟨fun hm => ?_, hn⟩, fun x hx => ?_⟩
    · obtain ⟨x, hx, hxj⟩ := List.mem_map.mp hm
      have hx' : j + 1 ≤ x.1 := hlo x hx
      have hxj' : x.1 = j := hxj
      omega
    · rcases List.mem_cons.mp hx with rfl | hx
      · exact hj
      · have := hlo x hx
        omega

/-- An entry of a canonical table is what its key reads. -/
theorem tabGet_of_mem {lo : Nat} {t : Tab α} (h : tabWfFrom d lo t = true) {x : Nat × α} (hx : x ∈ t) : tabGet d t x.1 = x.2 := by
  induction t generalizing lo with
  | nil => exact absurd hx List.not_mem_nil
  | cons y r ih =>
    obtain ⟨j, v⟩ := y
    simp only [tabWfFrom, Bool.and_eq_true, decide_eq_true_eq] at h
    obtain ⟨-, hr⟩ := h
    rcases List.mem_cons.mp hx with rfl | hx
    · simp [tabGet]
    · have hlo := (tabWfFrom_keys hr).2 x hx
      have hne : (x.1 == j) = false := beq_eq_false_iff_ne.mpr (by omega)
      rw [tabGet, hne, if_neg Bool.false_ne_true, if_neg (by omega), ih hr hx]

omit [DecidableEq α] in
theorem tabGet_of_not_mem {t : Tab α} {i : Nat} (hi : i ∉ t.map (·.1)) : tabGet d t i = d := by
  induction t with
  | nil => rfl
  | cons y r ih =>
    obtain ⟨j, v⟩ := y
    obtain ⟨hij, hi⟩ : i ≠ j ∧ i ∉ r.map (·.1) := by simpa only [List.map_cons, List.mem_cons, not_or] using hi
    have hne : (i == j) = false := beq_eq_false_iff_ne.mpr hij
    rw [tabGet, hne, if_neg Bool.false_ne_true, ih hi]
    split <;> rfl

end Pass

/-! ## Class buckets -/

section Buckets

variable {g : Regs} {h : Half} {m : Mach}

theorem modChan_self (ch : MemChan → MemChan) (e : ch (chanAt m h) = chanAt m h) : modChan h ch m = m := by
  simp only [modChan, chanAt] at e ⊢
  rw [e]
  simp

/-- The bucket of a class after a refill. -/
def grown (g : Regs) (k : Fin 16) (v : Int) : Int := min 0 (v + g.cls[k].grd.toNat)

/-- The buckets after a refill of some classes. -/
def grownBuckets (g : Regs) (ks : List (Fin 16)) (b : Tab Int) : Tab Int := ks.foldl (fun t k => tabMod 0 t k.val (grown g k)) b

/-- A guaranteed class, into whose buckets a refill puts GRD. -/
def isGuaranteed (g : Regs) (k : Fin 16) : Bool := g.cls[k].kind == 1

def guaranteed (g : Regs) : List (Fin 16) := (List.finRange 16).filter (isGuaranteed g)

/-- Without the order of classes a refill is no shortfall: it changes the bucket alone. -/
theorem refillClass_bucket (ho : g.svcOrder = false) (k : Fin 16) : refillClass g h k m
    = if isGuaranteed g k then modChan h (fun ch => { ch with
        bucket := tabMod 0 ch.bucket k.val (grown g k) }) m else m := by
  cases hk : isGuaranteed g k with
  | false =>
    have hk' : (g.cls[k].kind != 1) = true := (congrArg (!·) hk : (!isGuaranteed g k) = true)
    simp only [refillClass, hk', if_true, Bool.false_eq_true, if_false]
  | true =>
    have hk' : (g.cls[k].kind != 1) = false := (congrArg (!·) hk : (!isGuaranteed g k) = false)
    simp only [refillClass, hk', ho, Bool.and_false, Bool.false_and, Bool.false_eq_true, if_false, if_true]
    exact modChan_congr rfl

/-- A pass over classes as one change of the channel's bucket. -/
theorem refillClasses_bucket (ho : g.svcOrder = false) (ks : List (Fin 16)) : ks.foldl (fun m k => refillClass g h k m) m
    = modChan h (fun _ => { chanAt m h with bucket := grownBuckets g (ks.filter (isGuaranteed g)) (chanAt m h).bucket }) m := by
  induction ks generalizing m with
  | nil => exact (modChan_self _ rfl).symm
  | cons k ks ih =>
    rw [List.foldl_cons, ih, refillClass_bucket ho]
    cases hk : isGuaranteed g k with
    | false => rw [List.filter_cons_of_neg (by simp [hk]), if_neg Bool.false_ne_true]
    | true =>
      rw [List.filter_cons_of_pos hk, if_pos rfl, modChan_modChan]
      refine modChan_congr ?_
      rw [chanAt_modChan]
      rfl

/-- What a refill leaves in the bucket of each class. -/
theorem refilled_bucket {b : Tab Int} (hw : tabWf (0 : Int) b = true) (k : Fin 16) :
    tabGet 0 (grownBuckets g (guaranteed g) b) k.val
      = if g.cls[k].kind = 1 then min 0 (tabGet 0 b k.val + g.cls[k].grd.toNat) else tabGet 0 b k.val := by
  have hn : ((guaranteed g).map Fin.val).Nodup :=
    ((List.nodup_finRange 16).filter _).map Fin.val_injective
  obtain ⟨hin, hout⟩ := tabGet_pass Fin.val (grown g) (guaranteed g) hn hw
  split
  next hk => exact hin k (List.mem_filter.mpr ⟨List.mem_finRange k, beq_iff_eq.mpr hk⟩)
  next hk =>
    refine hout k.val fun hm => hk ?_
    obtain ⟨j, hj, hjk⟩ := List.mem_map.mp hm
    obtain rfl := Fin.ext hjk
    exact beq_iff_eq.mp (List.mem_filter.mp hj).2

end Buckets

/-! ## Label levels -/

section Levels

variable {g : Regs}

/-- The level of a label after a refill. -/
def refilled (c : LabelCtx) (v : Int) : Int := if v < (c.burst.toNat : Int) then min (c.burst.toNat : Int) (v + c.rate.toNat) else v

theorem refillLabels_pass (t : Tab Int) : refillLabels g t
    = (g.live.filter fun x => x.2.en && x.2.rate != 0).foldl (fun t x => tabMod 0 t x.1 (refilled x.2)) t := by
  rw [List.foldl_filter]
  rfl

/-- A refill gives every enabled label with a rate its new level, and leaves the others. -/
theorem refillLabels_level (hl : tabWf LabelCtx.off g.live = true) {t : Tab Int} (hw : tabWf (0 : Int) t = true) (l : BitVec 12) :
    tabGet 0 (refillLabels g t) l.toNat = if (labelCtx g l).en = true ∧ (labelCtx g l).rate ≠ 0
      then refilled (labelCtx g l) (tabGet 0 t l.toNat) else tabGet 0 t l.toNat := by
  obtain ⟨hkeys, -⟩ := tabWfFrom_keys hl
  have hsub : List.Sublist ((g.live.filter fun x => x.2.en && x.2.rate != 0).map (·.1)) (g.live.map (·.1)) :=
    List.filter_sublist.map _
  obtain ⟨hin, hout⟩ := tabGet_pass (fun x : Nat × LabelCtx => x.1) (fun x => refilled x.2)
    (g.live.filter fun x => x.2.en && x.2.rate != 0) (hkeys.sublist hsub) hw
  rw [refillLabels_pass]
  split
  next hc =>
    have hmem : l.toNat ∈ g.live.map (·.1) := by
      by_contra hno
      have hoff : labelCtx g l = LabelCtx.off := tabGet_of_not_mem hno
      rw [hoff] at hc
      exact absurd hc.1 (by decide)
    obtain ⟨x, hx, hxl⟩ := List.mem_map.mp hmem
    have hval : labelCtx g l = x.2 := by
      unfold labelCtx
      rw [← hxl]
      exact tabGet_of_mem hl hx
    rw [hval] at hc ⊢
    rw [← hxl]
    exact hin x (List.mem_filter.mpr ⟨hx, by rw [hc.1, Bool.true_and]; exact bne_iff_ne.mpr hc.2⟩)
  next hc =>
    refine hout _ fun hm => hc ?_
    obtain ⟨x, hx, hxl⟩ := List.mem_map.mp hm
    obtain ⟨hx, hon⟩ := List.mem_filter.mp hx
    have hval : labelCtx g l = x.2 := by
      unfold labelCtx
      rw [← hxl]
      exact tabGet_of_mem hl hx
    rw [hval]
    simpa using hon

end Levels

/-! ## Instance commands -/

section Instances

variable {s : State} {j : ViCmd}

theorem viStep_reset {g : Regs} {m : Mach} (hj : m.vi.job = some j) (hc : j.cmd = 1) :
    viStep g m = if workLeft m j.inst (some j.gen) then m else viEnd 0 m := by
  simp only [viStep, hj, hc, beq_self_eq_true, if_true]

theorem viStep_freeze {g : Regs} {m : Mach} (hj : m.vi.job = some j) (hc : j.cmd = 2) :
    viStep g m = if workLeft m j.inst none then m else viEnd 0 m := by
  have h1 : ((2 : BitVec 3) == 1) = false := by decide
  simp only [viStep, hj, hc, h1, beq_self_eq_true, Bool.false_eq_true, if_false, if_true]

/-- A save or restore whose lines have moved ends. -/
theorem viStep_record {g : Regs} {m : Mach} (hj : m.vi.job = some j) (hc : 4 ≤ j.cmd.toNat) (hm : viMoved j = true) :
    viStep g m = endRecord g j m := by
  have h1 : (j.cmd == 1) = false := beq_eq_false_iff_ne.mpr fun e => absurd hc (by rw [e]; decide)
  have h2 : (j.cmd == 2) = false := beq_eq_false_iff_ne.mpr fun e => absurd hc (by rw [e]; decide)
  simp only [viStep, hj, h1, h2, hm, Bool.false_eq_true, if_false, if_true]

end Instances

/-- Settles O59: one lemma per command; the buckets and the levels are passes over a table. -/
theorem serviceAndInstancesGoOn : Obligations.ServiceAndInstancesGoOn := by
  unfold Obligations.ServiceAndInstancesGoOn
  refine ⟨fun s j hj => ⟨fun hc hw => ?_, fun hc hw => ?_, fun hc hw => ?_, fun r hc ha hf => ?_, fun hc ha hf hl hb => ?_⟩,
    fun s r c d hu ho => ?_, fun s hc hl hst => ?_, fun h s hc ho hw => ?_, fun s hr hst hw hc => ?_⟩
  case refine_1 =>
    refine congrArg (fun m => Host.Outcome.next (settled s m)) ((viStep_reset hj hc).trans ?_)
    rw [hw, if_neg Bool.false_ne_true]
    rfl
  case refine_2 =>
    refine congrArg (fun m => Host.Outcome.next (settled s m)) ((viStep_freeze hj hc).trans ?_)
    rw [hw, if_neg Bool.false_ne_true]
    rfl
  case refine_3 =>
    refine congrArg (fun m => Host.Outcome.next (settled s m)) ((viStep_reset hj hc).trans ?_)
    rw [hw, if_pos rfl]
  case refine_4 =>
    refine congrArg (fun m => Host.Outcome.next (settled s m)) ((viStep_record hj hc (by simp [viMoved, ha, hf])).trans ?_)
    simp only [endRecord, hf]
    rfl
  case refine_5 =>
    refine ⟨_, congrArg (fun m => Host.Outcome.next (settled s m))
      (viStep_record hj (by rw [hc]; decide) (by simp [viMoved, ha, hl])), ?_⟩
    have h4 : ((5 : BitVec 3) == 4) = false := by decide
    simp only [endRecord, hf, hc, h4, hb, Bool.not_false, Bool.false_eq_true, if_false, if_true]
    exact ⟨rfl, rfl, rfl⟩
  case refine_6 =>
    change execDlOrComplete s = _
    unfold execDlOrComplete run
    dsimp only
    rw [takeUnit_only hu (by simp [ho])]
    simp only [orDone, beq_iff_eq]
    rfl
  case refine_7 =>
    have hat : (BitVec.ofNat 12 s.m.svc.copyAt).toNat = s.m.svc.copyAt := by
      rw [BitVec.toNat_ofNat]
      omega
    have hgo : (!s.m.svc.copy) = false := by rw [hc]; rfl
    have hexec : exec .labelShadowCopy s = .next { s with
        regs := { s.regs with shadow := tabSet LabelCtx.off s.regs.shadow s.m.svc.copyAt (labelCtx s.regs (BitVec.ofNat 12 s.m.svc.copyAt)) }
        m := { s.m with svc := { s.m.svc with copyAt := s.m.svc.copyAt + 1, copy := decide (s.m.svc.copyAt < 4095) } } } := by
      change execLabelShadowCopy s = _
      simp only [execLabelShadowCopy, hgo, Bool.false_eq_true, if_false]
    refine ⟨_, hexec, fun i => ?_, rfl, rfl⟩
    have hlab : labelCtx s.regs (BitVec.ofNat 12 s.m.svc.copyAt) = tabGet LabelCtx.off s.regs.live s.m.svc.copyAt := by rw [labelCtx, hat]
    refine (tabGet_tabSet hst.shadow s.m.svc.copyAt i _).trans ?_
    split
    next e => rw [hlab, e]
    next => rfl
  case refine_8 =>
    have hpass := refillClasses_bucket (h := h) (m := s.m) ho (List.finRange 16)
    refine ⟨{ chanAt s.m h with bucket := grownBuckets s.regs (guaranteed s.regs) (chanAt s.m h).bucket }, ?_, rfl, refilled_bucket hw⟩
    have hcalm : calm ((List.finRange 16).foldl (fun m k => refillClass s.regs h k m) s.m) = true := by
      rw [hpass]
      exact hc
    refine (run_of_calm (f := fun g m => (List.finRange 16).foldl (fun m k => refillClass g h k m) m) hcalm).trans ?_
    rw [hpass]
    rfl
  case refine_9 =>
    have hexec : exec .bucketRefill s = .next { s with m := { s.m with svc := { s.m.svc with level := refillLabels s.regs s.m.svc.level } } } := by
      have hon : (if s.regs.svcReg = true then { s.m with svc := { s.m.svc with level := refillLabels s.regs s.m.svc.level } } else s.m)
          = { s.m with svc := { s.m.svc with level := refillLabels s.regs s.m.svc.level } } := if_pos hr
      refine (run_of_calm (f := fun g m => if g.svcReg = true then { m with svc := { m.svc with level := refillLabels g m.svc.level } } else m)
        (s := s) ?_).trans ?_
      · rw [hon]
        exact hc
      · rw [hon]
    refine ⟨_, hexec, rfl, fun l => ?_, rfl⟩
    have hlev := refillLabels_level hst.live hw l
    change tabGet 0 (refillLabels s.regs s.m.svc.level) l.toNat = _
    rw [hlev]
    dsimp only [levelOf, refilled]
    by_cases hon : (labelCtx s.regs l).en = true ∧ (labelCtx s.regs l).rate ≠ 0
    · by_cases hv : tabGet 0 s.m.svc.level l.toNat < ((labelCtx s.regs l).burst.toNat : Int)
      · rw [if_pos hon, if_pos hv, if_pos ⟨hon.1, hon.2, hv⟩]
      · rw [if_pos hon, if_neg hv, if_neg fun h => hv h.2.2]
    · rw [if_neg hon, if_neg fun h => hon ⟨h.1, h.2.1⟩]

end Sys2Proof.Machine
end

section
/-!
What the debug units do by themselves (O60).
-/

namespace Sys2Proof.Machine

/-! ## Ticks and pulses -/

theorem refTick_sub (m : Mach) (h : Half) : halfAt (refTick m) h = { halfAt m h with sub := 0 } := by
  have hne : (0 : Half) ≠ 1 := by decide
  simp only [refTick, bothHalves, List.foldl_cons, List.foldl_nil]
  rcases half_cases h with rfl | rfl
  · rw [halfAt_modHalf_ne _ _ hne, halfAt_modHalf]
    rfl
  · rw [halfAt_modHalf, halfAt_modHalf_ne _ _ hne.symm]
    rfl

/-- A global stop that takes effect now: whether or not one held before, it holds then and waits no more. -/
theorem stopNow_dbg (m : Mach) : (stopNow m).dbg.stopped = true ∧ (stopNow m).dbg.pend = false
    ∧ (stopNow m).dbg.latch = m.dbg.latch ∧ (stopNow m).dbg.syncs = m.dbg.syncs := by
  unfold stopNow
  split
  next h => exact ⟨h, rfl, rfl, rfl⟩
  next => exact ⟨rfl, rfl, rfl, rfl⟩

/-! ## Probes -/

section Probe

variable {p : BitVec 5} {s : State} {f : Mach → Mach}

/-- A probe of a joined package is taken by a half that takes beats. -/
theorem probeCommand_heard (hc : canHear s 2 p) : probeCommand p f s = .next (settled s (f (takeMsg 2 3 0 s.m))) := by
  obtain ⟨⟨hawake, htail⟩, hj⟩ := hc
  have hclk : clocked s.m 0 = true := clocked_of_awake hawake
  have htail' : (halfAt s.m 0).pw.tail = false := htail
  have hj' : partJoined (takeMsg 2 3 0 s.m) 2 p = true := (partJoined_takeMsg 2 s.m).trans hj
  simp only [probeCommand, hclk, run, htail', hj', Bool.not_true, Bool.false_eq_true, if_false, if_true, settled]

/-- Seven probes and fewer: the next one leaves. -/
theorem probeOver_more {x : Measure} {m : Mach} (h : x.sent < 8) :
    probeOver x m = sendProbe x.pkg { m with dbg := { m.dbg with meas := some { x with sent := x.sent + 1 } } } := by
  rw [probeOver, if_pos h]

/-- Eight probes without an answer: the entry is no longer valid. -/
theorem probeOver_none {x : Measure} {m : Mach} (h : x.sent = 8) (hb : x.best = none) (hq : m.dbg.measQ = []) :
    probeOver x m = { m with dbg := { m.dbg with
      meas := none, offs := tabMod Offset.none m.dbg.offs x.pkg.toNat fun o => { o with v := false } } } := by
  have h8 : ¬ x.sent < 8 := by omega
  simp only [probeOver, h8, hb, if_false, nextMeasure, hq]

theorem execProbeTimeout_last {x : Measure} (hx : s.m.dbg.meas = some x) (h : x.sent = 8) (hb : x.best = none) (hq : s.m.dbg.measQ = [])
    (hc : calm s.m = true) : exec .probeTimeout s = .next { s with m := { s.m with dbg := { s.m.dbg with
      meas := none, offs := tabMod Offset.none s.m.dbg.offs x.pkg.toNat fun o => { o with v := false } } } } := by
  change execProbeTimeout s = _
  unfold execProbeTimeout run
  dsimp only
  rw [hx]
  dsimp only
  rw [probeOver_none h hb hq]
  rw [settle_of_calm (by exact hc)]

end Probe

/-! ## Profiling -/

section Profile

variable {g : Regs} {h : Half} {m : Mach}

/-- A counter counts core cycles. -/
def countsCycles (g : Regs) (h : Half) (k : Nat) : Bool :=
  (profCfg g h k).evt == 0 && ((profCfg g h k).lmode == 0 && (profCfg g h k).omask == 0)

/-- What a core cycle leaves in the counters. -/
def cycleProf (g : Regs) (h : Half) (t : Tab (BitVec 64)) : Tab (BitVec 64) :=
  ((List.range 64).filter (countsCycles g h)).foldl (fun t k => tabMod 0 t k fun v => v + 1) t

theorem profile_cycle (hr : profRuns g m h = true) : profile g h 0x00 none 1 m = modHalf h (fun hs => { hs with prof := cycleProf g h hs.prof }) m := by
  have hgo : (!profRuns g m h || (1 : Nat) == 0) = false := by rw [hr]; rfl
  rw [profile, hgo, if_neg Bool.false_ne_true]
  rfl

theorem cycleProf_get {t : Tab (BitVec 64)} (hw : tabWf 0 t = true) (k : Fin 64) :
    tabGet 0 (cycleProf g h t) k.val = if countsCycles g h k.val then tabGet 0 t k.val + 1 else tabGet 0 t k.val := by
  have hn : (((List.range 64).filter (countsCycles g h)).map id).Nodup := by
    rw [List.map_id]
    exact List.nodup_range.filter _
  obtain ⟨hin, hout⟩ := tabGet_pass id (fun _ v => v + 1) ((List.range 64).filter (countsCycles g h)) hn hw
  split
  next hc => exact hin k.val (List.mem_filter.mpr ⟨List.mem_range.mpr k.isLt, hc⟩)
  next hc =>
    refine hout k.val fun hm => hc ?_
    rw [List.map_id] at hm
    exact (List.mem_filter.mp hm).2

/-- With no held request and no operation in the stages a cycle counts nothing else. -/
theorem countCycle_quiet (hr : profRuns g m h = true) (hp : ∀ p, heldOn (portAt m p) = []) (ha : stageOp (anvAt m h) = none) :
    countCycle g h m = modHalf h (fun hs => { hs with prof := cycleProf g h hs.prof }) m := by
  have hheld : ((portsOf h).flatMap fun p => heldOn (portAt (modHalf h (fun hs => { hs with prof := cycleProf g h hs.prof }) m) p)) = [] :=
    List.flatMap_eq_nil_iff.mpr fun p _ => hp p
  have hstage : stageOp (anvAt (modHalf h (fun hs => { hs with prof := cycleProf g h hs.prof }) m) h) = none := ha
  rw [countCycle, profile_cycle hr, countHeld, hheld, List.foldl_nil, countMac, hstage]

theorem execProfilingCycle_quiet {s : State} (hc : clocked s.m h = true) (hr : profRuns s.regs s.m h = true)
    (hp : ∀ p, heldOn (portAt s.m p) = []) (ha : stageOp (anvAt s.m h) = none) : exec (.profilingCycle h) s
      = .next { s with m := modHalf h (fun hs => nextCycle { hs with prof := cycleProf s.regs h hs.prof }) s.m } := by
  change execProfilingCycle h s = _
  rw [execProfilingCycle, if_pos hc, countCycle_quiet hr hp ha, modHalf_modHalf]

end Profile

/-! ## Dumps -/

/-- The only copy is over: its trigger disarms, and no other copy starts. -/
theorem closeJob_only {g : Regs} {j : DumpJob} {m : Mach} (hj : m.dbg.jobs = [j]) : closeJob g j m = modDump j.k (fun d => { d with
    armed := false, dn := true, code := if j.code = .done then 0 else j.code.bits, lines := BitVec.ofNat 17 j.copied })
      { m with dbg := { m.dbg with jobs := [] } } := by
  have hdrop : (modDump j.k (fun d => { d with
    armed := false, dn := true, code := if j.code == .done then 0 else j.code.bits, lines := BitVec.ofNat 17 j.copied }) m).dbg.jobs.drop 1 = [] := by
    change m.dbg.jobs.drop 1 = []
    rw [hj]
    rfl
  rw [closeJob, hdrop]
  simp only [beq_iff_eq]
  rfl

theorem execDumpCopyDone_only {s : State} {j : DumpJob} {c : Code} {own : Bool} (hj : s.m.dbg.jobs = [j]) (ho : dumpOver j = true)
    (hq : (seqAt s.m j.seq.1 j.seq.2).stop = some (.ended c own)) :
    exec .dumpCopyDone s = .next (settled s (endByEnd s.regs j.seq.1 j.seq.2 c own (closeJob s.regs j s.m))) := by
  have hover : (!dumpOver j) = false := by rw [ho]; rfl
  have hjobs : (closeJob s.regs j s.m).dbg.jobs = [] := by rw [closeJob_only hj]; rfl
  have hseq : (seqAt (closeJob s.regs j s.m) j.seq.1 j.seq.2).stop = some (.ended c own) := by
    rw [closeJob_only hj]
    exact hq
  change execDumpCopyDone s = _
  simp only [execDumpCopyDone, run, hj, hover, hjobs, hseq, List.any_nil, Bool.false_eq_true, if_false, settled]

/-- Settles O60: one lemma per command. -/
theorem debugUnitsGoOn : Obligations.DebugUnitsGoOn := by
  unfold Obligations.DebugUnitsGoOn
  intro s
  refine ⟨⟨_, rfl, rfl, rfl, refTick_sub s.m⟩, fun ha hp => ?_, fun ha hp => ?_, fun ha => ?_, fun p t1 hc => ?_,
    fun p t2 dt x hc hx hp hs => ?_, fun x hx h8 hb hq hw hc => ?_, fun h hact htrg hleft hqueue => ?_, fun h k hc hr hw hp ha => ?_,
    fun j c own hj ho hq => ?_⟩
  case refine_1 =>
    change execSyncPulse s = _
    rw [execSyncPulse, if_pos ha]
    simp only [takePulse, hp, Bool.false_eq_true, if_false]
  case refine_2 =>
    have hstop : takePulse s.regs s.m = stopNow { s.m with dbg := { s.m.dbg with
        latch := s.m.dbg.ts, syncs := s.m.dbg.syncs + 1, lastP := some s.m.dbg.tick
        ts := if s.m.dbg.tsArm then s.regs.tsNext else s.m.dbg.ts, tsArm := false } } := by
      unfold takePulse
      exact if_pos hp
    have hexec : exec .syncPulse s = .next { s with m := takePulse s.regs s.m } := by
      change execSyncPulse s = _
      rw [execSyncPulse, if_pos ha]
    refine ⟨_, hexec, ?_⟩
    obtain ⟨hs, hpend, hlatch, hsyncs⟩ := stopNow_dbg { s.m with dbg := { s.m.dbg with
        latch := s.m.dbg.ts, syncs := s.m.dbg.syncs + 1, lastP := some s.m.dbg.tick
        ts := if s.m.dbg.tsArm then s.regs.tsNext else s.m.dbg.ts, tsArm := false } }
    dsimp only
    rw [hstop]
    exact ⟨hs, hpend, hlatch, hsyncs⟩
  case refine_3 =>
    change execSyncPulse s = _
    rw [execSyncPulse, if_neg (by rw [ha]; exact Bool.false_ne_true)]
  case refine_4 =>
    change execTsProbeRequest p t1 s = _
    rw [execTsProbeRequest, probeCommand_heard hc]
    rfl
  case refine_5 =>
    have hx' : (takeMsg 2 3 0 s.m).dbg.meas = some x := hx
    have hpkg : (x.pkg != p) = false := bne_eq_false_iff_eq.mpr hp
    change execTsProbeReply p t2 dt s = _
    rw [execTsProbeReply, probeCommand_heard hc, hx']
    simp only [hpkg, Bool.false_eq_true, if_false]
    rw [probeOver_more (by exact hs)]
    subst hp
    rfl
  case refine_6 =>
    refine ⟨_, execProbeTimeout_last hx h8 hb hq hc, rfl, ?_, fun i hi => ?_⟩
    · exact (tabGet_tabMod hw x.pkg.toNat x.pkg.toNat fun o : Offset => { o with v := false }).trans (if_pos rfl)
    · exact (tabGet_tabMod hw x.pkg.toNat i fun o : Offset => { o with v := false }).trans (if_neg hi)
  case refine_7 =>
    refine congrArg (fun m => Host.Outcome.next { s with m := m }) (modHalf_congr ?_)
    dsimp only
    rw [endTrace, if_pos (by simp [hact, htrg, hleft, hqueue])]
  case refine_8 =>
    have hget := cycleProf_get (g := s.regs) (h := h) hw k
    refine ⟨_, execProfilingCycle_quiet hc hr hp ha, ?_, fun he hl ho => ?_, fun he => ?_⟩
    · simp only [halfAt_modHalf]
      rfl
    · simp only [halfAt_modHalf]
      change tabGet 0 (cycleProf s.regs h (halfAt s.m h).prof) k.val = _
      rw [hget, if_pos (by simp [countsCycles, he, hl, ho])]
    · simp only [halfAt_modHalf]
      change tabGet 0 (cycleProf s.regs h (halfAt s.m h).prof) k.val = _
      have hno : countsCycles s.regs h k.val = false := by rw [countsCycles, beq_eq_false_iff_ne.mpr he, Bool.false_and]
      rw [hget, hno, if_neg Bool.false_ne_true]
  case refine_9 => rw [execDumpCopyDone_only hj ho hq, closeJob_only hj]

end Sys2Proof.Machine
end

section
/-!
The directory at the home of a line (chapter 06, R195 to R197, Tables 6.3 to 6.5): the holders that an entry names, the entry that a
request leaves, and the entry of every line after the write of one. Settles O30.
-/

namespace Sys2Proof.Machine

/-! ## The bit of a holder -/

theorem agentBit_getLsbD (i j : BitVec 6) : (agentBit i).getLsbD j.toNat = decide (j = i) := by
  have hi := i.isLt
  have hj := j.isLt
  simp only [agentBit, BitVec.getLsbD_shiftLeft, BitVec.getLsbD_one, BitVec.toNat_eq, hj, decide_true, Bool.true_and]
  by_cases h : j.toNat = i.toNat
  · simp [h]
  · by_cases hlt : j.toNat < i.toNat <;> simp [h, hlt]
    omega

theorem chipBit_getLsbD (i j : BitVec 5) : (chipBit i).getLsbD j.toNat = decide (j = i) := by
  have hi := i.isLt
  have hj := j.isLt
  simp only [chipBit, BitVec.getLsbD_shiftLeft, BitVec.getLsbD_one, BitVec.toNat_eq, hj, decide_true, Bool.true_and]
  by_cases h : j.toNat = i.toNat
  · simp [h]
  · by_cases hlt : j.toNat < i.toNat <;> simp [h, hlt]
    omega

theorem ne_zero_of_getLsbD {n : Nat} {a : BitVec n} {i : Nat} (h : a.getLsbD i = true) : a ≠ 0 := by
  rintro rfl
  simp at h

theorem agentBit_ne_zero (i : BitVec 6) : agentBit i ≠ 0 :=
  ne_zero_of_getLsbD (i := i.toNat) (by simp [agentBit_getLsbD])

theorem chipBit_ne_zero (i : BitVec 5) : chipBit i ≠ 0 :=
  ne_zero_of_getLsbD (i := i.toNat) (by simp [chipBit_getLsbD])

/-- A union that has one of the bits is not empty. -/
theorem or_agentBit_ne_zero (x : BitVec 64) (i : BitVec 6) : x ||| agentBit i ≠ 0 :=
  ne_zero_of_getLsbD (i := i.toNat) (by simp [agentBit_getLsbD])

theorem or_chipBit_ne_zero (x : BitVec 32) (i : BitVec 5) : x ||| chipBit i ≠ 0 :=
  ne_zero_of_getLsbD (i := i.toNat) (by simp [chipBit_getLsbD])

/-- The bits of an entry meet the bit of an agent where it holds the line. -/
theorem and_agentBit_eq_zero (x : BitVec 64) (i : BitVec 6) : x &&& agentBit i = 0 ↔ x.getLsbD i.toNat = false := by
  constructor
  · intro h
    have hb := congrArg (fun y => y.getLsbD i.toNat) h
    simpa [agentBit_getLsbD] using hb
  · intro h
    refine BitVec.eq_of_getLsbD_eq fun k hk => ?_
    have hb := agentBit_getLsbD i (BitVec.ofNat 6 k)
    rw [BitVec.toNat_ofNat, Nat.mod_eq_of_lt hk] at hb
    rw [BitVec.getLsbD_and, hb]
    by_cases hki : BitVec.ofNat 6 k = i
    · rw [← hki, BitVec.toNat_ofNat, Nat.mod_eq_of_lt hk] at h
      simp [h]
    · simp [hki]

/-- Taking away an agent that is not there changes nothing. -/
theorem and_not_agentBit (x : BitVec 64) (i : BitVec 6) (h : x.getLsbD i.toNat = false) : x &&& ~~~agentBit i = x := by
  have h0 := (and_agentBit_eq_zero x i).mpr h
  refine BitVec.eq_of_getLsbD_eq fun k hk => ?_
  have hb := congrArg (fun y => y.getLsbD k) h0
  simp only [BitVec.getLsbD_and] at hb
  simp only [BitVec.getLsbD_and, BitVec.getLsbD_not, hk, decide_true, Bool.true_and]
  cases hx : x.getLsbD k <;> simp_all

/-! ## The holders of an entry -/

theorem mem_holdersOf (e : DirEntry) (x : Holder) : x ∈ holdersOf e ↔ holds e x = true := by
  cases x with
  | agent i =>
    simp only [holdersOf, List.mem_append, List.mem_map, List.mem_filter, List.mem_range, holds, reduceCtorEq, and_false, exists_false, or_false,
      Holder.agent.injEq]
    constructor
    · rintro ⟨k, ⟨hk, hb⟩, rfl⟩
      rwa [BitVec.toNat_ofNat, Nat.mod_eq_of_lt hk]
    · exact fun h => ⟨i.toNat, ⟨i.isLt, h⟩, by rw [BitVec.ofNat_toNat, BitVec.setWidth_eq]⟩
  | chip c =>
    simp only [holdersOf, List.mem_append, List.mem_map, List.mem_filter, List.mem_range, holds, reduceCtorEq, and_false, exists_false, false_or,
      Holder.chip.injEq]
    constructor
    · rintro ⟨k, ⟨hk, hb⟩, rfl⟩
      rwa [BitVec.toNat_ofNat, Nat.mod_eq_of_lt hk]
    · exact fun h => ⟨c.toNat, ⟨c.isLt, h⟩, by rw [BitVec.ofNat_toNat, BitVec.setWidth_eq]⟩

theorem ofNat_inj_of_lt {n i j : Nat} (hi : i < 2 ^ n) (hj : j < 2 ^ n) (h : BitVec.ofNat n i = BitVec.ofNat n j) : i = j := by
  have := congrArg BitVec.toNat h
  rwa [BitVec.toNat_ofNat, BitVec.toNat_ofNat, Nat.mod_eq_of_lt hi, Nat.mod_eq_of_lt hj] at this

theorem holdersOf_nodup (e : DirEntry) : (holdersOf e).Nodup := by
  refine List.nodup_append.mpr ⟨?_, ?_, ?_⟩
  · refine (List.nodup_range.filter _).map_on fun i hi j hj h => ?_
    simp only [List.mem_filter, List.mem_range] at hi hj
    exact ofNat_inj_of_lt (n := 6) hi.1 hj.1 (Holder.agent.inj h)
  · refine (List.nodup_range.filter _).map_on fun i hi j hj h => ?_
    simp only [List.mem_filter, List.mem_range] at hi hj
    exact ofNat_inj_of_lt (n := 5) hi.1 hj.1 (Holder.chip.inj h)
  · intro x hx y hy h
    obtain ⟨i, -, rfl⟩ := List.mem_map.mp hx
    obtain ⟨j, -, rfl⟩ := List.mem_map.mp hy
    exact Holder.noConfusion h

theorem others_nodup (e : DirEntry) (r : Req) : (others e r).Nodup := (holdersOf_nodup e).filter _

theorem mem_others_agent {e : DirEntry} {r : Req} {a : BitVec 6} (ha : r.agent = some a) (hq : reqChip r = none) (x : Holder) :
    x ∈ others e r ↔ holds e x = true ∧ x ≠ .agent a := by
  rw [others, List.mem_filter, mem_holdersOf]
  cases x <;> simp [ha, hq, @eq_comm _ a]

theorem mem_others_chip {e : DirEntry} {r : Req} {q : BitVec 5} (ha : r.agent = none) (hq : reqChip r = some q) (x : Holder) :
    x ∈ others e r ↔ holds e x = true ∧ x ≠ .chip q := by
  rw [others, List.mem_filter, mem_holdersOf]
  cases x <;> simp [ha, hq, @eq_comm _ q]

theorem others_of_unit {e : DirEntry} {r : Req} (ha : r.agent = none) (hq : reqChip r = none) : others e r = holdersOf e := by
  rw [others, List.filter_eq_self]
  intro x _
  cases x <;> simp [ha, hq]

theorem others_eq_nil {e : DirEntry} {r : Req} {a : BitVec 6} (ha : r.agent = some a) (hq : reqChip r = none)
    (h : ∀ x, holds e x = true → x = .agent a) : others e r = [] := by
  refine List.eq_nil_iff_forall_not_mem.mpr fun x hx => ?_
  obtain ⟨hh, hn⟩ := (mem_others_agent ha hq x).mp hx
  exact hn (h x hh)

theorem isEmpty_others {e : DirEntry} {r : Req} {a : BitVec 6} (ha : r.agent = some a) (hq : reqChip r = none) :
    (!(others e r).isEmpty) = true ↔ ∃ x, holds e x = true ∧ x ≠ .agent a := by
  simp only [Bool.not_eq_true', List.isEmpty_eq_false_iff_exists_mem, mem_others_agent ha hq]

namespace HolderRules

variable {e : DirEntry} (hr : HolderRules e)

include hr

theorem holds_unique (h : e.state = stU) (x : Holder) : holds e x = true ↔ x = .agent e.owner := by
  obtain ⟨ha, hc⟩ := hr.unique h
  cases x <;> simp [holds, ha, hc, agentBit_getLsbD]

theorem holds_away (h : e.state = stX) (x : Holder) : holds e x = true ↔ x = .chip e.ochip := by
  obtain ⟨ha, hc⟩ := hr.away h
  cases x <;> simp [holds, ha, hc, chipBit_getLsbD]

theorem holds_idle (h : e.state = 0) (x : Holder) : holds e x = false := by
  obtain ⟨ha, hc⟩ := hr.idle h
  cases x <;> simp [holds, ha, hc]

/-- The four states. -/
theorem states : e.state = 0 ∨ e.state = stS ∨ e.state = stU ∨ e.state = stX := by
  have hall : ∀ x : BitVec 3, x.toNat ≤ 3 → x = 0 ∨ x = stS ∨ x = stU ∨ x = stX := by decide
  exact hall _ hr.legal

theorem not_idle (h : e.state ≠ 0) : e.agents ≠ 0 ∨ e.chips ≠ 0 := by
  rcases hr.states with h0 | hs | hu | hx
  · exact absurd h0 h
  · exact hr.shared hs
  · exact .inl ((hr.unique hu).1 ▸ agentBit_ne_zero _)
  · exact .inr ((hr.away hx).2 ▸ chipBit_ne_zero _)

end HolderRules

/-! ## Entries that obey R197 -/

/-- An entry with a holder and a state keeps its state. -/
theorem settleState_of_held {e : DirEntry} (hs : e.state ≠ 0) (hh : e.agents ≠ 0 ∨ e.chips ≠ 0) : settleState e = e := by
  have h0 : (e.agents == 0 && e.chips == 0) = false := by
    rcases hh with h | h
    · rw [beq_eq_false_iff_ne.mpr h, Bool.false_and]
    · rw [beq_eq_false_iff_ne.mpr h, Bool.and_false]
  have h1 : (e.state == 0) = false := beq_eq_false_iff_ne.mpr hs
  simp only [settleState, h0, h1, Bool.false_eq_true, if_false]

theorem settleState_of_none {e : DirEntry} (ha : e.agents = 0) (hc : e.chips = 0) :
    settleState e = { e with state := 0, owner := 0, ochip := 0 } := by
  simp [settleState, ha, hc]

theorem HolderRules.settled {e : DirEntry} (hr : HolderRules e) : settleState e = e := by
  by_cases h : e.state = 0
  · obtain ⟨ha, hc⟩ := hr.idle h
    have ho := hr.owner (by rw [h]; decide)
    have hoc := hr.ochip (by rw [h]; decide)
    rw [settleState_of_none ha hc, ← h, ← ho, ← hoc]
  · exact settleState_of_held h (hr.not_idle h)

section Rules

variable {e : DirEntry}

theorem rules_idle (hs : e.state = 0) (ha : e.agents = 0) (hc : e.chips = 0) (ho : e.owner = 0) (hoc : e.ochip = 0) : HolderRules e :=
  ⟨fun _ => ⟨ha, hc⟩, fun h => absurd (hs.symm.trans h) (by decide), fun h => absurd (hs.symm.trans h) (by decide),
    fun h => absurd (hs.symm.trans h) (by decide), by rw [hs]; decide, fun _ => ho, fun _ => hoc⟩

theorem rules_shared (hs : e.state = stS) (hh : e.agents ≠ 0 ∨ e.chips ≠ 0) (ho : e.owner = 0) (hoc : e.ochip = 0) : HolderRules e :=
  ⟨fun h => absurd (hs.symm.trans h) (by decide), fun _ => hh, fun h => absurd (hs.symm.trans h) (by decide),
    fun h => absurd (hs.symm.trans h) (by decide), by rw [hs]; decide, fun _ => ho, fun _ => hoc⟩

theorem rules_unique (hs : e.state = stU) (ha : e.agents = agentBit e.owner) (hc : e.chips = 0) (hoc : e.ochip = 0) : HolderRules e :=
  ⟨fun h => absurd (hs.symm.trans h) (by decide), fun h => absurd (hs.symm.trans h) (by decide), fun _ => ⟨ha, hc⟩,
    fun h => absurd (hs.symm.trans h) (by decide), by rw [hs]; decide, fun h => absurd hs h, fun _ => hoc⟩

theorem rules_away (hs : e.state = stX) (ha : e.agents = 0) (hc : e.chips = chipBit e.ochip) (ho : e.owner = 0) : HolderRules e :=
  ⟨fun h => absurd (hs.symm.trans h) (by decide), fun h => absurd (hs.symm.trans h) (by decide),
    fun h => absurd (hs.symm.trans h) (by decide), fun _ => ⟨ha, hc⟩, by rw [hs]; decide, fun _ => ho, fun h => absurd hs h⟩

/-- Settled, an entry in state S without an owner obeys the rules. -/
theorem rules_settled (hs : e.state = stS) (ho : e.owner = 0) (hoc : e.ochip = 0) : HolderRules (settleState e) := by
  by_cases hh : e.agents ≠ 0 ∨ e.chips ≠ 0
  · rw [settleState_of_held (by rw [hs]; decide) hh]
    exact rules_shared hs hh ho hoc
  · push Not at hh
    rw [settleState_of_none hh.1 hh.2]
    exact rules_idle rfl hh.1 hh.2 rfl rfl

theorem rules_noHolder : HolderRules (noHolder e) := rules_idle rfl rfl rfl rfl rfl

end Rules

/-! ## The next entry obeys the rules -/

section Next

variable {e : DirEntry} (hr : HolderRules e)

include hr

/-- An agent that leaves takes nothing else with it. -/
theorem rules_dropAgent (i : BitVec 6) : HolderRules (dropHolder (.agent i) e) := by
  rcases hr.states with h | h | h | h
  · obtain ⟨ha, -⟩ := hr.idle h
    have hu : (e.state == stU) = false := by rw [h]; decide
    have hag : e.agents &&& ~~~agentBit i = e.agents := by simp [ha]
    simp only [dropHolder, hu, Bool.false_and, Bool.false_eq_true, if_false, hag]
    exact hr.settled.symm ▸ hr
  · have hu : (e.state == stU) = false := by rw [h]; decide
    simp only [dropHolder, hu, Bool.false_and, Bool.false_eq_true, if_false]
    exact rules_settled h (hr.owner (by rw [h]; decide)) (hr.ochip (by rw [h]; decide))
  · obtain ⟨ha, -⟩ := hr.unique h
    have hoc := hr.ochip (by rw [h]; decide)
    by_cases ho : e.owner = i
    · simp only [dropHolder, h, ho, beq_self_eq_true, Bool.and_self, if_true]
      exact rules_settled rfl rfl hoc
    · have hne : (e.owner == i) = false := beq_eq_false_iff_ne.mpr ho
      have hag : e.agents &&& ~~~agentBit i = e.agents := by
        refine and_not_agentBit _ _ ?_
        rw [ha, agentBit_getLsbD, decide_eq_false_iff_not]
        exact Ne.symm ho
      simp only [dropHolder, hne, Bool.and_false, Bool.false_eq_true, if_false, hag]
      exact hr.settled.symm ▸ hr
  · obtain ⟨ha, -⟩ := hr.away h
    have hu : (e.state == stU) = false := by rw [h]; decide
    have hag : e.agents &&& ~~~agentBit i = e.agents := by simp [ha]
    simp only [dropHolder, hu, Bool.false_and, Bool.false_eq_true, if_false, hag]
    exact hr.settled.symm ▸ hr

/-- A holder that was not there leaves the entry as it is. -/
theorem dropHolder_of_not_held {i : BitVec 6} (h : holds e (.agent i) = false) : dropHolder (.agent i) e = e := by
  have hag : e.agents &&& ~~~agentBit i = e.agents := and_not_agentBit _ _ h
  have hown : (e.state == stU && e.owner == i) = false := by
    rw [Bool.and_eq_false_iff, beq_eq_false_iff_ne, beq_eq_false_iff_ne, ← not_and_or]
    rintro ⟨hs, ho⟩
    exact Bool.noConfusion (h.symm.trans ((hr.holds_unique hs _).mpr (by rw [ho])))
  simp only [dropHolder, hown, Bool.false_eq_true, if_false, hag]
  exact hr.settled

end Next

/-! ## The columns of Tables 6.3 to 6.5 -/

section Columns

variable {e : DirEntry} {r : Req} (had : Bool)

/-- A requester that is already the owner. -/
theorem nextDir_rdS_own (ho : r.op = .rdS) (hs : e.state = stU) (ha : r.agent = some e.owner) : nextDir e r had = e := by
  simp only [nextDir, ho, hs, ha, beq_self_eq_true, Bool.and_self, if_true]

theorem nextDir_rdS_unique (ho : r.op = .rdS) (hs : e.state = stU) (ha : r.agent ≠ some e.owner) :
    nextDir e r had = settleState { e with
      agents := (if had then agentBit e.owner else 0) ||| (r.agent.map agentBit).getD 0, owner := 0, state := stS } := by
  have hn : (r.agent == some e.owner) = false := beq_eq_false_iff_ne.mpr ha
  simp only [nextDir, ho, hs, hn, beq_self_eq_true, Bool.and_false, Bool.false_eq_true, if_false, if_true]
  cases r.agent <;> rfl

theorem nextDir_rdS_away (ho : r.op = .rdS) (hs : e.state = stX) :
    nextDir e r had = settleState { e with agents := (r.agent.map agentBit).getD 0, chips := chipBit e.ochip, ochip := 0, state := stS } := by
  have hn : (stX == stU) = false := by decide
  simp only [nextDir, ho, hs, hn, beq_self_eq_true, Bool.false_and, Bool.false_eq_true, if_false, if_true]
  cases r.agent <;> rfl

theorem nextDir_rdS_shared (ho : r.op = .rdS) (hu : e.state ≠ stU) (hx : e.state ≠ stX) :
    nextDir e r had = settleState { e with agents := e.agents ||| (r.agent.map agentBit).getD 0, state := stS } := by
  have h1 : (e.state == stU) = false := beq_eq_false_iff_ne.mpr hu
  have h2 : (e.state == stX) = false := beq_eq_false_iff_ne.mpr hx
  simp only [nextDir, ho, h1, h2, Bool.false_and, Bool.false_eq_true, if_false]
  cases r.agent <;> rfl

theorem nextDir_unique {a : BitVec 6} (ho : r.op = .rdU ∨ r.op = .upg) (ha : r.agent = some a) :
    nextDir e r had = { e with agents := agentBit a, chips := 0, ochip := 0, owner := a, state := stU } := by
  rcases ho with h | h <;> simp only [nextDir, h, ha]

theorem nextDir_wr_own (ho : r.op = .wr) (hs : e.state = stU) (ha : r.agent = some e.owner) : nextDir e r had = e := by
  simp only [nextDir, ho, hs, ha, beq_self_eq_true, Bool.and_self, if_true]

theorem nextDir_wr_shared {a : BitVec 6} (ho : r.op = .wr) (hs : e.state = stS) (ha : r.agent = some a) (hh : holds e (.agent a) = true) :
    nextDir e r had = { e with agents := agentBit a, chips := 0 } := by
  have h1 : (stS == stU) = false := by decide
  have h2 : (e.agents &&& agentBit a != 0) = true := by
    rw [bne_iff_ne, ne_eq, and_agentBit_eq_zero, Bool.not_eq_false]
    exact hh
  simp only [nextDir, ho, hs, ha, h1, h2, beq_self_eq_true, Bool.false_and, Bool.false_eq_true, Bool.and_self, if_false, if_true]

/-- A write of a requester that does not hold the line leaves no holder. -/
theorem nextDir_wr_other (hr : HolderRules e) (ho : r.op = .wr) (hn : ∀ a, r.agent = some a → holds e (.agent a) = false) :
    nextDir e r had = noHolder e := by
  have h1 : (e.state == stU && r.agent == some e.owner) = false := by
    rw [Bool.and_eq_false_iff, beq_eq_false_iff_ne, beq_eq_false_iff_ne, ← not_and_or]
    rintro ⟨hs, ha⟩
    exact Bool.noConfusion ((hn _ ha).symm.trans ((hr.holds_unique hs _).mpr rfl))
  cases ha : r.agent with
  | none =>
    rw [ha] at h1
    simp [nextDir, ho, ha]
  | some a =>
    rw [ha] at h1
    have h2 : (e.agents &&& agentBit a != 0) = false := by
      rw [bne_eq_false_iff_eq, and_agentBit_eq_zero]
      exact hn a ha
    simp only [nextDir, ho, ha, h1, h2, Bool.and_false, Bool.false_eq_true, if_false]

theorem nextDir_clear (ho : r.op = .addl ∨ r.op = .atomR ∨ r.op = .atomN ∨ r.op = .place ∨ r.op = .inv ∨ r.op = .clnInv ∨ r.op = .zero) :
    nextDir e r had = noHolder e ∧ snoopsOf e r = (.inv, holdersOf e) := by
  rcases ho with h | h | h | h | h | h | h <;> exact ⟨by simp only [nextDir, h], by simp only [snoopsOf, h]⟩

theorem nextDir_look_away (ho : r.op = .rdNc ∨ r.op = .pref ∨ r.op = .cln) (hs : e.state = stX) :
    nextDir e r had = { e with chips := chipBit e.ochip, ochip := 0, state := stS } ∧ snoopsOf e r = (.down, holdersOf e) := by
  rcases ho with h | h | h <;> exact ⟨by simp only [nextDir, h, hs, beq_self_eq_true, if_true], by simp only [snoopsOf, h, hs, beq_self_eq_true, if_true]⟩

theorem nextDir_look (ho : r.op = .rdNc ∨ r.op = .pref ∨ r.op = .cln) (hs : e.state ≠ stX) :
    nextDir e r had = e ∧ snoopsOf e r = (.down, []) := by
  have hx : (e.state == stX) = false := beq_eq_false_iff_ne.mpr hs
  rcases ho with h | h | h <;>
    exact ⟨by simp only [nextDir, h, hx, Bool.false_eq_true, if_false], by simp only [snoopsOf, h, hx, Bool.false_eq_true, if_false]⟩

/-! ### Requests of packages -/

theorem nextDir_xShared {q : BitVec 5} (ho : r.op = .xShared) (hq : reqChip r = some q) (hu : e.state ≠ stU) (hx : e.state ≠ stX) :
    nextDir e r had = { e with chips := e.chips ||| chipBit q, state := stS } ∧ snoopsOf e r = (.down, []) := by
  have h1 : (e.state == stU) = false := beq_eq_false_iff_ne.mpr hu
  have h2 : (e.state == stX) = false := beq_eq_false_iff_ne.mpr hx
  exact ⟨by simp only [nextDir, ho, hq, h1, h2, Bool.false_eq_true, if_false],
    by simp only [snoopsOf, ho, h1, h2, Bool.or_self, Bool.false_eq_true, if_false]⟩

theorem nextDir_xShared_unique {q : BitVec 5} (ho : r.op = .xShared) (hq : reqChip r = some q) (hs : e.state = stU) :
    nextDir e r had = { e with agents := if had then e.agents else 0, owner := 0, chips := chipBit q, state := stS }
      ∧ snoopsOf e r = (.down, holdersOf e) :=
  ⟨by simp only [nextDir, ho, hq, hs, beq_self_eq_true, if_true], by simp only [snoopsOf, ho, hs, beq_self_eq_true, Bool.true_or, if_true]⟩

theorem nextDir_xShared_away {q : BitVec 5} (ho : r.op = .xShared) (hq : reqChip r = some q) (hs : e.state = stX) :
    nextDir e r had = { e with chips := chipBit e.ochip ||| chipBit q, ochip := 0, state := stS } ∧ snoopsOf e r = (.down, holdersOf e) := by
  have h1 : (stX == stU) = false := by decide
  exact ⟨by simp only [nextDir, ho, hq, hs, h1, beq_self_eq_true, Bool.false_eq_true, if_false, if_true],
    by simp only [snoopsOf, ho, hs, beq_self_eq_true, Bool.or_true, if_true]⟩

theorem nextDir_xUnique {q : BitVec 5} (ho : r.op = .xUnique ∨ r.op = .xUpgrade) (hq : reqChip r = some q) :
    nextDir e r had = { e with agents := 0, owner := 0, chips := chipBit q, ochip := q, state := stX } := by
  rcases ho with h | h <;> simp only [nextDir, h, hq]

theorem nextDir_xUnique_of_none (ho : r.op = .xUnique ∨ r.op = .xUpgrade) (hq : reqChip r = none) : nextDir e r had = e := by
  rcases ho with h | h <;> simp only [nextDir, h, hq]

theorem snoopsOf_xUnique (ho : r.op = .xUnique ∨ r.op = .xUpgrade) :
    snoopsOf e r = (.inv, if e.state = stX then holdersOf e else others e r) := by
  rcases ho with h | h <;> simp only [snoopsOf, h, beq_iff_eq]

theorem sharedOf_xUpgrade {q : BitVec 5} (ho : r.op = .xUpgrade) (hq : reqChip r = some q) :
    sharedOf e r had = true ↔ e.state = stS ∧ holds e (.chip q) = true := by
  simp only [sharedOf, ho, hq, Bool.and_eq_true, beq_iff_eq]

theorem sharedOf_rdS (ho : r.op = .rdS) : sharedOf e r had = !(others (nextDir e r had) r).isEmpty := by
  simp only [sharedOf, ho]

theorem snoopsOf_rdS (ho : r.op = .rdS) : snoopsOf e r = (.down, if e.state = stU ∨ e.state = stX then others e r else []) := by
  simp only [snoopsOf, ho, Bool.or_eq_true, beq_iff_eq]

theorem snoopsOf_inv (ho : r.op = .rdU ∨ r.op = .upg ∨ r.op = .wr) : snoopsOf e r = (.inv, others e r) := by
  rcases ho with h | h | h <;> simp only [snoopsOf, h]

theorem snoopsOf_evict (ho : r.op = .evict) : snoopsOf e r = (.inv, []) := by simp only [snoopsOf, ho]

theorem nextDir_evict {a : BitVec 6} (ho : r.op = .evict) (ha : r.agent = some a) : nextDir e r had = dropHolder (.agent a) e := by
  simp only [nextDir, ho, ha]

theorem holds_dropAgent (a : BitVec 6) (x : Holder) :
    holds (dropHolder (.agent a) e) x = true ↔ holds e x = true ∧ x ≠ .agent a := by
  have hh : (dropHolder (.agent a) e).agents = e.agents &&& ~~~agentBit a ∧ (dropHolder (.agent a) e).chips = e.chips := by
    unfold dropHolder
    obtain ⟨h1, h2⟩ := settleState_holders (e := _)
    dsimp only
    rw [h1, h2]
    split_ifs <;> exact ⟨rfl, rfl⟩
  cases x with
  | agent i =>
    have hi := i.isLt
    simp only [holds, hh.1, BitVec.getLsbD_and, BitVec.getLsbD_not, agentBit_getLsbD]
    simp [hi]
  | chip c => simp [holds, hh.2]

end Columns

section Next

variable {e : DirEntry} (hr : HolderRules e) {r : Req} (had : Bool)

include hr

theorem rules_rdS (ho : r.op = .rdS) : HolderRules (nextDir e r had) := by
  by_cases hu : e.state = stU
  · have hoc := hr.ochip (by rw [hu]; decide)
    by_cases ha : r.agent = some e.owner
    · rwa [nextDir_rdS_own had ho hu ha]
    · rw [nextDir_rdS_unique had ho hu ha]
      exact rules_settled rfl rfl hoc
  · by_cases hx : e.state = stX
    · rw [nextDir_rdS_away had ho hx]
      exact rules_settled rfl (hr.owner hu) rfl
    · rw [nextDir_rdS_shared had ho hu hx]
      exact rules_settled rfl (hr.owner hu) (hr.ochip hx)

omit hr in
theorem rules_rdU (ho : r.op = .rdU ∨ r.op = .upg) : HolderRules (nextDir e r had) := by
  cases ha : r.agent with
  | some a =>
    rw [nextDir_unique had ho ha]
    exact rules_unique rfl rfl rfl rfl
  | none =>
    have hn : nextDir e r had = noHolder e := by rcases ho with h | h <;> simp only [nextDir, h, ha]
    exact hn ▸ rules_noHolder

theorem rules_wr (ho : r.op = .wr) : HolderRules (nextDir e r had) := by
  by_cases hn : ∀ a, r.agent = some a → holds e (.agent a) = false
  · exact nextDir_wr_other had hr ho hn ▸ rules_noHolder
  push Not at hn
  obtain ⟨a, ha, hh⟩ := hn
  have hh : holds e (.agent a) = true := Bool.not_eq_false _ ▸ hh
  rcases hr.states with hs | hs | hs | hs
  · exact absurd hh (by rw [hr.holds_idle hs]; decide)
  · rw [nextDir_wr_shared had ho hs ha hh]
    exact rules_shared hs (.inl (agentBit_ne_zero a)) (hr.owner (by rw [hs]; decide)) (hr.ochip (by rw [hs]; decide))
  · have hown : a = e.owner := Holder.agent.inj ((hr.holds_unique hs _).mp hh)
    rwa [nextDir_wr_own had ho hs (by rw [ha, hown])]
  · exact Holder.noConfusion ((hr.holds_away hs _).mp hh)

theorem rules_look (ho : r.op = .rdNc ∨ r.op = .pref ∨ r.op = .cln ∨ r.op = .pin) : HolderRules (nextDir e r had) := by
  have hnext : nextDir e r had = if e.state = stX then { e with chips := chipBit e.ochip, ochip := 0, state := stS } else e := by
    rcases ho with h | h | h | h <;> simp only [nextDir, h, beq_iff_eq]
  rw [hnext]
  split
  next hs => exact rules_shared rfl (.inr (chipBit_ne_zero _)) (hr.owner (by rw [hs]; decide)) rfl
  next => exact hr

theorem rules_xShared (ho : r.op = .xShared) (hq : reqChip r ≠ none) : HolderRules (nextDir e r had) := by
  obtain ⟨q, hq⟩ := Option.ne_none_iff_exists'.mp hq
  by_cases hu : e.state = stU
  · rw [(nextDir_xShared_unique had ho hq hu).1]
    exact rules_shared rfl (.inr (chipBit_ne_zero q)) rfl (hr.ochip (by rw [hu]; decide))
  · by_cases hx : e.state = stX
    · rw [(nextDir_xShared_away had ho hq hx).1]
      exact rules_shared rfl (.inr (or_chipBit_ne_zero _ q)) (hr.owner hu) rfl
    · rw [(nextDir_xShared had ho hq hu hx).1]
      exact rules_shared rfl (.inr (or_chipBit_ne_zero _ q)) (hr.owner hu) (hr.ochip hx)

theorem rules_xUnique (ho : r.op = .xUnique ∨ r.op = .xUpgrade) : HolderRules (nextDir e r had) := by
  cases hq : reqChip r with
  | none => rwa [nextDir_xUnique_of_none had ho hq]
  | some q =>
    rw [nextDir_xUnique had ho hq]
    exact rules_away rfl rfl rfl rfl

/-- What a request leaves obeys R197 where the entry before did. -/
theorem nextDir_rules (hx : r.op = .xShared → reqChip r ≠ none) : HolderRules (nextDir e r had) := by
  cases ho : r.op
  case rdS => exact rules_rdS hr had ho
  case rdU => exact rules_rdU had (.inl ho)
  case upg => exact rules_rdU had (.inr ho)
  case wr => exact rules_wr hr had ho
  case addl | atomR | atomN | place | inv | clnInv | zero => exact (nextDir_clear (e := e) (r := r) had (by simp [ho])).1 ▸ rules_noHolder
  case xsnpInv =>
    simp only [nextDir, ho]
    exact rules_noHolder
  case rdNc | pref | cln | pin => exact rules_look hr had (by simp [ho])
  case evict =>
    cases ha : r.agent with
    | some a => exact nextDir_evict had ho ha ▸ rules_dropAgent hr a
    | none =>
      simp only [nextDir, ho, ha]
      exact hr
  case xShared => exact rules_xShared hr had ho (hx ho)
  case xUnique => exact rules_xUnique hr had (.inl ho)
  case xUpgrade => exact rules_xUnique hr had (.inr ho)
  all_goals
    simp only [nextDir, ho]
    exact hr

/-! ## Who is snooped, and who completes shared -/

theorem mem_others_unique {a : BitVec 6} (ha : r.agent = some a) (hq : reqChip r = none) (hs : e.state = stU) (hne : e.owner ≠ a) (x : Holder) :
    x ∈ others e r ↔ x = .agent e.owner := by
  rw [mem_others_agent ha hq, hr.holds_unique hs]
  exact and_iff_left_of_imp fun h => h ▸ fun h' => hne (Holder.agent.inj h')

theorem mem_others_away {a : BitVec 6} (ha : r.agent = some a) (hq : reqChip r = none) (hs : e.state = stX) (x : Holder) :
    x ∈ others e r ↔ x = .chip e.ochip := by
  rw [mem_others_agent ha hq, hr.holds_away hs]
  exact and_iff_left_of_imp fun h => h ▸ Holder.noConfusion

end Next

section Tables

variable {e : DirEntry} {r : Req} (had : Bool) (hr : HolderRules e) {a : BitVec 6} (ha : r.agent = some a) (hq : reqChip r = none)

include hr ha hq

omit hr in
/-- RD_S of an agent to a line that nobody holds unique. -/
theorem table_rdS_shared (ho : r.op = .rdS) (hs : e.state = 0 ∨ e.state = stS) : (snoopsOf e r).2 = []
    ∧ nextDir e r had = { e with agents := e.agents ||| agentBit a, state := stS }
    ∧ (sharedOf e r had = true ↔ ∃ x, holds e x = true ∧ x ≠ .agent a) := by
  have hu : e.state ≠ stU := by rcases hs with h | h <;> rw [h] <;> decide
  have hx : e.state ≠ stX := by rcases hs with h | h <;> rw [h] <;> decide
  have hn : nextDir e r had = { e with agents := e.agents ||| agentBit a, state := stS } := by
    rw [nextDir_rdS_shared had ho hu hx, ha]
    exact settleState_of_held (show stS ≠ 0 by decide) (.inl (or_agentBit_ne_zero _ a))
  refine ⟨by rw [snoopsOf_rdS ho, if_neg (not_or.mpr ⟨hu, hx⟩)], hn, ?_⟩
  rw [sharedOf_rdS had ho, isEmpty_others ha hq, hn]
  refine exists_congr fun x => and_congr_left fun hne => ?_
  cases x with
  | agent i =>
    have hi : i ≠ a := fun h => hne (h ▸ rfl)
    simp [holds, agentBit_getLsbD, hi]
  | chip c => rfl

theorem table_rdS_owner (ho : r.op = .rdS) (hs : e.state = stU) (hown : e.owner = a) :
    (snoopsOf e r).2 = [] ∧ nextDir e r had = e ∧ sharedOf e r had = false := by
  have hnil : others e r = [] := others_eq_nil ha hq fun x hx => hown ▸ (hr.holds_unique hs x).mp hx
  have hn := nextDir_rdS_own had ho hs (by rw [ha, hown])
  refine ⟨by rw [snoopsOf_rdS ho, if_pos (.inl hs), hnil], hn, ?_⟩
  rw [sharedOf_rdS had ho, hn, hnil]
  rfl

theorem table_rdS_unique (ho : r.op = .rdS) (hs : e.state = stU) (hown : e.owner ≠ a) :
    ((snoopsOf e r).1 = .down ∧ (snoopsOf e r).2.Nodup ∧ ∀ x, x ∈ (snoopsOf e r).2 ↔ x = .agent e.owner) ∧ sharedOf e r had = had
    ∧ nextDir e r had = { e with agents := (if had then agentBit e.owner else 0) ||| agentBit a, owner := 0, state := stS } := by
  have hn : nextDir e r had = { e with agents := (if had then agentBit e.owner else 0) ||| agentBit a, owner := 0, state := stS } := by
    rw [nextDir_rdS_unique had ho hs (by rw [ha, ne_eq, Option.some.injEq]; exact Ne.symm hown), ha]
    exact settleState_of_held (show stS ≠ 0 by decide) (.inl (or_agentBit_ne_zero _ a))
  rw [snoopsOf_rdS ho, if_pos (.inl hs)]
  refine ⟨⟨rfl, others_nodup e r, mem_others_unique hr ha hq hs hown⟩, ?_, hn⟩
  rw [Bool.eq_iff_iff, sharedOf_rdS had ho, isEmpty_others ha hq, hn]
  have hc := (hr.unique hs).2
  constructor
  · rintro ⟨x, hx, hne⟩
    cases x with
    | agent i =>
      have hi : i ≠ a := fun h => hne (h ▸ rfl)
      cases had
      · simp [holds, agentBit_getLsbD, hi] at hx
      · rfl
    | chip c => simp [holds, hc] at hx
  · rintro rfl
    exact ⟨.agent e.owner, by simp [holds, agentBit_getLsbD], fun h => hown (Holder.agent.inj h)⟩

theorem table_rdS_away (ho : r.op = .rdS) (hs : e.state = stX) :
    ((snoopsOf e r).1 = .down ∧ (snoopsOf e r).2.Nodup ∧ ∀ x, x ∈ (snoopsOf e r).2 ↔ x = .chip e.ochip) ∧ sharedOf e r had = true
    ∧ nextDir e r had = { e with agents := agentBit a, chips := chipBit e.ochip, ochip := 0, state := stS } := by
  have hn : nextDir e r had = { e with agents := agentBit a, chips := chipBit e.ochip, ochip := 0, state := stS } := by
    rw [nextDir_rdS_away had ho hs, ha]
    exact settleState_of_held (show stS ≠ 0 by decide) (.inl (agentBit_ne_zero a))
  rw [snoopsOf_rdS ho, if_pos (.inr hs)]
  refine ⟨⟨rfl, others_nodup e r, mem_others_away hr ha hq hs⟩, ?_, hn⟩
  rw [sharedOf_rdS had ho, isEmpty_others ha hq, hn]
  exact ⟨.chip e.ochip, by simp [holds, chipBit_getLsbD], Holder.noConfusion⟩

omit hq in
theorem table_evict (ho : r.op = .evict) : (snoopsOf e r).2 = []
    ∧ (∀ x, holds (nextDir e r had) x = true ↔ holds e x = true ∧ x ≠ .agent a) ∧ (¬ holds e (.agent a) = true → nextDir e r had = e) := by
  rw [nextDir_evict had ho ha, snoopsOf_evict ho]
  exact ⟨rfl, holds_dropAgent a, fun h => dropHolder_of_not_held hr (Bool.not_eq_true _ ▸ h)⟩

theorem table_wr (ho : r.op = .wr) :
    (e.state = stU → e.owner = a → (snoopsOf e r).2 = [] ∧ nextDir e r had = e)
    ∧ (e.state = stS → holds e (.agent a) = true →
      ((snoopsOf e r).1 = .inv ∧ (snoopsOf e r).2.Nodup ∧ ∀ x, x ∈ (snoopsOf e r).2 ↔ holds e x = true ∧ x ≠ .agent a)
      ∧ nextDir e r had = { e with agents := agentBit a, chips := 0 })
    ∧ (¬ holds e (.agent a) = true →
      ((snoopsOf e r).1 = .inv ∧ (snoopsOf e r).2.Nodup ∧ ∀ x, x ∈ (snoopsOf e r).2 ↔ holds e x = true) ∧ nextDir e r had = noHolder e) := by
  rw [snoopsOf_inv (.inr (.inr ho))]
  refine ⟨fun hs hown => ⟨?_, nextDir_wr_own had ho hs (by rw [ha, hown])⟩,
    fun hs hh => ⟨⟨rfl, others_nodup e r, mem_others_agent ha hq⟩, nextDir_wr_shared had ho hs ha hh⟩, fun hh => ⟨⟨rfl, others_nodup e r, fun x => ?_⟩, ?_⟩⟩
  case refine_1 => exact others_eq_nil ha hq fun x hx => hown ▸ (hr.holds_unique hs x).mp hx
  case refine_2 =>
    rw [mem_others_agent ha hq]
    exact and_iff_left_of_imp fun h hx => hh (hx ▸ h)
  case refine_3 =>
    refine nextDir_wr_other had hr ho fun b hb => ?_
    rw [ha, Option.some.injEq] at hb
    exact hb ▸ Bool.not_eq_true _ ▸ hh

end Tables

section Packages

variable {e : DirEntry} {r : Req} (had : Bool) (hr : HolderRules e) {q : BitVec 5} (ha : r.agent = none) (hq : reqChip r = some q)

include hr hq

theorem table_xShared (ho : r.op = .xShared) :
    (e.state = 0 ∨ e.state = stS → (snoopsOf e r).2 = [] ∧ nextDir e r had = { e with chips := e.chips ||| chipBit q, state := stS })
    ∧ (e.state = stU → ((snoopsOf e r).1 = .down ∧ (snoopsOf e r).2.Nodup ∧ ∀ x, x ∈ (snoopsOf e r).2 ↔ x = .agent e.owner)
      ∧ nextDir e r had = { e with agents := if had then e.agents else 0, owner := 0, chips := chipBit q, state := stS })
    ∧ (e.state = stX → ((snoopsOf e r).1 = .down ∧ (snoopsOf e r).2.Nodup ∧ ∀ x, x ∈ (snoopsOf e r).2 ↔ x = .chip e.ochip)
      ∧ nextDir e r had = { e with chips := chipBit e.ochip ||| chipBit q, ochip := 0, state := stS }) := by
  refine ⟨fun hs => ?_, fun hs => ?_, fun hs => ?_⟩
  · have hu : e.state ≠ stU := by rcases hs with h | h <;> rw [h] <;> decide
    have hx : e.state ≠ stX := by rcases hs with h | h <;> rw [h] <;> decide
    obtain ⟨hn, hsn⟩ := nextDir_xShared had ho hq hu hx
    exact ⟨by rw [hsn], hn⟩
  · obtain ⟨hn, hsn⟩ := nextDir_xShared_unique had ho hq hs
    rw [hsn]
    exact ⟨⟨rfl, holdersOf_nodup e, fun x => (mem_holdersOf e x).trans (hr.holds_unique hs x)⟩, hn⟩
  · obtain ⟨hn, hsn⟩ := nextDir_xShared_away had ho hq hs
    rw [hsn]
    exact ⟨⟨rfl, holdersOf_nodup e, fun x => (mem_holdersOf e x).trans (hr.holds_away hs x)⟩, hn⟩

include ha

theorem table_xUnique (ho : r.op = .xUnique ∨ r.op = .xUpgrade) :
    nextDir e r had = { e with agents := 0, owner := 0, chips := chipBit q, ochip := q, state := stX }
    ∧ (e.state = stX → (snoopsOf e r).1 = .inv ∧ (snoopsOf e r).2.Nodup ∧ ∀ x, x ∈ (snoopsOf e r).2 ↔ x = .chip e.ochip)
    ∧ (e.state ≠ stX → (snoopsOf e r).1 = .inv ∧ (snoopsOf e r).2.Nodup ∧ ∀ x, x ∈ (snoopsOf e r).2 ↔ holds e x = true ∧ x ≠ .chip q)
    ∧ (r.op = .xUpgrade → (sharedOf e r had = true ↔ e.state = stS ∧ holds e (.chip q) = true)) := by
  refine ⟨nextDir_xUnique had ho hq, fun hs => ?_, fun hs => ?_, fun h => sharedOf_xUpgrade had h hq⟩
  · rw [snoopsOf_xUnique ho, if_pos hs]
    exact ⟨rfl, holdersOf_nodup e, fun x => (mem_holdersOf e x).trans (hr.holds_away hs x)⟩
  · rw [snoopsOf_xUnique ho, if_neg hs]
    exact ⟨rfl, others_nodup e r, mem_others_chip ha hq⟩

end Packages

/-! ## The directory after a write -/

/-- R195: a line is known by its set and its tag. -/
theorem eq_of_dirSet_dirTag {x l : LineAddr} (hs : dirSet x = dirSet l) (ht : dirTag x = dirTag l) : x = l := by
  have hbit : ∀ i, 12 ≤ i → x.getLsbD i = l.getLsbD i := by
    intro i hi
    by_cases h44 : i < 44
    · have hb := congrArg (fun y => y.getLsbD (i - 12)) ht
      simp only [dirTag, BitVec.getLsbD_extractLsb'] at hb
      rw [Nat.add_sub_cancel' hi] at hb
      simpa [show i - 12 < 32 by omega] using hb
    · rw [BitVec.getLsbD_of_ge x i (by omega), BitVec.getLsbD_of_ge l i (by omega)]
  refine BitVec.eq_of_getLsbD_eq fun i hi => ?_
  by_cases hlow : 12 ≤ i
  · exact hbit i hlow
  have hb := congrArg (fun y => y.getLsbD i) (BitVec.eq_of_toNat_eq hs)
  simp only [BitVec.getLsbD_xor, BitVec.getLsbD_extractLsb', BitVec.getLsbD_setWidth] at hb
  rw [hbit (12 + i) (by omega), hbit (24 + i) (by omega), hbit (36 + i) (by omega)] at hb
  simpa [show i < 12 by omega] using hb

/-- A slot holds the entry of a line. -/
def slotOf (hs : HalfSt) (l : LineAddr) (w : Nat) : Prop := dirLive (dirSlot hs (dirSet l) w) = true ∧ (dirSlot hs (dirSet l) w).tag = dirTag l

section Way

variable {hs : HalfSt} {l : LineAddr} {w : Nat}

theorem dirWay_some (h : dirWay hs l = some w) : w < 16 ∧ slotOf hs l w := by
  have hw := List.mem_of_find?_eq_some h
  have hp := List.find?_some h
  simp only [Bool.and_eq_true, beq_iff_eq] at hp
  exact ⟨List.mem_range.mp hw, hp⟩

theorem dirWay_none (h : dirWay hs l = none) (hw : w < 16) : ¬ slotOf hs l w := by
  have hp := List.find?_eq_none.mp h w (List.mem_range.mpr hw)
  simpa only [slotOf, Bool.and_eq_true, beq_iff_eq] using hp

theorem dirFreeWay_some (h : dirFreeWay hs l = some w) : w < 16 ∧ dirLive (dirSlot hs (dirSet l) w) = false := by
  have hw := List.mem_of_find?_eq_some h
  have hp := List.find?_some h
  exact ⟨List.mem_range.mp hw, by simpa using hp⟩

/-- The entry of a line that one way of its set holds. -/
theorem dirOf_of_slot (hw : w < 16) (h : slotOf hs l w) (hu : ∀ v < 16, slotOf hs l v → v = w) : dirOf hs l = dirSlot hs (dirSet l) w := by
  unfold dirOf
  cases hd : dirWay hs l with
  | none => exact absurd h (dirWay_none hd hw)
  | some v =>
    obtain ⟨hv, hsl⟩ := dirWay_some hd
    rw [hu v hv hsl]

theorem dirOf_of_none (h : ∀ v < 16, ¬ slotOf hs l v) : dirOf hs l = DirEntry.free := by
  unfold dirOf
  cases hd : dirWay hs l with
  | none => rfl
  | some v =>
    obtain ⟨hv, hsl⟩ := dirWay_some hd
    exact absurd hsl (h v hv)

/-- A line without a live entry has none. -/
theorem dirOf_of_dead (h : dirLive (dirOf hs l) = false) : dirOf hs l = DirEntry.free := by
  refine dirOf_of_none fun v hv hsl => ?_
  unfold dirOf at h
  cases hd : dirWay hs l with
  | none => exact dirWay_none hd hv hsl
  | some w =>
    rw [hd] at h
    exact Bool.noConfusion (h.symm.trans (dirWay_some hd).2.1)

/-- Two stores with the same slots for a line give it the same entry. -/
theorem dirOf_congr {hs' : HalfSt} (h : ∀ v < 16, dirSlot hs' (dirSet l) v = dirSlot hs (dirSet l) v ∨ (¬ slotOf hs' l v ∧ ¬ slotOf hs l v)) :
    dirOf hs' l = dirOf hs l := by
  have hiff : ∀ v < 16, slotOf hs' l v ↔ slotOf hs l v := by
    intro v hv
    rcases h v hv with he | ⟨h1, h2⟩
    · rw [slotOf, slotOf, he]
    · exact iff_of_false h1 h2
  have hway : dirWay hs' l = dirWay hs l := by
    unfold dirWay
    have hp : ∀ v ∈ List.range Config.dirWays, (dirLive (dirSlot hs' (dirSet l) v) && (dirSlot hs' (dirSet l) v).tag == dirTag l)
        = (dirLive (dirSlot hs (dirSet l) v) && (dirSlot hs (dirSet l) v).tag == dirTag l) := by
      intro v hv
      rw [Bool.eq_iff_iff, Bool.and_eq_true, Bool.and_eq_true, beq_iff_eq, beq_iff_eq]
      exact hiff v (List.mem_range.mp hv)
    exact List.find?_congr hp
  unfold dirOf
  rw [hway]
  cases hd : dirWay hs l with
  | none => rfl
  | some v =>
    obtain ⟨hv, hsl⟩ := dirWay_some hd
    exact (h v hv).resolve_right fun hn => hn.2 hsl

end Way

/-- A half with an entry of the directory replaced. -/
def withSlot (hs : HalfSt) (l : LineAddr) (w : Nat) (e : DirEntry) : HalfSt :=
  { hs with dir := tabSet DirEntry.free hs.dir (dirSet l * Config.dirWays + w) e }

section Written

variable {hs : HalfSt} {l : LineAddr} {w : Nat} {e : DirEntry} (hwf : tabWf DirEntry.free hs.dir = true) (hw : w < 16)

include hwf hw

theorem dirSlot_withSlot (set : Nat) {v : Nat} (hv : v < 16) :
    dirSlot (withSlot hs l w e) set v = if set = dirSet l ∧ v = w then e else dirSlot hs set v := by
  have hkey : set * 16 + v = dirSet l * 16 + w ↔ set = dirSet l ∧ v = w := by omega
  exact (tabGet_tabSet hwf _ _ _).trans (if_congr hkey rfl rfl)

/-- What a write leaves in a slot that is free, or that the line has: its entry, where the line has no other. -/
theorem dirOf_withSlot (hu : ∀ v < 16, v ≠ w → ¬ slotOf hs l v) (he : dirLive e = true → e.tag = dirTag l) (hd : dirLive e = false → e = DirEntry.free) :
    dirOf (withSlot hs l w e) l = e := by
  have hat : dirSlot (withSlot hs l w e) (dirSet l) w = e := by rw [dirSlot_withSlot hwf hw _ hw, if_pos ⟨rfl, rfl⟩]
  have hoff : ∀ v < 16, v ≠ w → ¬ slotOf (withSlot hs l w e) l v := by
    intro v hv hne
    rw [slotOf, dirSlot_withSlot hwf hw _ hv, if_neg fun h => hne h.2]
    exact hu v hv hne
  cases hl : dirLive e with
  | true =>
    have hsl : slotOf (withSlot hs l w e) l w := by
      rw [slotOf, hat]
      exact ⟨hl, he hl⟩
    rw [dirOf_of_slot hw hsl fun v hv h => not_not.mp fun hne => hoff v hv hne h, hat]
  | false =>
    rw [dirOf_of_none fun v hv h => ?_, hd hl]
    by_cases hne : v = w
    · rw [slotOf, hne, hat, hl] at h
      exact Bool.noConfusion h.1
    · exact hoff v hv hne h

/-- The write changes the entry of no other line. -/
theorem dirOf_withSlot_ne {x : LineAddr} (hx : x ≠ l) (hold : dirLive (dirSlot hs (dirSet l) w) = true → (dirSlot hs (dirSet l) w).tag = dirTag l)
    (he : dirLive e = true → e.tag = dirTag l) : dirOf (withSlot hs l w e) x = dirOf hs x := by
  refine dirOf_congr fun v hv => ?_
  have hslot := dirSlot_withSlot (l := l) (e := e) hwf hw (dirSet x) hv
  by_cases h : dirSet x = dirSet l ∧ v = w
  · obtain ⟨hset, rfl⟩ := h
    have htag : dirTag l ≠ dirTag x := fun ht => hx (eq_of_dirSet_dirTag hset ht.symm)
    refine .inr ⟨?_, ?_⟩
    · rw [slotOf, hslot, if_pos ⟨hset, rfl⟩]
      exact fun hl => htag ((he hl.1).symm.trans hl.2)
    · rw [slotOf, hset]
      exact fun hl => htag ((hold hl.1).symm.trans hl.2)
  · exact .inl (hslot.trans (if_neg h))

end Written

/-! ## Writes of a slice without stored errors and with no armed injection -/

section Calm

variable {m : Mach} (he : m.ras.errs = []) (ha : m.ras.armed = false)

include he ha

theorem putDir_clean (g : Regs) (h : Half) (l : LineAddr) (w : Nat) (e : DirEntry) :
    putDir g h (dirSet l) w e m = modHalf h (fun hs => withSlot hs l w (if dirLive e then e else DirEntry.free)) m :=
  noteWrite_clean (m := modHalf h (fun hs => withSlot hs l w (if dirLive e then e else DirEntry.free)) m) he ha g .dir h _

theorem noteWrites_clean {α : Type} (g : Regs) (h : Half) (a : Mach → α → Arr) (i : Mach → α → Nat) (ks : List α) :
    ks.foldl (fun m k => noteWrite g (a m k) h (i m k) m) m = m := by
  induction ks with
  | nil => rfl
  | cons k ks ih => rw [List.foldl_cons, noteWrite_clean he ha, ih]

/-- A half with the frame of a way replaced. -/
def withFrame (l : LineAddr) (w : Nat) (f : Frame) (hs : HalfSt) : HalfSt :=
  { hs with frames := tabSet Frame.free hs.frames ((setIx l).toNat * Config.ways + w) f }

theorem putFrame_clean (g : Regs) (h : Half) (l : LineAddr) (w : Nat) (f : Frame) (ks : List Nat) :
    putFrame g h l (.frame w) f ks m = modHalf h (withFrame l w f) m := by
  have hm : noteWrite g (tagWord l (.frame w)).1 h (tagWord l (.frame w)).2 (modHalf h (withFrame l w f) m) = modHalf h (withFrame l w f) m :=
    noteWrite_clean (m := modHalf h (withFrame l w f) m) he ha g _ h _
  unfold putFrame
  dsimp only
  refine Eq.trans ?_ (noteWrites_clean (m := modHalf h (withFrame l w f) m) he ha g h
    (fun m k => (dataWord (halfAt m h) l (.frame w) k).1) (fun m k => (dataWord (halfAt m h) l (.frame w) k).2) ks)
  exact congrArg (fun m0 => ks.foldl (fun m k => noteWrite g (dataWord (halfAt m h) l (.frame w) k).1 h (dataWord (halfAt m h) l (.frame w) k).2 m) m0) hm

theorem removeLine_clean (g : Regs) (h : Half) (l : LineAddr) {w : Nat} (hl : locate (halfAt m h) l = some (.frame w)) :
    ∃ f, removeLine g h l m = modHalf h (withFrame l w f) m := by
  simp only [removeLine, hl, putFrame_clean he ha]
  exact ⟨_, rfl⟩

omit ha in
theorem checkWords_clean (g : Regs) (h : Half) (l : LineAddr) (p : Loc) (ks : List Nat) : checkWords g h l p ks m = m := by
  simp only [checkWords, he, List.isEmpty_nil, if_true]

/-- A part of a half that has no frames and no profiling counters in it. -/
structure SparesFrames {α : Type} (part : HalfSt → α) : Prop where
  frames : ∀ x f, part { x with frames := f } = part x
  prof   : ∀ x p, part { x with prof := p } = part x

section Packing

variable {α : Type} {part : HalfSt → α} (hs : SparesFrames part)

include hs

/-- Packing changes frames only, and counts. -/
theorem packInto_spares (g : Regs) (h : Half) (l : LineAddr) (st : LineSt) (age : BitVec 2) (v : Nat) :
    part (halfAt (packInto g h l st age v m) h) = part (halfAt m h) := by
  have hras : (profile g h 0x0B none 1 m).ras = m.ras := by
    unfold profile
    split <;> rfl
  have hpart : part (halfAt (profile g h 0x0B none 1 m) h) = part (halfAt m h) := by
    unfold profile
    split
    · rfl
    · rw [halfAt_modHalf]
      exact hs.prof _ _
  rw [packInto, putFrame_clean (m := profile g h 0x0B none 1 m) (hras ▸ he) (hras ▸ ha), halfAt_modHalf]
  exact (hs.frames _ _).trans hpart

theorem tryPack_spares (g : Regs) (h : Half) (l : LineAddr) : part (halfAt (tryPack g h l m) h) = part (halfAt m h) := by
  cases hl : locate (halfAt m h) l with
  | none => simp only [tryPack, hl]
  | some p =>
    cases p with
    | vb s => simp only [tryPack, hl]
    | frame w =>
      obtain ⟨f, hrem⟩ := removeLine_clean he ha g h l hl
      simp only [tryPack, hl]
      split
      next => rfl
      next =>
        rw [checkWords_clean he, checkWords_clean he]
        split
        next => rfl
        next =>
          rw [hrem, packInto_spares (m := modHalf h (withFrame l w f) m) he ha hs, halfAt_modHalf]
          exact hs.frames _ _

end Packing

theorem tryPack_dir (g : Regs) (h : Half) (l : LineAddr) : (halfAt (tryPack g h l m) h).dir = (halfAt m h).dir :=
  tryPack_spares he ha (part := (·.dir)) ⟨fun _ _ => rfl, fun _ _ => rfl⟩ g h l

end Calm

/-! ## The entry that a request leaves in the directory -/

/-- What a write of an entry for a line stores: the entry with the line's tag, and nothing for one that names nobody. -/
def StoredFor (l : LineAddr) (e x : DirEntry) : Prop :=
  (dirLive e = true → ∃ rem age, x = { e with tag := dirTag l, rem := rem, age := age }) ∧ (dirLive e = false → x = DirEntry.free)

theorem StoredFor.of_age (l : LineAddr) (e : DirEntry) (rem : Bool) (age : BitVec 2) :
    StoredFor l e (if dirLive e then { e with tag := dirTag l, rem := rem, age := age } else DirEntry.free) :=
  ⟨fun h => ⟨rem, age, if_pos h⟩, fun h => if_neg (by rw [h]; decide)⟩

namespace StoredFor

variable {l : LineAddr} {e x : DirEntry} (hx : StoredFor l e x)

include hx

theorem live : dirLive x = dirLive e := by
  cases h : dirLive e with
  | true =>
    obtain ⟨rem, age, rfl⟩ := hx.1 h
    exact h
  | false => rw [hx.2 h]; rfl

theorem tag (h : dirLive x = true) : x.tag = dirTag l := by
  obtain ⟨rem, age, rfl⟩ := hx.1 (hx.live ▸ h)
  rfl

theorem free (h : dirLive x = false) : x = DirEntry.free := hx.2 (hx.live ▸ h)

theorem fields (h : dirLive e = true) :
    x.agents = e.agents ∧ x.chips = e.chips ∧ x.state = e.state ∧ x.owner = e.owner ∧ x.ochip = e.ochip ∧ x.xp = e.xp := by
  obtain ⟨rem, age, rfl⟩ := hx.1 h
  exact ⟨rfl, rfl, rfl, rfl, rfl, rfl⟩

end StoredFor

section Calm

variable {m : Mach} (he : m.ras.errs = []) (ha : m.ras.armed = false)

include he ha

/-- Of all slots, an entry for a line is written where it stands, or into a free one of its set. -/
theorem setDir_clean (g : Regs) (h : Half) (l : LineAddr) (rem : Bool) (e : DirEntry)
    (hroom : dirWay (halfAt m h) l ≠ none ∨ dirFreeWay (halfAt m h) l ≠ none) (hlive : dirLive (dirOf (halfAt m h) l) = true ∨ dirLive e = true)
    (hu : ∀ v < 16, ∀ w < 16, slotOf (halfAt m h) l v → slotOf (halfAt m h) l w → v = w) :
    ∃ w x, StoredFor l e x ∧ setDir g h l rem e m = modHalf h (fun hs => withSlot hs l w x) m ∧ w < 16
      ∧ (∀ v < 16, v ≠ w → ¬ slotOf (halfAt m h) l v)
      ∧ (dirLive (dirSlot (halfAt m h) (dirSet l) w) = true → (dirSlot (halfAt m h) (dirSet l) w).tag = dirTag l) := by
  cases hd : dirWay (halfAt m h) l with
  | some w =>
    obtain ⟨hw, hsl⟩ := dirWay_some hd
    refine ⟨w, _, .of_age l e rem 0, ?_, hw, fun v hv hne hv' => hne (hu v hv w hw hv' hsl), fun _ => hsl.2⟩
    simp only [setDir, hd]
    exact putDir_clean he ha g h l w { e with tag := dirTag l, rem := rem, age := 0 }
  | none =>
    obtain ⟨w, hf⟩ := Option.ne_none_iff_exists'.mp (hroom.resolve_left fun hn => hn hd)
    obtain ⟨hw, hdead⟩ := dirFreeWay_some hf
    have he1 : dirLive e = true := by
      refine hlive.resolve_left fun hl => ?_
      rw [dirOf_of_none fun v hv => dirWay_none hd hv] at hl
      exact Bool.noConfusion hl
    refine ⟨w, _, .of_age l e rem 1, ?_, hw, fun v hv _ => dirWay_none hd hv, fun h1 => Bool.noConfusion (hdead.symm.trans h1)⟩
    simp only [setDir, hd, hf, he1, Bool.not_true, Bool.false_eq_true, if_false]
    rw [putDir_clean he ha g h l w { e with tag := dirTag l, rem := rem, age := 1 }, show dirLive { e with tag := dirTag l, rem := rem, age := 1 } = true from he1]
    rfl

theorem putHolders_dir (g : Regs) (h : Half) (l : LineAddr) (e : DirEntry) (f : HalfSt → HalfSt)
    (hset : setDir g h l (!isPackage m (lineBase l)) e m = modHalf h f m) : (halfAt (putHolders g h l e m) h).dir = (f (halfAt m h)).dir := by
  rw [putHolders, hset, packAfter]
  split
  · rw [tryPack_dir (m := modHalf h f m) he ha, halfAt_modHalf]
  · rw [halfAt_modHalf]

omit he ha in
theorem dirOf_of_dir {hs hs' : HalfSt} (h : hs'.dir = hs.dir) (x : LineAddr) : dirOf hs' x = dirOf hs x := by
  simp only [dirOf, dirWay, dirSlot, h]

/-- The home writes what the tables leave, and nothing else, into the directory. -/
theorem dirOf_applyDir (g : Regs) (h : Half) (r : Req) (had : Bool) (hwf : tabWf DirEntry.free (halfAt m h).dir = true)
    (hroom : dirWay (halfAt m h) (lineOf r.addr) ≠ none ∨ dirFreeWay (halfAt m h) (lineOf r.addr) ≠ none)
    (hu : ∀ v < 16, ∀ w < 16, slotOf (halfAt m h) (lineOf r.addr) v → slotOf (halfAt m h) (lineOf r.addr) w → v = w) :
    StoredFor (lineOf r.addr) (nextDir (dirOf (halfAt m h) (lineOf r.addr)) r had) (dirOf (halfAt (applyDir g h r had m) h) (lineOf r.addr))
      ∧ ∀ x, x ≠ lineOf r.addr → dirOf (halfAt (applyDir g h r had m) h) x = dirOf (halfAt m h) x := by
  generalize hl : lineOf r.addr = l at *
  generalize hn : nextDir (dirOf (halfAt m h) l) r had = e
  by_cases hlive : dirLive (dirOf (halfAt m h) l) = true ∨ dirLive e = true
  · obtain ⟨w, x, hx, hset, hw, hoff, hold⟩ := setDir_clean he ha g h l (!isPackage m (lineBase l)) e hroom hlive hu
    have happly : applyDir g h r had m = putHolders g h l e m := by
      simp only [applyDir, hl, hn, Bool.or_eq_true, hlive, if_true]
    have hdir := dirOf_of_dir (putHolders_dir he ha g h l e _ hset)
    refine ⟨?_, fun y hy => ?_⟩
    · rw [happly, hdir, dirOf_withSlot hwf hw hoff hx.tag hx.free]
      exact hx
    · rw [happly, hdir, dirOf_withSlot_ne hwf hw hy hold hx.tag]
  · have happly : applyDir g h r had m = m := by
      simp only [applyDir, hl, hn, Bool.or_eq_true, hlive, if_false]
    push Not at hlive
    rw [happly]
    refine ⟨⟨fun h1 => absurd h1 hlive.2, fun _ => dirOf_of_dead (Bool.not_eq_true _ ▸ hlive.1)⟩, fun _ _ => rfl⟩

end Calm

/-- Settles O30: the tables column by column, then the write of the entry that they leave. -/
theorem directoryFollowsItsTables : Obligations.DirectoryFollowsItsTables := by
  unfold Obligations.DirectoryFollowsItsTables
  refine ⟨fun e r had hr => ?_, fun g h r had m he ha => ?_⟩
  case refine_1 =>
    refine ⟨fun a ha hq => ⟨fun ho => ⟨table_rdS_shared had ha hq ho, table_rdS_owner had hr ha hq ho, table_rdS_unique had hr ha hq ho,
      table_rdS_away had hr ha hq ho⟩, fun ho => ?_, table_evict had hr ha, table_wr had hr ha hq⟩, fun ho ha hq => ?_, fun ho => ?_,
      fun ho => ⟨fun hs => ?_, fun hs => ?_⟩, fun q ha hq => ⟨table_xShared had hr hq, fun ho => table_xUnique had hr ha hq ho⟩, nextDir_rules hr had⟩
    case refine_1 =>
      rw [snoopsOf_inv (ho.imp_right .inl)]
      exact ⟨⟨rfl, others_nodup e r, mem_others_agent ha hq⟩, nextDir_unique had ho ha⟩
    case refine_2 =>
      rw [snoopsOf_inv (.inr (.inr ho)), others_of_unit ha hq]
      exact ⟨⟨rfl, holdersOf_nodup e, mem_holdersOf e⟩, nextDir_wr_other had hr ho fun a h => absurd (ha.symm.trans h) (by simp)⟩
    case refine_3 =>
      obtain ⟨hn, hsn⟩ := nextDir_clear (e := e) had ho
      rw [hsn]
      exact ⟨⟨rfl, holdersOf_nodup e, mem_holdersOf e⟩, hn⟩
    case refine_4 =>
      obtain ⟨hn, hsn⟩ := nextDir_look_away had ho hs
      rw [hsn]
      exact ⟨⟨rfl, holdersOf_nodup e, fun x => (mem_holdersOf e x).trans (hr.holds_away hs x)⟩, hn⟩
    case refine_5 =>
      obtain ⟨hn, hsn⟩ := nextDir_look had ho hs
      exact ⟨by rw [hsn], hn⟩
  case refine_2 =>
    intro l hs t e hwf hroom hu
    obtain ⟨hx, hne⟩ := dirOf_applyDir he ha g h r had hwf hroom fun v hv w hw h1 h2 => hu v hv w hw h1.1 h2.1 h1.2 h2.2
    exact ⟨hx.fields, hx.2, hne⟩

end Sys2Proof.Machine
end

section
/-!
What the half keeps of its reduction groups (chapter 10) is changed by group operations only: completions, messages, frames and power leave
it as it is. Used by the proof of O32.
-/

namespace Sys2Proof.Machine

/-! ## What a completion does not touch -/

/-- A part of the slice that messages, completions and demands for clocks leave alone. -/
structure BlindToSend {α : Type} (part : Mach → α) : Prop where
  port  : ∀ p f m, part (modPort p f m) = part m
  link  : ∀ k f m, part (modLink k f m) = part m
  power : ∀ j (f : HalfSt → Power) m, part (modHalf j (fun hs => { hs with pw := f hs }) m) = part m
  out   : ∀ x m, part (emit x m) = part m
  probe : ∀ d m, part { m with dbg := d } = part m
  ends  : ∀ xs ys m, part { m with finished := xs, unitDone := ys } = part m

namespace BlindToSend

variable {α : Type} {part : Mach → α} (hb : BlindToSend part) (m : Mach)

include hb

theorem rouse (j : Half) : part (rouse j m) = part m := by
  unfold Machine.rouse raiseDemand
  split
  · rfl
  · exact hb.power ..

theorem stampProbe (x : Msg) : part (stampProbe x m).2 = part m := by
  unfold Machine.stampProbe
  dsimp only
  split
  · exact hb.probe ..
  · rfl
  · rfl

theorem sendOne (k : Fin 3) (c : Fin 4) (x : Msg) : part (sendOne k c x m) = part m := by
  unfold Machine.sendOne
  dsimp only
  rw [hb.out, hb.link, hb.stampProbe]

theorem flushLoop (n : Nat) (k : Fin 3) (m : Mach) : part (flushLoop n k m) = part m := by
  induction n generalizing m with
  | zero => rfl
  | succ n ih =>
    unfold Machine.flushLoop
    split
    · rfl
    · split
      · rfl
      · rw [ih, hb.sendOne]

theorem sendTo (k : Fin 3) (dst : BitVec 5) (x : Msg) : part (sendTo k dst x m) = part m := by
  unfold Machine.sendTo sendMsg flushLink
  split
  · dsimp only
    split
    · rw [hb.flushLoop, hb.rouse, hb.link]
    · rw [hb.rouse, hb.link]
  · rfl

theorem finished (r : Req) (c : Code) : part { m with finished := m.finished ++ [(r, c)] } = part m := hb.ends _ m.unitDone m

theorem complete (r : Req) (c : Code) (line : Line) : part (complete r c line m) = part m := by
  cases ho : r.origin
  case port p =>
    simp only [Machine.complete, ho]
    split
    · exact hb.finished ..
    · exact (hb.rouse ..).trans (hb.port ..)
  case fwd ch sl sport txn int =>
    simp only [Machine.complete, ho]
    exact (hb.sendTo ..).trans (hb.finished ..)
  case remote chip rtag =>
    simp only [Machine.complete, ho]
    exact (hb.sendTo ..).trans (hb.finished ..)
  case bellows =>
    simp only [Machine.complete, ho]
    exact hb.finished ..
  all_goals
    simp only [Machine.complete, ho]
    exact hb.ends ..

end BlindToSend

/-! ## Completions and frames leave groups and topology alone -/

/-- The groups of a half, their result writes and the aborts that wait. -/
def groupPart (m : Mach) (h : Half) : Tab (Option Group) × List GrpWrite × List (BitVec 6 × Req) :=
  ((halfAt m h).groups, (halfAt m h).gwrites, (halfAt m h).gaborts)

/-- A change of a half that leaves its groups alone. -/
def SparesGroups (f : HalfSt → HalfSt) : Prop := ∀ x, (f x).groups = x.groups ∧ (f x).gwrites = x.gwrites ∧ (f x).gaborts = x.gaborts

section Frame

variable (m : Mach) (h : Half)

theorem groupPart_of_halves {m m' : Mach} (e : m'.halves = m.halves) (h : Half) : groupPart m' h = groupPart m h := by
  simp only [groupPart, halfAt, e]

theorem groupPart_modHalf (j : Half) {f : HalfSt → HalfSt} (hf : SparesGroups f) : groupPart (modHalf j f m) h = groupPart m h := by
  by_cases e : h = j
  · subst e
    obtain ⟨h1, h2, h3⟩ := hf (halfAt m h)
    simp only [groupPart, halfAt_modHalf, h1, h2, h3]
  · simp only [groupPart, halfAt_modHalf_ne m _ e]

theorem groupPart_wback (j : Half) (f : HalfSt → List (Arr × Nat)) : groupPart (modHalf j (fun hs => { hs with wback := f hs }) m) h = groupPart m h :=
  groupPart_modHalf m h j fun _ => ⟨rfl, rfl, rfl⟩

theorem groupPart_resv (j : Half) (f : HalfSt → List ResFrame) : groupPart (modHalf j (fun hs => { hs with resv := f hs }) m) h = groupPart m h :=
  groupPart_modHalf m h j fun _ => ⟨rfl, rfl, rfl⟩

theorem groupPart_resOut (j : Half) (f : HalfSt → List ResOut) (n : HalfSt → BitVec 32) :
    groupPart (modHalf j (fun hs => { hs with resOut := f hs, wout := n hs }) m) h = groupPart m h :=
  groupPart_modHalf m h j fun _ => ⟨rfl, rfl, rfl⟩

theorem groupPart_queueWrite (j : Half) (x : WrCmd) : groupPart (queueWrite j x (spend m)) h = groupPart m h := groupPart_of_halves rfl h

theorem groupPart_blind (h : Half) : BlindToSend (groupPart · h) where
  port _ _ _ := groupPart_of_halves rfl h
  link _ _ _ := groupPart_of_halves rfl h
  power j _ m := groupPart_modHalf m h j fun _ => ⟨rfl, rfl, rfl⟩
  out _ _ := groupPart_of_halves rfl h
  probe _ _ := groupPart_of_halves rfl h
  ends _ _ _ := groupPart_of_halves rfl h

theorem groupPart_complete (r : Req) (c : Code) (line : Line) : groupPart (complete r c line m) h = groupPart m h :=
  (groupPart_blind h).complete m r c line

theorem groupPart_noteWrite (g : Regs) (a : Arr) (j : Half) (i : Nat) : groupPart (noteWrite g a j i m) h = groupPart m h := by
  unfold noteWrite
  dsimp only
  split
  · exact (groupPart_wback ..).trans (groupPart_of_halves rfl h)
  · split
    · rfl
    · exact (groupPart_wback ..).trans (groupPart_of_halves rfl h)

theorem groupPart_noteWrites {α : Type} (g : Regs) (j : Half) (a : Mach → α → Arr) (i : Mach → α → Nat) (ks : List α) (m : Mach) :
    groupPart (ks.foldl (fun m k => noteWrite g (a m k) j (i m k) m) m) h = groupPart m h := by
  induction ks generalizing m with
  | nil => rfl
  | cons k ks ih => rw [List.foldl_cons, ih, groupPart_noteWrite]

theorem groupPart_putFrame (g : Regs) (j : Half) (l : LineAddr) (p : Loc) (f : Frame) (ks : List Nat) :
    groupPart (putFrame g j l p f ks m) h = groupPart m h := by
  unfold putFrame
  dsimp only
  refine (groupPart_noteWrites h g j (fun m k => (dataWord (halfAt m j) l p k).1) (fun m k => (dataWord (halfAt m j) l p k).2) ks _).trans ?_
  rw [groupPart_noteWrite]
  cases p with
  | frame w => exact groupPart_modHalf _ h j fun _ => ⟨rfl, rfl, rfl⟩
  | vb s => exact groupPart_modHalf _ h j fun _ => ⟨rfl, rfl, rfl⟩

theorem groupPart_setHold (g : Regs) (j : Half) (v : Bool) (l : LineAddr) : groupPart (setHold g j v l m) h = groupPart m h := by
  unfold setHold
  split
  · dsimp only
    split
    · rfl
    · exact groupPart_putFrame ..
  · rfl

theorem groupPart_refreshHold (g : Regs) (j : Half) (l : LineAddr) : groupPart (refreshHold g j l m) h = groupPart m h := by
  unfold refreshHold
  split
  · rfl
  · exact groupPart_setHold ..

theorem groupPart_refreshHolds (g : Regs) (j : Half) (ls : List LineAddr) (m : Mach) :
    groupPart (ls.foldl (fun m l => refreshHold g j l m) m) h = groupPart m h := by
  induction ls generalizing m with
  | nil => rfl
  | cons l ls ih => rw [List.foldl_cons, ih, groupPart_refreshHold]

theorem groupPart_freeState (j : Half) (gid : BitVec 6) : groupPart (freeState j gid m) h = groupPart m h :=
  groupPart_modHalf m h j fun _ => ⟨rfl, rfl, rfl⟩

theorem groupPart_writeOut (j : Half) (xs : List (BitVec 6 × LineAddr × Nat)) (w : LineAddr) : groupPart (writeOut j xs w m) h = groupPart m h := by
  unfold writeOut
  dsimp only
  split
  · rw [groupPart_queueWrite, groupPart_resOut]
  · rw [groupPart_resOut]

theorem groupPart_putWindow (fuel : Nat) (j : Half) (gid : BitVec 6) (l : LineAddr) (n : Nat) (m : Mach) :
    groupPart (putWindow fuel j gid l n m) h = groupPart m h := by
  induction fuel generalizing n m with
  | zero => rfl
  | succ f ih =>
    unfold putWindow
    split
    · rfl
    · split
      · rfl
      · rw [ih, groupPart_writeOut]

theorem groupPart_frameOut (j : Half) (x : ResFrame) (n : Nat) : groupPart (frameOut j x n m) h = groupPart m h := by
  unfold frameOut
  dsimp only
  split
  · exact (groupPart_writeOut ..).trans (groupPart_resv ..)
  · generalize (halfAt m j).resv.filter (sameFrame x) = es
    refine List.foldlRecOn (motive := fun acc : Nat × Mach => groupPart acc.2 h = groupPart m h) _ _ rfl fun acc hacc e _ => ?_
    split
    · exact hacc
    · exact ((groupPart_putWindow ..).trans (groupPart_resv ..)).trans hacc

theorem groupPart_storeWords (fuel : Nat) (g : Regs) (j : Half) (gid : BitVec 6) (l : LineAddr) (n : Nat) (m : Mach) :
    groupPart (storeWords fuel g j gid l n m) h = groupPart m h := by
  induction fuel generalizing n m with
  | zero => rfl
  | succ f ih =>
    unfold storeWords
    split
    · rfl
    · split
      · dsimp only
        rw [ih]
        refine (groupPart_noteWrites h g j (fun _ _ => .frames) (fun m k => frameWord (halfAt m j) _ _ k) _ _).trans ?_
        exact groupPart_resv ..
      · rw [ih, groupPart_frameOut]
      · exact groupPart_putWindow ..

theorem groupPart_storeState (g : Regs) (j : Half) (gid : BitVec 6) (gr : Group) (l : LineAddr) :
    groupPart (storeState g j gid gr l m) h = groupPart m h := by
  unfold storeState
  dsimp only
  refine (groupPart_storeWords ..).trans (groupPart_modHalf m h j ?_)
  exact fun _ => ⟨rfl, rfl, rfl⟩

end Frame

/-! ## The topology -/

/-- What the topology depends on: the structure words, the stored errors and the free value that a failed vote leaves. -/
def topoPart (m : Mach) := ((fun h => (halfAt m h).words), m.ras, m.freeCtr)

section Topology

variable {m m' : Mach}

theorem topoPart_of_halves (e : m'.halves = m.halves) (hr : m'.ras = m.ras) (hc : m'.freeCtr = m.freeCtr) : topoPart m' = topoPart m := by
  simp only [topoPart, halfAt, e, hr, hc]

theorem topoPart_modHalf (m : Mach) (j : Half) {f : HalfSt → HalfSt} (hf : ∀ x, (f x).words = x.words) : topoPart (modHalf j f m) = topoPart m := by
  have hw : (fun h => (halfAt (modHalf j f m) h).words) = fun h => (halfAt m h).words := funext fun h => words_modHalf hf j h m
  exact congrArg (fun w => (w, m.ras, m.freeCtr)) hw

theorem topoPart_blind : BlindToSend topoPart where
  port _ _ _ := topoPart_of_halves rfl rfl rfl
  link _ _ _ := topoPart_of_halves rfl rfl rfl
  power j _ m := topoPart_modHalf m j fun _ => rfl
  out _ _ := topoPart_of_halves rfl rfl rfl
  probe _ _ := topoPart_of_halves rfl rfl rfl
  ends _ _ _ := topoPart_of_halves rfl rfl rfl

variable (e : topoPart m' = topoPart m)

include e

theorem word_of_topo (h : Half) (i : Nat) : word m' h i = word m h i :=
  word_congr (fun j => congrFun (congrArg Prod.fst e) j) (congrArg (fun x => x.2.1.errs) e) (congrArg (fun x => x.2.2) e) h i

theorem sliceWord_of_topo (i : Nat) : sliceWord m' i = sliceWord m i := by
  have hw := fun j => congrFun (congrArg Prod.fst e) j
  simp only [sliceWord, votedWord_congr hw (congrArg (fun x => x.2.1.errs) e), half1Words_congr hw, word_of_topo e]

theorem frugal_of_topo : frugal m' = frugal m :=
  frugal_congr (fun j => congrFun (congrArg Prod.fst e) j) (congrArg (fun x => x.2.1.errs) e) (congrArg (fun x => x.2.2) e)

theorem rangeLines_of_topo (h : Half) (base : LineAddr) (n : Nat) : rangeLines m' h base n = rangeLines m h base n := by
  have hw : word m' h = word m h := funext fun i => word_of_topo e h i
  simp only [rangeLines, homeSlice, homeHalf, ownSlice, perDie, hw, sliceWord_of_topo e, frugal_of_topo e]

theorem isPackage_of_topo (a : Addr) : isPackage m' a = isPackage m a := by
  simp only [isPackage, chipNum, sliceWord_of_topo e]

theorem groupComplete_of_topo (h : Half) (gr : Group) : groupComplete m' h gr = groupComplete m h gr := by
  simp only [groupComplete, rangeLines_of_topo e]

end Topology

end Sys2Proof.Machine
end

section
/-!
Reduction groups at their unit (chapter 10): a GRP_ABORT, a result write that ends, HOLD of a line. Used by the proof of O32.
-/

namespace Sys2Proof.Machine

/-! ## The groups of a half after an operation -/

section Groups

variable {m m' : Mach} {h : Half}

theorem groupAt_of_part (e : groupPart m' h = groupPart m h) (i : BitVec 6) : groupAt (halfAt m' h) i = groupAt (halfAt m h) i := by
  have hg : (halfAt m' h).groups = (halfAt m h).groups := congrArg Prod.fst e
  rw [groupAt, hg, groupAt]

theorem groups_of_part (e : groupPart m' h = groupPart m h) : (halfAt m' h).groups = (halfAt m h).groups := congrArg Prod.fst e

theorem gwrites_of_part (e : groupPart m' h = groupPart m h) : (halfAt m' h).gwrites = (halfAt m h).gwrites :=
  congrArg (fun x => x.2.1) e

theorem gaborts_of_part (e : groupPart m' h = groupPart m h) : (halfAt m' h).gaborts = (halfAt m h).gaborts :=
  congrArg (fun x => x.2.2) e

theorem groupAt_setGroup (hw : tabWf none (halfAt m h).groups = true) (gid i : BitVec 6) (x : Option Group) :
    groupAt (halfAt (setGroup h gid x m) h) i = if i = gid then x else groupAt (halfAt m h) i := by
  rw [setGroup, halfAt_modHalf]
  exact (tabGet_tabSet hw gid.toNat i.toNat x).trans (if_congr BitVec.toNat_inj rfl rfl)

theorem gaborts_setGroup (gid : BitVec 6) (x : Option Group) : (halfAt (setGroup h gid x m) h).gaborts = (halfAt m h).gaborts := by
  rw [setGroup, halfAt_modHalf]

theorem gwrites_setGroup (gid : BitVec 6) (x : Option Group) : (halfAt (setGroup h gid x m) h).gwrites = (halfAt m h).gwrites := by
  rw [setGroup, halfAt_modHalf]

theorem topoPart_setGroup (m : Mach) (h : Half) (gid : BitVec 6) (x : Option Group) : topoPart (setGroup h gid x m) = topoPart m :=
  topoPart_modHalf m h fun _ => rfl

/-- To close a group takes it away and changes no other. -/
theorem closeGroup_part (g : Regs) (h : Half) (m : Mach) (gid : BitVec 6) :
    groupPart (closeGroup g h gid m) h = groupPart (setGroup h gid none m) h ∨ (groupAt (halfAt m h) gid = none ∧ closeGroup g h gid m = m) := by
  unfold closeGroup
  cases hg : groupAt (halfAt m h) gid with
  | none => exact .inr ⟨rfl, rfl⟩
  | some gr =>
    refine .inl ?_
    dsimp only
    rw [groupPart_refreshHolds]
    cases gr.opening with
    | none => exact groupPart_freeState ..
    | some r => exact (groupPart_complete ..).trans (groupPart_freeState ..)

theorem groupAt_closeGroup (g : Regs) (hw : tabWf none (halfAt m h).groups = true) (gid i : BitVec 6) :
    groupAt (halfAt (closeGroup g h gid m) h) i = if i = gid then none else groupAt (halfAt m h) i := by
  rcases closeGroup_part g h m gid with hp | ⟨hn, hc⟩
  · rw [groupAt_of_part hp, groupAt_setGroup hw]
  · rw [hc]
    split
    next e => rw [e, hn]
    next => rfl

theorem gaborts_closeGroup (g : Regs) (gid : BitVec 6) : (halfAt (closeGroup g h gid m) h).gaborts = (halfAt m h).gaborts := by
  rcases closeGroup_part g h m gid with hp | ⟨-, hc⟩
  · rw [gaborts_of_part hp, gaborts_setGroup]
  · rw [hc]

/-- The end of an abort: its aborts complete, its group is free. -/
theorem endAbort_frees (g : Regs) (gid : BitVec 6) (hw : tabWf none (halfAt m h).groups = true) : ∃ t,
    endAbort g h gid m = completeAll (((halfAt m h).gaborts.filter fun x => x.1 == gid).map (·.2)) .done 0 t
    ∧ (∀ i, groupAt (halfAt t h) i = if i = gid then none else groupAt (halfAt m h) i)
    ∧ (halfAt t h).gaborts = (halfAt m h).gaborts.filter fun x => x.1 != gid := by
  refine ⟨_, rfl, fun i => ?_, ?_⟩
  · rw [groupAt_closeGroup g (by rwa [halfAt_modHalf]), halfAt_modHalf]
    rfl
  · rw [gaborts_closeGroup, halfAt_modHalf]

end Groups

/-! ## A contribution that is refused -/

/-- R341, R345: what a contribution is refused for. -/
theorem contribRefused_iff (hs : HalfSt) (r : Req) : contribRefused hs r = true ↔
    ∀ gr, groupAt hs (gidOf r) = some gr → groupCovers gr (lineOf r.addr) = true → gr.closing = true ∨ gr.nm1.toNat < (r.aux.extractLsb' 8 8).toNat
      ∨ ∃ s ∈ contribSectors r, (tabGet GrpSector.none gr.sectors (4 * ((lineOf r.addr).toNat - gr.base.toNat / 256) + s)).arrived.getLsbD
          (r.aux.extractLsb' 8 8).toNat = true := by
  cases hg : groupAt hs (gidOf r) with
  | none => simp [contribRefused, contribGroup, hg]
  | some gr =>
    cases hc : groupCovers gr (lineOf r.addr) with
    | false => simp [contribRefused, contribGroup, hg, hc]
    | true => simp [contribRefused, contribGroup, hg, hc, or_assoc]

/-! ## HOLD -/

section Hold

variable {m : Mach} (he : m.ras.errs = []) (ha : m.ras.armed = false)

include he ha

theorem topoPart_setHold (g : Regs) (h : Half) (v : Bool) (l : LineAddr) : topoPart (setHold g h v l m) = topoPart m := by
  unfold setHold
  split
  · dsimp only
    split
    · rfl
    · rw [putFrame_clean he ha]
      exact topoPart_modHalf m h fun _ => rfl
  · rfl

theorem topoPart_refreshHold (g : Regs) (h : Half) (l : LineAddr) : topoPart (refreshHold g h l m) = topoPart m := by
  unfold refreshHold
  split
  · rfl
  · exact topoPart_setHold he ha g h false l

end Hold

theorem drainLine_none {g : Regs} {h : Half} {l : LineAddr} {m : Mach} (hm : ∀ e ∈ (halfAt m h).merge, e.line ≠ l) : drainLine g h l m = m := by
  have hnil : liveMerges (halfAt m h) l = [] := List.filter_eq_nil_iff.mpr fun e he => by simp [hm e he]
  rw [drainLine, hnil, List.foldl_nil]

theorem locate_of_lookup {g : Regs} {m : Mach} {h : Half} {l : LineAddr} {p : Loc} (hl : lookup g m h l = some p) : locate (halfAt m h) l = some p := by
  unfold lookup at hl
  cases hc : locate (halfAt m h) l with
  | none => rw [hc] at hl; exact hl
  | some q =>
    rw [hc] at hl
    cases q with
    | frame w =>
      dsimp only at hl
      split at hl
      · exact hl
      · exact absurd hl (by simp)
    | vb s =>
      dsimp only at hl
      split at hl
      · exact hl
      · exact absurd hl (by simp)

/-- R338: a line in a single-line frame outside the floor is held where it stands. -/
theorem frameAt_holdLine {m : Mach} {h : Half} (he : m.ras.errs = []) (ha : m.ras.armed = false) (g : Regs) (label : Option (BitVec 12)) {l : LineAddr}
    {w : Nat} (hwf : tabWf Frame.free (halfAt m h).frames = true) (hm : ∀ e ∈ (halfAt m h).merge, e.line ≠ l) (hl : lookup g m h l = some (.frame w))
    (hp : (frameAt (halfAt m h) (setIx l) w).packed = false) (hw : 4 ≤ w) :
    frameAt (halfAt (holdLine g h label l m) h) (setIx l) w = { frameAt (halfAt m h) (setIx l) w with hold := true } := by
  have hfloor : ¬ w < Config.floorWays := Nat.not_lt.mpr hw
  have hhold : holdLine g h label l m = setHold g h true l m := by
    simp only [holdLine, drainLine_none hm, hl, hp, hfloor, decide_false, Bool.or_self, Bool.false_eq_true, if_false]
  simp only [hhold, setHold, locate_of_lookup hl, hfloor, decide_false, Bool.and_false, Bool.or_false, beq_iff_eq]
  split
  next heq => rw [← heq]
  next =>
    rw [putFrame_clean he ha, halfAt_modHalf]
    exact tabGet_tabSet_same hwf _ _

/-! ## The end of a result write -/

section Written

variable {m : Mach} {h : Half}

/-- The group once the sectors of a result write have their result. -/
def resultsIn (w : GrpWrite) (gr : Group) : Group :=
  { gr with sectors := w.secs.foldl (fun t k => tabMod GrpSector.none t k fun s => { s with done := true }) gr.sectors,
            writing := gr.writing.erase w.rid }

/-- The slice once a result write has left the half's list and its contribution has completed. -/
def resultEnded (h : Half) (w : GrpWrite) (c : Code) (m : Mach) : Mach :=
  complete w.req (if isDone c then .done else c) 0 (modHalf h (fun hs => { hs with gwrites := hs.gwrites.filter fun x => x.rid != w.rid }) m)

theorem groups_resultEnded (w : GrpWrite) (c : Code) : (halfAt (resultEnded h w c m) h).groups = (halfAt m h).groups := by
  rw [resultEnded, groups_of_part (groupPart_complete _ h _ _ _), halfAt_modHalf]

theorem topoPart_resultEnded (w : GrpWrite) (c : Code) : topoPart (resultEnded h w c m) = topoPart m :=
  (topoPart_blind.complete ..).trans (topoPart_modHalf m h fun _ => rfl)

/-- R343 to R345: the result of a group's sectors is written; with the last one the group closes. -/
theorem groupAt_resultWritten (g : Regs) (c : Code) (he : m.ras.errs = []) (ha : m.ras.armed = false) {w : GrpWrite} {gr : Group}
    (hw : tabWf none (halfAt m h).groups = true) (hws : (halfAt m h).gwrites = [w]) (hgr : groupAt (halfAt m h) (BitVec.ofNat 6 w.gid) = some gr)
    (hin : gr.writing.contains w.rid = true) (hopen : gr.closing = false) :
    groupAt (halfAt (resultWritten g h w.rid c m) h) (BitVec.ofNat 6 w.gid)
      = if groupComplete m h (resultsIn w gr) = true then none else some (resultsIn w gr) := by
  have hgr1 : groupAt (halfAt (resultEnded h w c m) h) (BitVec.ofNat 6 w.gid) = some gr := by
    rw [groupAt, groups_resultEnded]
    exact hgr
  have hw1 : tabWf none (halfAt (resultEnded h w c m) h).groups = true := by rwa [groups_resultEnded]
  have hrw : resultWritten g h w.rid c m
      = if groupComplete (refreshHold g h (lineOf w.req.addr) (setGroup h (BitVec.ofNat 6 w.gid) (some (resultsIn w gr)) (resultEnded h w c m))) h
            (resultsIn w gr) && !(resultsIn w gr).closing
        then closeGroup g h (BitVec.ofNat 6 w.gid)
          (refreshHold g h (lineOf w.req.addr) (setGroup h (BitVec.ofNat 6 w.gid) (some (resultsIn w gr)) (resultEnded h w c m)))
        else refreshHold g h (lineOf w.req.addr) (setGroup h (BitVec.ofNat 6 w.gid) (some (resultsIn w gr)) (resultEnded h w c m)) := by
    unfold resultWritten
    have hgr2 := hgr1
    unfold resultEnded at hgr2
    simp only [hws, List.find?_cons, beq_self_eq_true, hgr2, hin, Bool.not_true, Bool.false_eq_true, if_false]
    rfl
  generalize hm2 : setGroup h (BitVec.ofNat 6 w.gid) (some (resultsIn w gr)) (resultEnded h w c m) = m2 at hrw
  have htopo2 : topoPart m2 = topoPart m := by
    rw [← hm2]
    exact (topoPart_setGroup ..).trans (topoPart_resultEnded w c)
  have hras : m2.ras = m.ras := congrArg (fun x => x.2.1) htopo2
  have htopo3 := (topoPart_refreshHold (m := m2) (hras ▸ he) (hras ▸ ha) g h (lineOf w.req.addr)).trans htopo2
  have hpart3 := groupPart_refreshHold m2 h g h (lineOf w.req.addr)
  have hat2 : groupAt (halfAt m2 h) (BitVec.ofNat 6 w.gid) = some (resultsIn w gr) := by
    rw [← hm2, groupAt_setGroup hw1, if_pos rfl]
  have hw2 : tabWf none (halfAt m2 h).groups = true := by
    rw [← hm2, setGroup, halfAt_modHalf]
    exact tabSet_wf hw1 _ _
  rw [hrw, groupComplete_of_topo htopo3, show (resultsIn w gr).closing = false from hopen, Bool.not_false, Bool.and_true]
  split
  next => rw [groupAt_closeGroup g (by rwa [groups_of_part hpart3]), if_pos rfl]
  next => rw [groupAt_of_part hpart3, hat2]

end Written

end Sys2Proof.Machine
end

section
/-!
The tree walk of a contribution over the sectors that it covers (R341 to R343). Used by the proof of O32.
-/

namespace Sys2Proof.Machine

/-! ## Bytes of a sector -/

theorem extract_or_beRange (b : LineBE) {s t : Nat} (hs : s < 4) (ht : t < 4) :
    (b ||| beRange (64 * s) 64).extractLsb' (64 * t) 64 = if s = t then BitVec.allOnes 64 else b.extractLsb' (64 * t) 64 := by
  have hall : ∀ s t : Fin 4, (beRange (64 * s.val) 64).extractLsb' (64 * t.val) 64 = if s = t then BitVec.allOnes 64 else 0 := by decide
  have h := hall ⟨s, hs⟩ ⟨t, ht⟩
  simp only [Fin.mk.injEq] at h
  rw [BitVec.extractLsb'_or, h]
  split
  · exact BitVec.or_allOnes
  · exact BitVec.or_zero

theorem contribSectors_lt (r : Req) {s : Nat} (hs : s ∈ contribSectors r) : s < 4 := by
  unfold contribSectors at hs
  split at hs
  · have hall : ∀ s ∈ [0, 1, 2, 3], s < 4 := by decide
    exact hall s hs
  · rw [List.mem_singleton.mp hs]
    exact (r.addr.extractLsb' 6 2).isLt

theorem contribSectors_nodup (r : Req) : (contribSectors r).Nodup := by
  unfold contribSectors
  split
  · decide
  · exact List.nodup_singleton _

/-! ## The walk over the sectors -/

/-- What a walk gathers: the records, the sectors that are complete, the bytes of their results and their enables. -/
abbrev Gathered := Tab GrpSector × List Nat × Line × LineBE

section Walk

variable (op fmt : Nat) (key : Nat → Nat) (walked : Nat → GrpSector × Option (List Partial))

/-- The bytes of a line once a sector has been walked. -/
def resultData (d : Line) (s : Nat) : Line := ((walked s).2.map fun root => withSector d s (resultSector op fmt root)).getD d

/-- The enables of a result write once a sector has been walked. -/
def resultEnables (b : LineBE) (s : Nat) : LineBE := if (walked s).2.isSome then b ||| beRange (64 * s) 64 else b

/-- The records of a group once the sectors have been walked. -/
def walkedSectors (ss : List Nat) (t : Tab GrpSector) : Tab GrpSector :=
  ss.foldl (fun t s => tabMod GrpSector.none t (key s) fun _ => (walked s).1) t

/-- The sectors whose tree is complete. -/
def readySectors (ss : List Nat) : List Nat := ss.filter fun s => (walked s).2.isSome

/-- What a sector adds to what a walk has gathered. -/
def walkSector (n : Nat) (idx : BitVec 8) (data : Line) (acc : Gathered) (s : Nat) : Gathered :=
  let c := contribute op fmt n idx (sectorOf data s) (tabGet GrpSector.none acc.1 (key s))
  let t := tabSet GrpSector.none acc.1 (key s) c.1
  match c.2 with
  | some root => (t, acc.2.1 ++ [key s], withSector acc.2.2.1 s (resultSector op fmt root), acc.2.2.2 ||| beRange (64 * s) 64)
  | none => (t, acc.2)

/-- Sectors of different keys are walked independently of each other. -/
theorem walkSectors_eq {n : Nat} {idx : BitVec 8} {data : Line} (ss : List Nat) (acc : Gathered) (hn : (ss.map key).Nodup)
    (hw : tabWf GrpSector.none acc.1 = true)
    (hc : ∀ s ∈ ss, contribute op fmt n idx (sectorOf data s) (tabGet GrpSector.none acc.1 (key s)) = walked s) :
    ss.foldl (walkSector op fmt key n idx data) acc = (walkedSectors key walked ss acc.1, acc.2.1 ++ (readySectors walked ss).map key,
      ss.foldl (resultData op fmt walked) acc.2.2.1, ss.foldl (resultEnables walked) acc.2.2.2) := by
  induction ss generalizing acc with
  | nil => simp [walkedSectors, readySectors]
  | cons s ss ih =>
    obtain ⟨hs, hn⟩ := List.nodup_cons.mp hn
    have hstep : walkSector op fmt key n idx data acc s = (tabMod GrpSector.none acc.1 (key s) fun _ => (walked s).1,
        acc.2.1 ++ (readySectors walked [s]).map key, resultData op fmt walked acc.2.2.1 s, resultEnables walked acc.2.2.2 s) := by
      unfold walkSector resultData resultEnables readySectors
      rw [hc s List.mem_cons_self]
      cases hroot : (walked s).2 <;> simp [hroot, tabMod]
    rw [List.foldl_cons, hstep, ih _ hn (tabMod_wf hw (key s) fun _ => (walked s).1)]
    · have hready : readySectors walked (s :: ss) = readySectors walked [s] ++ readySectors walked ss :=
        List.filter_append (l₁ := [s]) ss
      rw [hready, List.map_append, List.append_assoc]
      rfl
    · intro x hx
      have hne : key x ≠ key s := fun e => hs (e ▸ List.mem_map_of_mem hx)
      rw [tabGet_tabMod hw, if_neg hne]
      exact hc x (List.mem_cons_of_mem s hx)

/-- The record of each sector after the walk. -/
theorem tabGet_walkedSectors (ss : List Nat) {t : Tab GrpSector} (hn : (ss.map key).Nodup) (hw : tabWf GrpSector.none t = true) :
    (∀ s ∈ ss, tabGet GrpSector.none (walkedSectors key walked ss t) (key s) = (walked s).1)
    ∧ ∀ k, k ∉ ss.map key → tabGet GrpSector.none (walkedSectors key walked ss t) k = tabGet GrpSector.none t k :=
  tabGet_pass key (fun s _ => (walked s).1) ss hn hw

theorem sectorOf_step (d : Line) (y : Nat) {s : Nat} (hs : s < 4) : sectorOf (resultData op fmt walked d y) s
    = if y = s then ((walked s).2.map (resultSector op fmt)).getD (sectorOf d s) else sectorOf d s := by
  unfold resultData
  by_cases h : y = s
  · subst h
    rw [if_pos rfl]
    cases (walked y).2 with
    | none => rfl
    | some root => exact (sectorOf_withSector d _ hs).trans (if_pos rfl)
  · rw [if_neg h]
    cases (walked y).2 with
    | none => rfl
    | some root => exact (sectorOf_withSector d _ hs).trans (if_neg h)

theorem sectorOf_resultData (ss : List Nat) (d : Line) {s : Nat} (hs : s < 4) : sectorOf (ss.foldl (resultData op fmt walked) d) s
    = if s ∈ ss then ((walked s).2.map (resultSector op fmt)).getD (sectorOf d s) else sectorOf d s := by
  induction ss generalizing d with
  | nil => rfl
  | cons y ss ih =>
    rw [List.foldl_cons, ih, sectorOf_step op fmt walked d y hs]
    by_cases hy : y = s
    · subst hy
      rw [if_pos rfl, if_pos List.mem_cons_self]
      cases (walked y).2 <;> simp
    · rw [if_neg hy]
      refine if_congr ?_ rfl rfl
      rw [List.mem_cons]
      exact (or_iff_right (Ne.symm hy)).symm

theorem extract_step (b : LineBE) {y t : Nat} (hy : y < 4) (ht : t < 4) : (resultEnables walked b y).extractLsb' (64 * t) 64
    = if y = t ∧ (walked t).2.isSome = true then BitVec.allOnes 64 else b.extractLsb' (64 * t) 64 := by
  unfold resultEnables
  split
  next hr =>
    rw [extract_or_beRange b hy ht]
    refine if_congr ⟨fun h => ⟨h, h ▸ hr⟩, fun h => h.1⟩ rfl rfl
  next hr => rw [if_neg fun h : y = t ∧ (walked t).2.isSome = true => hr (h.1 ▸ h.2)]

theorem extract_resultEnables (ss : List Nat) (hlt : ∀ s ∈ ss, s < 4) (b : LineBE) {t : Nat} (ht : t < 4) :
    (ss.foldl (resultEnables walked) b).extractLsb' (64 * t) 64
      = if t ∈ readySectors walked ss then BitVec.allOnes 64 else b.extractLsb' (64 * t) 64 := by
  induction ss generalizing b with
  | nil => rfl
  | cons y ss ih =>
    rw [List.foldl_cons, ih (fun s hs => hlt s (List.mem_cons_of_mem y hs)), extract_step walked b (hlt y List.mem_cons_self) ht]
    simp only [readySectors, List.mem_filter, List.mem_cons]
    by_cases h1 : t ∈ ss ∧ (walked t).2.isSome = true
    · rw [if_pos h1, if_pos ⟨.inr h1.1, h1.2⟩]
    · rw [if_neg h1]
      refine if_congr ⟨fun h => ⟨.inl h.1.symm, h.2⟩, fun h => ⟨?_, h.2⟩⟩ rfl rfl
      exact (h.1.resolve_right fun hm => h1 ⟨hm, h.2⟩).symm

end Walk

/-! ## A contribution walks -/

section Contribution

/-- The record of a sector of the line of a contribution, in its group. -/
def sectorKey (r : Req) (gr : Group) (s : Nat) : Nat := 4 * ((lineOf r.addr).toNat - gr.base.toNat / 256) + s

/-- The walk of a contribution in a sector. -/
def sectorWalk (r : Req) (gr : Group) (s : Nat) : GrpSector × Option (List Partial) :=
  contribute gr.op.toNat gr.fmt.toNat (gr.nm1.toNat + 1) (r.aux.extractLsb' 8 8) (sectorOf r.data s)
    (tabGet GrpSector.none gr.sectors (sectorKey r gr s))

/-- The group once a contribution has been walked. -/
def walkedGroup (r : Req) (gr : Group) : Group :=
  { gr with sectors := walkedSectors (sectorKey r gr) (sectorWalk r gr) (contribSectors r) gr.sectors }

/-- The sectors that a contribution completes. -/
def contribReady (r : Req) (gr : Group) : List Nat := readySectors (sectorWalk r gr) (contribSectors r)

/-- The result write of a contribution. -/
def resultWrite (h : Half) (r : Req) (gr : Group) (rid : Nat) : Req :=
  { r with
    id := rid, origin := .grp h rid, op := .wr, addr := lineBase (lineOf r.addr), size := 8, hint := 0, aux := 0
    inst := gr.inst, label := gr.label, optag := gr.optag
    data := (contribSectors r).foldl (resultData gr.op.toNat gr.fmt.toNat (sectorWalk r gr)) 0
    be := (contribSectors r).foldl (resultEnables (sectorWalk r gr)) 0
    bound := none, agent := none, shared := false, passed := false }

theorem sectorKey_nodup (r : Req) (gr : Group) : ((contribSectors r).map (sectorKey r gr)).Nodup :=
  (contribSectors_nodup r).map fun _ _ h => Nat.add_left_cancel h

/-- The slice in which a contribution has stored the state of its line. -/
def stateStored (g : Regs) (h : Half) (r : Req) (gr : Group) (m : Mach) : Mach := storeState g h (gidOf r) (walkedGroup r gr) (lineOf r.addr) m

/-- The slice from which the result write of a contribution is ordered. -/
def writeStarted (g : Regs) (h : Half) (r : Req) (gr : Group) (m : Mach) : Mach :=
  let m1 := stateStored g h r gr m
  modHalf h (fun hs => { hs with gwrites := hs.gwrites ++ [⟨m1.nextId, (gidOf r).toNat, r, (contribReady r gr).map (sectorKey r gr)⟩] })
    (setGroup h (gidOf r) (some { walkedGroup r gr with writing := gr.writing ++ [m1.nextId] }) { m1 with nextId := m1.nextId + 1 })

variable (g : Regs) (h : Half) (r : Req) {gr : Group} (m : Mach) (hw : tabWf GrpSector.none gr.sectors = true)

include hw

/-- R342, R343: a contribution completes, or the result of the sectors that it completes is written first. -/
theorem contribWalk_eq : contribWalk g h r gr m
    = if contribReady r gr = [] then complete r .done 0 (setGroup h (gidOf r) (some (walkedGroup r gr)) (stateStored g h r gr m))
      else { writeStarted g h r gr m with
        again := ⟨h, resultWrite h r gr (stateStored g h r gr m).nextId, .order⟩ :: (writeStarted g h r gr m).again } := by
  have hfold := walkSectors_eq gr.op.toNat gr.fmt.toNat (sectorKey r gr) (sectorWalk r gr) (n := gr.nm1.toNat + 1) (idx := r.aux.extractLsb' 8 8)
    (data := r.data) (contribSectors r) (gr.sectors, [], 0, 0) (sectorKey_nodup r gr) hw fun _ _ => rfl
  unfold contribWalk
  dsimp only
  generalize hf : List.foldl _ _ (contribSectors r) = res
  have hres := hf.symm.trans hfold
  rw [hres]
  dsimp only
  by_cases hr : contribReady r gr = []
  · rw [if_pos hr, show readySectors (sectorWalk r gr) (contribSectors r) = [] from hr]
    rfl
  · rw [if_neg hr, if_neg]
    · rfl
    · simpa [contribReady] using hr

omit hw in
/-- A contribution whose line is here, and nothing of whose state is away or lost, walks at once. -/
theorem contribOp_walks (he : m.ras.errs = []) (hgr : contribGroup (halfAt m h) r = some gr) (hlost : lineLost (halfAt m h) (lineOf r.addr) = false)
    (hgl : gr.lost.contains (lineOf r.addr) = false) (hsp : gr.spilled = []) (hout : (halfAt m h).resOut = []) :
    contribOp g h r m = contribWalk g h r gr m := by
  have hread : readState g h (gidOf r) gr (lineOf r.addr) m = (false, gr, m) := by
    simp only [readState, readFlips_clean he, flipState, List.isEmpty_nil, if_true, Bool.or_self]
  simp only [contribOp, hgr, hlost, hgl, hout, hread, hsp, Bool.or_self, List.any_nil, Bool.false_eq_true, if_false]

/-- The record of each sector once a contribution has been walked. -/
theorem tabGet_walkedGroup (k : Nat) :
    (∀ s, (contribSectors r).find? (fun s => sectorKey r gr s == k) = some s →
      tabGet GrpSector.none (walkedGroup r gr).sectors k = (sectorWalk r gr s).1)
    ∧ ((contribSectors r).find? (fun s => sectorKey r gr s == k) = none →
      tabGet GrpSector.none (walkedGroup r gr).sectors k = tabGet GrpSector.none gr.sectors k) := by
  obtain ⟨hin, hout⟩ := tabGet_walkedSectors (sectorKey r gr) (sectorWalk r gr) (contribSectors r) (sectorKey_nodup r gr) hw
  refine ⟨fun s hs => ?_, fun hs => ?_⟩
  · have hp := List.find?_some hs
    have hk : sectorKey r gr s = k := beq_iff_eq.mp hp
    exact hk ▸ hin s (List.mem_of_find?_eq_some hs)
  · refine hout k fun hk => ?_
    obtain ⟨s, hmem, hsk⟩ := List.mem_map.mp hk
    exact List.find?_eq_none.mp hs s hmem (beq_iff_eq.mpr hsk)

omit hw in
theorem groups_stateStored : groupPart (stateStored g h r gr m) h = groupPart m h := groupPart_storeState ..

section Stored

variable {m}
variable (hg : tabWf none (halfAt m h).groups = true)

include hg

omit hw in
theorem groupAt_walked (x : Option Group) : groupAt (halfAt (setGroup h (gidOf r) x (stateStored g h r gr m)) h) (gidOf r) = x := by
  rw [groupAt_setGroup (by rwa [groups_of_part (groups_stateStored g h r m)]), if_pos rfl]

omit hw in
theorem groupAt_writeStarted : groupAt (halfAt (writeStarted g h r gr m) h) (gidOf r)
    = some { walkedGroup r gr with writing := gr.writing ++ [(stateStored g h r gr m).nextId] } := by
  unfold writeStarted
  dsimp only
  rw [halfAt_modHalf]
  have hwf : tabWf none (halfAt (stateStored g h r gr m) h).groups = true := by rwa [groups_of_part (groups_stateStored g h r m)]
  exact (groupAt_setGroup (m := { stateStored g h r gr m with nextId := (stateStored g h r gr m).nextId + 1 }) hwf (gidOf r) (gidOf r) _).trans
    (if_pos rfl)

end Stored

omit hw in
theorem gwrites_writeStarted : (halfAt (writeStarted g h r gr m) h).gwrites
    = (halfAt m h).gwrites ++ [⟨(stateStored g h r gr m).nextId, (gidOf r).toNat, r, (contribReady r gr).map (sectorKey r gr)⟩] := by
  unfold writeStarted
  dsimp only
  rw [halfAt_modHalf]
  dsimp only
  rw [gwrites_setGroup]
  exact congrArg (· ++ _) (gwrites_of_part (groups_stateStored g h r m))

end Contribution

section Result

variable (r : Req) (gr : Group)

/-- The enables of a result write are those of the sectors that are complete. -/
theorem resultWrite_be (h : Half) (rid s : Nat) (hs : s < 4) : (resultWrite h r gr rid).be.extractLsb' (64 * s) 64
    = if s ∈ contribReady r gr then BitVec.allOnes 64 else 0 := by
  refine (extract_resultEnables (sectorWalk r gr) (contribSectors r) (fun _ => contribSectors_lt r) 0 hs).trans (if_congr Iff.rfl rfl ?_)
  exact BitVec.extractLsb'_zero

/-- The bytes of a result write are the results of the sectors that are complete. -/
theorem resultWrite_data (h : Half) (rid : Nat) {s : Nat} (hs : s ∈ contribReady r gr) {root : List Partial} (hroot : (sectorWalk r gr s).2 = some root) :
    sectorOf (resultWrite h r gr rid).data s = resultSector gr.op.toNat gr.fmt.toNat root := by
  have hmem : s ∈ contribSectors r := (List.mem_filter.mp hs).1
  refine (sectorOf_resultData gr.op.toNat gr.fmt.toNat (sectorWalk r gr) (contribSectors r) 0 (contribSectors_lt r hmem)).trans ?_
  rw [if_pos hmem, hroot]
  rfl

end Result

end Sys2Proof.Machine
end

section
/-!
The order point of a half at rest (R201, R220): what a request meets there where nothing keeps it from its turn.
-/

namespace Sys2Proof.Machine

/-- The slice once the pointer of the order point has moved past the source of a request (R199). -/
def pointMoved (h : Half) (r : Req) (m : Mach) : Mach := modHalf h (fun hs => { hs with ordPtr := nextPtr hs.ordPtr r }) m

section Moved

variable (h : Half) (r : Req) (m : Mach)

theorem groupPart_pointMoved : groupPart (pointMoved h r m) h = groupPart m h := groupPart_modHalf m h h fun _ => ⟨rfl, rfl, rfl⟩

theorem topoPart_pointMoved : topoPart (pointMoved h r m) = topoPart m := topoPart_modHalf m h fun _ => rfl

theorem groups_pointMoved : (halfAt (pointMoved h r m) h).groups = (halfAt m h).groups := groups_of_part (groupPart_pointMoved h r m)

theorem halfAt_pointMoved : halfAt (pointMoved h r m) h = { halfAt m h with ordPtr := nextPtr (halfAt m h).ordPtr r } := halfAt_modHalf ..

theorem dirOf_pointMoved (l : LineAddr) : dirOf (halfAt (pointMoved h r m) h) l = dirOf (halfAt m h) l := by
  rw [halfAt_pointMoved]
  rfl

theorem orderReady_pointMoved {g : Regs} {l : LineAddr} (hr : OrderReady g m h l) : OrderReady g (pointMoved h r m) h l where
  errs := hr.errs
  armed := hr.armed
  safe := by
    rw [halfAt_pointMoved]
    exact hr.safe
  alive := hr.alive
  entry := dirOf_pointMoved h r m l ▸ hr.entry
  quiet := hr.quiet

end Moved

/-! ## Passing the order point -/

section Point

variable {g : Regs} {m : Mach} {h : Half}

/-- While profiling is off, a request is not counted. -/
theorem profPoint_off (hp : g.pfEn = 0) (h : Half) (r : Req) (m : Mach) : profPoint g h r m = m := by
  have hno : ∀ evt w n (m : Mach), profile g h evt w n m = m := fun evt w n m => profile_off hp h evt w n m
  unfold profPoint
  split
  · rfl
  · dsimp only
    simp only [hno]
    split <;> split <;> rfl

theorem logPage_off (hd : g.dlEn = false) (r : Req) (m : Mach) : logPage g r m = m := by
  simp [logPage, loggedPage, hd]

/-- The request once it has passed its order point uncounted. -/
def passedReq (r : Req) : Req := { r with bound := none, passed := true }

/-- A request that counts nothing passes its order point: an atomic trains its counter. -/
theorem passPoint_quiet (hp : g.pfEn = 0) (hd : g.dlEn = false) {r : Req} (hr : r.passed = false)
    (hb : countedBytes r = 0 ∨ bindingOf g r.addr = none) : passPoint g h r m
    = (passedReq r, if r.op == .atomR || r.op == .atomN then trainPred h r m else m) := by
  have hbound : ∀ b : Bool, (b = true → countedBytes r ≠ 0) → (if b then bindingOf g r.addr else none) = none := by
    intro b hbt
    cases b with
    | false => rfl
    | true => exact hb.resolve_left (hbt rfl)
  unfold passPoint
  rw [if_neg (by rw [hr]; decide)]
  dsimp only
  rw [hbound]
  · rw [reportBytes, profPoint_off hp, logPage_off hd]
    rfl
  · intro hc
    split at hc
    · exact absurd hc (by decide)
    · exact absurd hc (by decide)
    · exact bne_iff_ne.mp hc

/-- Without the dead and the departed a clean only settles the state. -/
theorem cleanEntry_zero (e : DirEntry) : cleanEntry 0 0 e = settleState e := by
  have ha : e.agents &&& 18446744073709551615#64 = e.agents := BitVec.and_allOnes
  have hc : e.chips &&& 4294967295#32 = e.chips := BitVec.and_allOnes
  simp [cleanEntry, ha, hc]

/-- Nobody has died and no package has gone: the entry of the line stays as it is. -/
theorem cleanLine_ready {l : LineAddr} (hr : OrderReady g m h l) : cleanLine g h l m = m := by
  unfold cleanLine
  cases hd : dirWay (halfAt m h) l with
  | none => rfl
  | some w =>
    have hent : dirOf (halfAt m h) l = dirSlot (halfAt m h) (dirSet l) w := by
      unfold dirOf
      rw [hd]
    obtain ⟨hdead, hgone⟩ := hr.alive
    have hsame : cleanEntry m.coh.dead m.coh.gone (dirSlot (halfAt m h) (dirSet l) w) = dirSlot (halfAt m h) (dirSet l) w := by
      rw [hdead, hgone, ← hent, cleanEntry_zero, hr.entry.settled]
    simp only [hsame, beq_self_eq_true, if_true]

theorem readMerges_clean (he : m.ras.errs = []) (l : LineAddr) (log : Bool) : readMerges g h l log m = (false, m) := by
  simp only [readMerges, he, List.isEmpty_nil, if_true]

end Point

end Sys2Proof.Machine
end

section
/-!
GRP_OPEN, GRP_CONTRIB and GRP_ABORT at the order point of their half (R338, R341, R346). Settles O32.
-/

namespace Sys2Proof.Machine

/-! ## GRP_OPEN -/

section Open

variable {g : Regs} {h : Half} {r : Req} {m : Mach}

theorem openNeed_pointMoved : openNeed (pointMoved h r m) h r = openNeed m h r := by
  simp only [openNeed, openLines, rangeLines_of_topo (topoPart_pointMoved h r m)]

theorem openLines_pointMoved : openLines (pointMoved h r m) h r = openLines m h r := by
  simp only [openLines, rangeLines_of_topo (topoPart_pointMoved h r m)]

theorem groupAt_pointMoved (i : BitVec 6) : groupAt (halfAt (pointMoved h r m) h) i = groupAt (halfAt m h) i :=
  groupAt_of_part (groupPart_pointMoved h r m) i

theorem groupReserved_pointMoved : groupReserved (halfAt (pointMoved h r m) h) = groupReserved (halfAt m h) := by
  rw [groupReserved, groups_pointMoved, groupReserved]

/-- A group opcode that its order point refuses. -/
theorem orderNow_group_refused (ho : r.op = .grpOpen ∨ r.op = .grpAbort) {c : Code} (hc : grpRefusal g (pointMoved h r m) h r = some c) :
    orderNow g h r m = refuse r c (pointMoved h r m) := by
  have hp : pointRefusal g (pointMoved h r m) h r = some c := by
    rcases ho with ho | ho <;> simp only [pointRefusal, ho, hc]
  unfold pointMoved at hp ⊢
  rcases ho with ho | ho <;> simp only [orderNow, ho, hp]

theorem orderNow_open (hp : g.pfEn = 0) (ho : r.op = .grpOpen) (hc : grpRefusal g (pointMoved h r m) h r = none) :
    orderNow g h r m = grpOpenOp g h r (pointMoved h r m) := by
  have hr : pointRefusal g (pointMoved h r m) h r = none := by simp only [pointRefusal, ho, hc]
  unfold pointMoved at hr ⊢
  simp only [orderNow, ho, hr, profPoint_off hp, beq_self_eq_true, if_true]

theorem orderNow_abort (hp : g.pfEn = 0) (ho : r.op = .grpAbort) (hc : grpRefusal g (pointMoved h r m) h r = none) :
    orderNow g h r m = grpAbortOp h r (pointMoved h r m) := by
  have hr : pointRefusal g (pointMoved h r m) h r = none := by simp only [pointRefusal, ho, hc]
  have hne : (Op.grpAbort == Op.grpOpen) = false := by decide
  unfold pointMoved at hr ⊢
  simp only [orderNow, ho, hr, profPoint_off hp, hne, beq_self_eq_true, Bool.false_eq_true, if_false, if_true]

theorem grpRefusal_open (ho : r.op = .grpOpen) : grpRefusal g (pointMoved h r m) h r
    = if (groupAt (halfAt m h) (gidOf r)).isSome then some .errRefused
      else if 64 ≤ (halfAt m h).groups.length ∨ groupStorage g h < groupReserved (halfAt m h) + openNeed m h r then some .errOverflow
      else none := by
  have hne : (Op.grpOpen == Op.grpAbort) = false := by decide
  simp only [grpRefusal, ho, hne, Bool.false_eq_true, if_false, groupAt_pointMoved, groups_pointMoved, groupReserved_pointMoved, openNeed_pointMoved,
    Bool.or_eq_true, decide_eq_true_eq, ge_iff_le]

theorem holdLine_absent {l : LineAddr} {label : Option (BitVec 12)} (hl : locate (halfAt m h) l = none) (hm : ∀ e ∈ (halfAt m h).merge, e.line ≠ l) :
    holdLine g h label l m = m := by
  have hlook : lookup g m h l = none := by simp only [lookup, hl]
  simp only [holdLine, drainLine_none hm, hlook]

/-- A fold of steps that change nothing. -/
theorem foldl_eq_self {α β : Type} {f : β → α → β} {b : β} {l : List α} (hf : ∀ x ∈ l, f b x = b) : l.foldl f b = b := by
  induction l with
  | nil => rfl
  | cons x l ih => rw [List.foldl_cons, hf x List.mem_cons_self, ih fun y hy => hf y (List.mem_cons_of_mem x hy)]

/-- A new entry of a table stands between those of lower and of higher keys. -/
theorem tabSet_new {α : Type} [DecidableEq α] {d v : α} (hv : v ≠ d) {lo : Nat} {t : Tab α} (hw : tabWfFrom d lo t = true) {k : Nat}
    (hk : tabGet d t k = d) : ∃ a b, t = a ++ b ∧ tabSet d t k v = a ++ (k, v) :: b := by
  induction t generalizing lo with
  | nil => exact ⟨[], [], rfl, by simp [tabSet, hv]⟩
  | cons y t ih =>
    obtain ⟨j, w⟩ := y
    simp only [tabWfFrom, Bool.and_eq_true, decide_eq_true_eq] at hw
    obtain ⟨⟨-, hwd⟩, ht⟩ := hw
    by_cases hkj : k = j
    · exact absurd (by simpa [tabGet, hkj] using hk) hwd
    have hbeq : (k == j) = false := beq_eq_false_iff_ne.mpr hkj
    by_cases hlt : k < j
    · exact ⟨[], (j, w) :: t, rfl, by simp [tabSet, hkj, hlt, hv]⟩
    · obtain ⟨a, b, hab, hset⟩ := ih ht (by simpa [tabGet, hbeq, hlt] using hk)
      exact ⟨(j, w) :: a, b, by rw [hab, List.cons_append], by simp [tabSet, hkj, hlt, hset]⟩

/-- No group of a list waits for moves. -/
def NoneOpening (l : Tab (Option Group)) : Prop := ∀ x ∈ l, ∀ gr, x.2 = some gr → gr.opening = none

/-- The one group that waits for moves completes its GRP_OPEN when none of its lines moves. -/
theorem openingDone_one {a b : Tab (Option Group)} {k : Nat} {gr : Group} (hg : (halfAt m h).groups = a ++ (k, some gr) :: b) (ha : NoneOpening a)
    (hb : NoneOpening b) (ho : gr.opening = some r) (hm : ∀ v ∈ (halfAt m h).moves, groupCovers gr v.line = false) :
    openingDone h m = complete r .done 0 (setGroup h (BitVec.ofNat 6 k) (some { gr with opening := none }) m) := by
  have hany : ((halfAt m h).moves.any fun y => groupCovers gr y.line) = false := by
    rw [List.any_eq_false]
    exact fun v hv => by simp [hm v hv]
  unfold openingDone
  rw [hg, List.foldl_append, foldl_eq_self (l := a), List.foldl_cons]
  · simp only [ho, hany, Bool.false_eq_true, if_false]
    refine foldl_eq_self fun x hx => ?_
    cases hv : x.2 with
    | none => rfl
    | some y => simp only [hb x hx y hv]
  · intro x hx
    cases hv : x.2 with
    | none => rfl
    | some y => simp only [ha x hx y hv]

/-- R338: a GRP_OPEN that is accepted, none of whose lines is resident or moves, completes at once. -/
theorem grpOpenOp_completes (hw : tabWf none (halfAt m h).groups = true) (hfree : groupAt (halfAt m h) (gidOf r) = none)
    (hl : ∀ l ∈ openLines m h r, locate (halfAt m h) l = none ∧ ∀ e ∈ (halfAt m h).merge, e.line ≠ l)
    (hm : ∀ v ∈ (halfAt m h).moves, groupCovers (newGroup r (openNeed m h r)) v.line = false) (hno : NoneOpening (halfAt m h).groups) :
    grpOpenOp g h r m = complete r .done 0 (setGroup h (gidOf r) (some { newGroup r (openNeed m h r) with opening := none })
      (setGroup h (gidOf r) (some (newGroup r (openNeed m h r))) m)) := by
  obtain ⟨a, b, hab, hset⟩ := tabSet_new (v := some (newGroup r (openNeed m h r))) (by simp) hw hfree
  have hlines : openLines (setGroup h (gidOf r) (some (newGroup r (openNeed m h r))) m) h r = openLines m h r := by
    simp only [openLines, rangeLines_of_topo (topoPart_setGroup m h _ _)]
  unfold grpOpenOp
  dsimp only
  rw [hlines, foldl_eq_self fun l hmem => ?_, openingDone_one (r := r) (a := a) (b := b) (k := (gidOf r).toNat)
    (gr := newGroup r (openNeed m h r)) ?_ ?_ ?_ rfl ?_, BitVec.ofNat_toNat, BitVec.setWidth_eq]
  · rw [setGroup, halfAt_modHalf]
    exact hset
  · exact fun x hx => hno x (hab ▸ List.mem_append_left b hx)
  · exact fun x hx => hno x (hab ▸ List.mem_append_right a hx)
  · rw [setGroup, halfAt_modHalf]
    exact hm
  · refine holdLine_absent ?_ ?_
    · rw [setGroup, halfAt_modHalf]
      exact (hl l hmem).1
    · rw [setGroup, halfAt_modHalf]
      exact (hl l hmem).2

end Open

/-! ## GRP_ABORT -/

section Abort

variable {g : Regs} {h : Half} {r : Req} {m : Mach}

theorem grpRefusal_abort (ho : r.op = .grpAbort) : grpRefusal g (pointMoved h r m) h r
    = if (openGroup (halfAt m h) (gidOf r)).isNone then some .errRefused else none := by
  have hopen : openGroup (halfAt (pointMoved h r m) h) (gidOf r) = openGroup (halfAt m h) (gidOf r) := by
    rw [openGroup, groupAt_pointMoved, openGroup]
  simp only [grpRefusal, ho, beq_self_eq_true, if_true, hopen]

theorem groupAt_of_openGroup {hs : HalfSt} {gid : BitVec 6} {gr : Group} (h : openGroup hs gid = some gr) : groupAt hs gid = some gr :=
  (Option.filter_eq_some_iff.mp h).1

theorem grpAbortOp_eq {gr : Group} (hg : groupAt (halfAt m h) (gidOf r) = some gr) :
    grpAbortOp h r m = modHalf h (fun hs => { hs with gaborts := hs.gaborts ++ [(gidOf r, r)] })
      (setGroup h (gidOf r) (some { gr with closing := true }) m) := by
  simp only [grpAbortOp, abortGroup, hg]

end Abort

/-! ## GRP_CONTRIB -/

section Contrib

variable {g : Regs} {h : Half} {r : Req} {m : Mach}

theorem contribRefused_pointMoved : contribRefused (halfAt (pointMoved h r m) h) r = contribRefused (halfAt m h) r := by
  simp only [contribRefused, contribGroup, groupAt_pointMoved]

theorem wantsEntry_contrib (ho : r.op = .grpContrib) : wantsEntry m h r = false := by
  simp only [wantsEntry, ho, Bool.false_and]

theorem orderNow_contrib_refused (ho : r.op = .grpContrib) (hr : OrderReady g m h (lineOf r.addr)) (hc : contribRefused (halfAt m h) r = true) :
    orderNow g h r m = refuse r .errRefused (pointMoved h r m) := by
  have hr1 := orderReady_pointMoved h r m hr
  have hline : orderNow g h r m = orderLine g h r (pointMoved h r m) := by
    simp only [orderNow, ho]
    rfl
  have hp : pointRefusal g (pointMoved h r m) h r = some .errRefused := by
    simp only [pointRefusal, ho, contribRefused_pointMoved, hc, if_true]
  rw [hline]
  simp only [orderLine, readLookup_clean hr1.errs, cleanLine_ready hr1, readMerges_clean hr1.errs, hp, wantsEntry_contrib ho, Bool.and_false,
    Bool.false_and, Bool.false_eq_true, if_false]

theorem orderNow_contrib (ho : r.op = .grpContrib) (hr : OrderReady g m h (lineOf r.addr)) (hpass : r.passed = false)
    (hc : contribRefused (halfAt m h) r = false) :
    orderNow g h r m = dataPhase g h (passedReq r) (acceptContrib h (passedReq r) (pointMoved h r m)) := by
  have hr1 := orderReady_pointMoved h r m hr
  have hline : orderNow g h r m = orderLine g h r (pointMoved h r m) := by
    simp only [orderNow, ho]
    rfl
  have hp : pointRefusal g (pointMoved h r m) h r = none := by
    simp only [pointRefusal, ho, contribRefused_pointMoved, hc, Bool.false_eq_true, if_false]
  have hpp : passPoint g h r (pointMoved h r m) = (passedReq r, pointMoved h r m) := by
    have hq := passPoint_quiet (g := g) (m := pointMoved h r m) (h := h) hr.quiet.1 hr.quiet.2 hpass (.inl (by simp only [countedBytes, ho]))
    have hne : (r.op == .atomR || r.op == .atomN) = false := by rw [ho]; decide
    rw [hq, hne]
    rfl
  have hends : lostEnds (passedReq r).op = false := by
    rw [show (passedReq r).op = .grpContrib from ho]
    rfl
  rw [hline]
  simp only [orderLine, readLookup_clean hr1.errs, cleanLine_ready hr1, readMerges_clean hr1.errs, hp, hpp, wantsEntry_contrib ho, hr1.safe, hends]
  simp [ho, passedReq]

/-- The records of a group once a contribution has entered them (R341). -/
def arrivedSectors (r : Req) (gr : Group) : Tab GrpSector :=
  (contribSectors r).foldl (fun t s => tabMod GrpSector.none t (sectorKey r gr s) fun x =>
    { x with arrived := x.arrived ||| (1#256 <<< (r.aux.extractLsb' 8 8).toNat) }) gr.sectors

/-- What a contribution that is not refused finds (R341, R345). -/
theorem contribGroup_of_accepted (hc : contribRefused (halfAt m h) r = false) : ∃ gr, contribGroup (halfAt m h) r = some gr
    ∧ groupAt (halfAt m h) (gidOf r) = some gr ∧ groupCovers gr (lineOf r.addr) = true ∧ gr.closing = false
    ∧ (r.aux.extractLsb' 8 8).toNat ≤ gr.nm1.toNat := by
  unfold contribRefused at hc
  cases hg : contribGroup (halfAt m h) r with
  | none =>
    rw [hg] at hc
    exact Bool.noConfusion (show true = false from hc)
  | some gr =>
    rw [hg] at hc
    simp only [Bool.or_eq_false_iff, decide_eq_false_iff_not, gt_iff_lt, Nat.not_lt] at hc
    obtain ⟨⟨hcl, hidx⟩, -⟩ := hc
    have hat : groupAt (halfAt m h) (gidOf r) = some gr ∧ groupCovers gr (lineOf r.addr) = true := by
      unfold contribGroup at hg
      cases hx : groupAt (halfAt m h) (gidOf r) with
      | none => simp [hx] at hg
      | some y =>
        simp only [hx, Option.ite_none_right_eq_some, Option.some.injEq] at hg
        obtain ⟨hcov, rfl⟩ := hg
        exact ⟨rfl, hcov⟩
    exact ⟨gr, rfl, hat.1, hat.2, hcl, hidx⟩

theorem acceptContrib_eq {gr : Group} (hg : contribGroup (halfAt m h) r = some gr) :
    acceptContrib h (passedReq r) (pointMoved h r m) = setGroup h (gidOf r) (some { gr with sectors := arrivedSectors r gr }) (pointMoved h r m) := by
  have hg1 : contribGroup (halfAt (pointMoved h r m) h) (passedReq r) = some gr := by
    rw [← hg, contribGroup, contribGroup, show gidOf (passedReq r) = gidOf r from rfl, groupAt_pointMoved]
    rfl
  unfold acceptContrib
  rw [hg1]
  rfl

theorem tabGet_arrivedSectors {gr : Group} (hw : tabWf GrpSector.none gr.sectors = true) (k : Nat) :
    tabGet GrpSector.none (arrivedSectors r gr) k
    = if ∃ s ∈ contribSectors r, k = sectorKey r gr s then
        { tabGet GrpSector.none gr.sectors k with
          arrived := (tabGet GrpSector.none gr.sectors k).arrived ||| (1#256 <<< (r.aux.extractLsb' 8 8).toNat) }
      else tabGet GrpSector.none gr.sectors k := by
  obtain ⟨hin, hout⟩ := tabGet_pass (sectorKey r gr) (fun _ (x : GrpSector) =>
    { x with arrived := x.arrived ||| (1#256 <<< (r.aux.extractLsb' 8 8).toNat) }) (contribSectors r) (sectorKey_nodup r gr) hw
  split
  next h =>
    obtain ⟨s, hs, rfl⟩ := h
    exact hin s hs
  next h =>
    refine hout k fun hk => h ?_
    obtain ⟨s, hs, hsk⟩ := List.mem_map.mp hk
    exact ⟨s, hs, hsk.symm⟩

end Contrib

/-- Settles O32: the order point of the three opcodes, then the walk, the end of a result write and of an abort. -/
theorem reductionGroupsActAtTheirUnit : Obligations.ReductionGroupsActAtTheirUnit := by
  unfold Obligations.ReductionGroupsActAtTheirUnit
  refine ⟨fun g h r m => ?_, contribRefused_iff, fun g h label l w m he ha hwf hm hl hp hw => frameAt_holdLine he ha g label hwf hm hl hp hw,
    fun g h r m gr he hgr hlost hgl hsp hout hws hwg => ?_, fun g h c m w gr he ha hwg hws hlt hgr hin hopen => ?_,
    fun g h gid m hwg => endAbort_frees g gid hwg⟩
  case refine_1 =>
    intro hs gid need m0 others hp hwg
    have hwg0 : tabWf none (halfAt (pointMoved h r m) h).groups = true := by rwa [groups_pointMoved]
    refine ⟨fun ho => ⟨fun hin => ?_, fun hfree hfull => ?_, fun hfree hlen hroom hl hm hno => ?_⟩, fun ho => ⟨fun hn => ?_, fun gr hgr => ?_⟩,
      fun ho hr hpass hsec => ⟨orderNow_contrib_refused ho hr, fun hc => ?_⟩⟩
    case refine_1 =>
      refine orderNow_group_refused (.inl ho) ?_
      rw [grpRefusal_open ho, if_pos (Option.isSome_iff_ne_none.mpr hin)]
    case refine_2 =>
      refine orderNow_group_refused (.inl ho) ?_
      rw [grpRefusal_open ho, if_neg (by rw [hfree]; decide), if_pos hfull]
    case refine_3 =>
      have hnone : grpRefusal g (pointMoved h r m) h r = none := by
        rw [grpRefusal_open ho, if_neg (by rw [hfree]; decide), if_neg (not_or.mpr ⟨Nat.not_le.mpr hlen, Nat.not_lt.mpr hroom⟩)]
      have hdone := grpOpenOp_completes (g := g) (r := r) hwg0 ((groupAt_pointMoved (gidOf r)).trans hfree)
        (by rw [openLines_pointMoved, halfAt_pointMoved]; exact hl) (by rw [openNeed_pointMoved, halfAt_pointMoved]; exact hm)
        (by rw [groups_pointMoved]; exact hno)
      refine ⟨_, (orderNow_open hp ho hnone).trans hdone, ?_, ?_⟩
      · rw [groupAt_setGroup, if_pos rfl, openNeed_pointMoved]
        rw [setGroup, halfAt_modHalf]
        exact tabSet_wf hwg0 _ _
      · intro i hi
        rw [groupAt_setGroup, if_neg hi, groupAt_setGroup hwg0, if_neg hi, groupAt_pointMoved]
        rw [setGroup, halfAt_modHalf]
        exact tabSet_wf hwg0 _ _
    case refine_4 =>
      refine orderNow_group_refused (.inr ho) ?_
      rw [grpRefusal_abort ho, if_pos (Option.isNone_iff_eq_none.mpr hn)]
    case refine_5 =>
      have hnone : grpRefusal g (pointMoved h r m) h r = none := by
        rw [grpRefusal_abort ho, if_neg]
        rw [show openGroup (halfAt m h) (gidOf r) = some gr from hgr]
        exact Bool.false_ne_true
      have hat : groupAt (halfAt (pointMoved h r m) h) (gidOf r) = some gr := (groupAt_pointMoved _).trans (groupAt_of_openGroup hgr)
      intro t
      have ht : t = modHalf h (fun hs => { hs with gaborts := hs.gaborts ++ [(gidOf r, r)] })
          (setGroup h (gidOf r) (some { gr with closing := true }) (pointMoved h r m)) := (orderNow_abort hp ho hnone).trans (grpAbortOp_eq hat)
      have hgroup : ∀ i, groupAt (halfAt t h) i = if i = gidOf r then some { gr with closing := true } else groupAt (halfAt m h) i := by
        intro i
        rw [ht, halfAt_modHalf]
        exact (groupAt_setGroup hwg0 _ _ _).trans (if_congr Iff.rfl rfl (groupAt_pointMoved i))
      refine ⟨(hgroup gid).trans (if_pos rfl), fun i hi => (hgroup i).trans (if_neg hi), ?_⟩
      rw [ht, halfAt_modHalf]
      dsimp only
      rw [gaborts_setGroup, gaborts_of_part (groupPart_pointMoved h r m)]
    case refine_6 =>
      obtain ⟨gr, hgr, hat, hcov, hcl, hidx⟩ := contribGroup_of_accepted hc
      refine ⟨_, gr, orderNow_contrib ho hr hpass hc, hat, hcl, hcov, hidx, fun i hi => ?_, arrivedSectors r gr, ?_, fun k => ?_⟩
      · rw [acceptContrib_eq hgr, groupAt_setGroup hwg0, if_neg hi, groupAt_pointMoved]
      · rw [acceptContrib_eq hgr, groupAt_setGroup hwg0, if_pos rfl]
      · exact tabGet_arrivedSectors (hsec gr hat) k
  case refine_2 =>
    intro l idx key walk stored ready
    have heq := (contribOp_walks g h r m he hgr hlost hgl hsp hout).trans (contribWalk_eq g h r m hws)
    have hst : ∀ w, stored (some { walkedGroup r gr with writing := w }) := by
      refine fun w => ⟨_, w, rfl, fun k => ?_⟩
      obtain ⟨hin, hout⟩ := tabGet_walkedGroup r hws k
      split
      next hs => exact hin _ hs
      next hs => exact hout hs
    refine ⟨fun hr => ⟨_, heq.trans (if_pos hr), ?_⟩, fun hr => ⟨writeStarted g h r gr m, resultWrite h r gr (stateStored g h r gr m).nextId,
      heq.trans (if_neg hr), ?_, rfl, rfl, rfl, rfl, fun s hs => resultWrite_be r gr h _ s hs, fun s hs root hroot => resultWrite_data r gr h _ hs hroot, ?_⟩⟩
    · rw [groupAt_walked g h r hwg]
      exact hst gr.writing
    · rw [groupAt_writeStarted g h r hwg]
      exact hst _
    · exact gwrites_writeStarted g h r m
  case refine_3 =>
    exact groupAt_resultWritten g c he ha hwg hws hgr hin hopen

end Sys2Proof.Machine
end

section
/-!
A coherent request whose snoops are answered (R201, R206 to R208): the entry that it leaves, and what stays as it was. Used by the proof
of O31.
-/

namespace Sys2Proof.Machine

/-! ## The directory without the form of its table -/

/-- A value that a key can hold is read back from any table. -/
theorem tabGet_tabSet_held {α : Type} [DecidableEq α] {d v : α} (hv : v ≠ d) (t : Tab α) (k i : Nat) :
    tabGet d (tabSet d t k v) i = if i = k then v else tabGet d t i := by
  induction t with
  | nil =>
    rw [tabSet, if_neg hv]
    by_cases h : i = k <;> simp [tabGet, h]
  | cons y t ih =>
    obtain ⟨j, w⟩ := y
    by_cases hkj : k = j
    · subst hkj
      simp only [tabSet, beq_self_eq_true, if_true, if_neg hv, tabGet, beq_iff_eq]
      split <;> rfl
    have hbeq : (k == j) = false := beq_eq_false_iff_ne.mpr hkj
    by_cases hlt : k < j
    · simp only [tabSet, hbeq, hlt, Bool.false_eq_true, if_false, if_true, if_neg hv, tabGet, beq_iff_eq]
      by_cases hik : i = k
      · rw [if_pos hik, if_pos hik]
      · rw [if_neg hik, if_neg hik]
        by_cases hilt : i < k
        · rw [if_pos hilt, if_neg (by omega), if_pos (by omega)]
        · rw [if_neg hilt]
    · simp only [tabSet, hbeq, hlt, Bool.false_eq_true, if_false, tabGet, ih, beq_iff_eq]
      by_cases hij : i = j
      · rw [if_pos hij, if_pos hij, if_neg (by omega)]
      · rw [if_neg hij, if_neg hij]
        by_cases hilt : i < j
        · rw [if_pos hilt, if_pos hilt, if_neg (by omega)]
        · rw [if_neg hilt, if_neg hilt]

theorem dirLive_free : dirLive DirEntry.free = false := rfl

/-- An entry with a holder. -/
def HasHolder (e : DirEntry) : Prop := e.agents ≠ 0 ∨ e.chips ≠ 0

theorem dirLive_of_holder {e : DirEntry} (h : HasHolder e) : dirLive e = true := by
  rw [dirLive, Bool.or_eq_true, Bool.or_eq_true, bne_iff_ne, bne_iff_ne]
  exact .inl h

theorem not_hasHolder {e : DirEntry} : ¬ HasHolder e ↔ e.agents = 0 ∧ e.chips = 0 := by
  rw [HasHolder, not_or, not_not, not_not]

/-- A line that has an entry keeps one when a live entry replaces it. -/
theorem dirOf_withSlot_live {hs : HalfSt} {l : LineAddr} {w : Nat} {e : DirEntry} (hd : dirWay hs l = some w) (hl : dirLive e = true)
    (ht : e.tag = dirTag l) : dirOf (withSlot hs l w e) l = e := by
  obtain ⟨hw, hsl⟩ := dirWay_some hd
  have hne : e ≠ DirEntry.free := by
    rintro rfl
    exact Bool.noConfusion (dirLive_free.symm.trans hl)
  have hslot : ∀ v < 16, dirSlot (withSlot hs l w e) (dirSet l) v = if v = w then e else dirSlot hs (dirSet l) v := by
    intro v hv
    have hkey : dirSet l * 16 + v = dirSet l * 16 + w ↔ v = w := by omega
    exact (tabGet_tabSet_held hne hs.dir (dirSet l * 16 + w) (dirSet l * 16 + v)).trans (if_congr hkey rfl rfl)
  have hway : dirWay (withSlot hs l w e) l = some w := by
    rw [← hd]
    refine List.find?_congr fun v hv => ?_
    rw [hslot v (List.mem_range.mp hv)]
    by_cases h : v = w
    · rw [if_pos h, h]
      dsimp only
      rw [hl, ht, hsl.1, hsl.2]
    · rw [if_neg h]
  rw [dirOf, hway]
  exact (hslot w hw).trans (if_pos rfl)

/-! ## The entry is written -/

section Write

variable {m : Mach} (he : m.ras.errs = []) (ha : m.ras.armed = false)

/-- The slice with another directory in a half. -/
def withDir (h : Half) (d : Tab DirEntry) (m : Mach) : Mach := modHalf h (fun hs => { hs with dir := d }) m

theorem withDir_self (h : Half) (m : Mach) : withDir h (halfAt m h).dir m = m := modHalf_eq_self rfl

theorem modHalf_withSlot (h : Half) (l : LineAddr) (w : Nat) (x : DirEntry) (m : Mach) :
    modHalf h (fun hs => withSlot hs l w x) m = withDir h (withSlot (halfAt m h) l w x).dir m := modHalf_congr rfl

include he ha

theorem setDir_dir (g : Regs) (h : Half) (l : LineAddr) (rem : Bool) (e : DirEntry) : ∃ d, setDir g h l rem e m = withDir h d m := by
  have hput : ∀ w x, ∃ d, putDir g h (dirSet l) w x m = withDir h d m := fun w x =>
    ⟨_, (putDir_clean he ha g h l w x).trans (modHalf_withSlot h l w _ m)⟩
  unfold setDir
  split
  · exact hput _ _
  · split
    · exact ⟨_, (withDir_self h m).symm⟩
    · split
      · exact hput _ _
      · exact ⟨_, (withDir_self h m).symm⟩

/-- A line with a live entry has the entry that replaces it. -/
theorem dirOf_setDir_live (g : Regs) (h : Half) (l : LineAddr) (rem : Bool) {e : DirEntry} (hl : dirLive e = true) {w : Nat}
    (hd : dirWay (halfAt m h) l = some w) : dirOf (halfAt (setDir g h l rem e m) h) l = { e with tag := dirTag l, rem := rem, age := 0 } := by
  have hx : dirLive { e with tag := dirTag l, rem := rem, age := 0 } = true := hl
  simp only [setDir, hd]
  rw [putDir_clean he ha, halfAt_modHalf, if_pos hx]
  exact dirOf_withSlot_live hd hx rfl

/-- A line is not considered for packing unless its last holder has left. -/
def StaysPut (g : Regs) (h : Half) (l : LineAddr) (before after : DirEntry) (m : Mach) : Prop :=
  locate (halfAt m h) l = none ∨ g.hc[h].cmode ≠ 2 ∨ HasHolder after ∨ ¬ HasHolder before

omit he ha in
theorem tryPack_absent {g : Regs} {h : Half} {l : LineAddr} (hl : locate (halfAt m h) l = none) : tryPack g h l m = m := by
  simp only [tryPack, hl]

omit he ha in
theorem tryPack_off {g : Regs} {h : Half} {l : LineAddr} (hc : g.hc[h].cmode ≠ 2) : tryPack g h l m = m := by
  have hno : ∀ z own, packTarget g m h l z own = none := by
    intro z own
    have hcb : (g.hc[h].cmode == 2) = false := beq_eq_false_iff_ne.mpr hc
    have hp : packable g m h l = false := by simp only [packable, hcb, Bool.false_and]
    simp only [packTarget, hp, Bool.not_false, Bool.true_or, if_true]
  cases hl : locate (halfAt m h) l with
  | none => exact tryPack_absent hl
  | some p =>
    cases p with
    | vb s => simp only [tryPack, hl]
    | frame w => simp [tryPack, hl, hno]

/-- Where the line stays put, a write of its entry changes the directory alone. -/
theorem putHolders_still (g : Regs) (h : Half) (l : LineAddr) (e : DirEntry) (hput : StaysPut g h l (dirOf (halfAt m h) l) e m) :
    ∃ d, putHolders g h l e m = withDir h d m := by
  obtain ⟨d, hd⟩ := setDir_dir he ha g h l (!isPackage m (lineBase l)) e
  refine ⟨d, ?_⟩
  have hstays : packAfter g h l (dirOf (halfAt m h) l) (withDir h d m) = withDir h d m := by
    have hloc : locate (halfAt (withDir h d m) h) l = locate (halfAt m h) l := by
      rw [withDir, halfAt_modHalf]
      rfl
    unfold packAfter
    rcases hput with h1 | h1 | h1 | h1
    · rw [tryPack_absent (hloc.trans h1), ite_self]
    · rw [tryPack_off h1, ite_self]
    · refine if_neg ?_
      rw [Bool.and_eq_true, Bool.and_eq_true, beq_iff_eq, beq_iff_eq]
      rintro ⟨⟨hb, hag⟩, hch⟩
      cases hway : dirWay (halfAt m h) l with
      | none =>
        have hfree : dirOf (halfAt m h) l = DirEntry.free := by
          rw [dirOf, hway]
        rw [hfree] at hb
        exact Bool.noConfusion (show false = true from hb)
      | some w =>
        have hx := dirOf_setDir_live he ha g h l (!isPackage m (lineBase l)) (dirLive_of_holder h1) hway
        rw [hd] at hx
        rw [hx] at hag hch
        exact (not_hasHolder.mpr ⟨hag, hch⟩) h1
    · obtain ⟨hag, hch⟩ := not_hasHolder.mp h1
      refine if_neg ?_
      simp [hag, hch]
  rw [putHolders, hd, hstays]

theorem applyDir_still (g : Regs) (h : Half) (r : Req) (had : Bool)
    (hput : StaysPut g h (lineOf r.addr) (dirOf (halfAt m h) (lineOf r.addr)) (nextDir (dirOf (halfAt m h) (lineOf r.addr)) r had) m) :
    ∃ d, applyDir g h r had m = withDir h d m := by
  unfold applyDir
  dsimp only
  split
  · exact putHolders_still he ha g h _ _ hput
  · exact ⟨_, (withDir_self h m).symm⟩

/-- The conflict tracker stays as it is. -/
theorem applyDir_conf (g : Regs) (h : Half) (r : Req) (had : Bool) : (halfAt (applyDir g h r had m) h).conf = (halfAt m h).conf := by
  unfold applyDir
  dsimp only
  split
  · obtain ⟨d, hd⟩ := setDir_dir he ha g h (lineOf r.addr) (!isPackage m (lineBase (lineOf r.addr))) (nextDir (dirOf (halfAt m h) (lineOf r.addr)) r had)
    rw [putHolders, hd, packAfter]
    split
    · rw [tryPack_spares (m := withDir h d m) he ha (part := (·.conf)) ⟨fun _ _ => rfl, fun _ _ => rfl⟩, withDir, halfAt_modHalf]
    · rw [withDir, halfAt_modHalf]
  · rfl

end Write

/-! ## Acting (R201, R206 to R208) -/

/-- The request with what the directory decides for its completion. -/
def decidedReq (e : DirEntry) (r : Req) (had : Bool) : Req := { r with shared := sharedOf e r had || r.shared, fresh := joinsAgents e r had }

/-- The slice in which a request acts: its entry is written, and the line that it holds stays locked to its completion. -/
def actingIn (g : Regs) (h : Half) (r : Req) (had : Bool) (m : Mach) : Mach :=
  match confOf (halfAt m h) (lineOf r.addr) with
  | some _ => setConf h (lineOf r.addr) (some { newConf (lineOf r.addr) .completing
      (some (decidedReq (dirOf (halfAt m h) (lineOf r.addr)) r had)) [] with had := had }) (applyDir g h r had m)
  | none => applyDir g h r had m

/-- How a request acts: on the line that a package returned, or on the half's own. -/
def actOn (g : Regs) (h : Half) (r : Req) (ret : Option Line) (m : Mach) : Mach :=
  match ret with
  | none => dataPhase g h r m
  | some d =>
    match r.op with
    | .xUnique | .xUpgrade => answerX r (some d) 0 m
    | .inv | .zero => dataPhase g h r m
    | .cln | .clnInv => writeBack g h (lineOf r.addr) 0xF 0xF d [r] none m
    | _ => arriveLine h (lineOf r.addr) d 0xF [r] m

theorem actOn_arrives {g : Regs} {h : Half} {r : Req} {m : Mach} (d : Line)
    (hop : r.op = .rdNc ∨ r.op = .rdS ∨ r.op = .rdU ∨ r.op = .upg ∨ r.op = .wr ∨ r.op = .addl ∨ r.op = .atomR ∨ r.op = .atomN) :
    actOn g h r (some d) m = arriveLine h (lineOf r.addr) d 0xF [r] m := by
  rcases hop with ho | ho | ho | ho | ho | ho | ho | ho <;> simp only [actOn, ho]

section Act

variable {g : Regs} {h : Half} {r : Req} {had : Bool} {m : Mach} (he : m.ras.errs = []) (ha : m.ras.armed = false)
variable (hmine : ∀ c, confOf (halfAt m h) (lineOf r.addr) = some c → ∃ x, c.req = some x ∧ x.id = r.id) (hlock : locksLine r = false)

include he ha

theorem confOf_applyDir (l : LineAddr) : confOf (halfAt (applyDir g h r had m) h) l = confOf (halfAt m h) l := by
  rw [confOf, applyDir_conf he ha, confOf]

include hmine hlock

/-- A request that no lost line ends leaves its entry and acts. -/
theorem act_eq (ret : Option Line) (hlost : (ret.isNone && lostSeen g m h (lineOf r.addr) && lostEnds r.op) = false) :
    act g h r had ret m = actOn g h (decidedReq (dirOf (halfAt m h) (lineOf r.addr)) r had) ret (actingIn g h r had m) := by
  have hconf := confOf_applyDir (g := g) (h := h) (r := decidedReq (dirOf (halfAt m h) (lineOf r.addr)) r had) (had := had) he ha (lineOf r.addr)
  have hfree : ¬ locksLine (decidedReq (dirOf (halfAt m h) (lineOf r.addr)) r had) = true := by
    rw [show locksLine (decidedReq (dirOf (halfAt m h) (lineOf r.addr)) r had) = locksLine r from rfl, hlock]
    decide
  unfold decidedReq at hconf hfree
  unfold act
  rw [if_neg (by rw [hlost]; decide)]
  dsimp only
  rw [hconf]
  unfold actingIn
  cases hc : confOf (halfAt m h) (lineOf r.addr) with
  | none =>
    dsimp only
    rw [if_neg hfree]
    rfl
  | some c =>
    obtain ⟨x, hx, hid⟩ := hmine c hc
    simp only [hx, hid, beq_self_eq_true, if_true]
    rfl

end Act

end Sys2Proof.Machine
end

section
/-!
A request and its line at rest (R143, R146, R150): it goes to its data at once, reads them, or fetches them. Used by the proof of O31.
-/

namespace Sys2Proof.Machine

/-! ## The slice with another directory and conflict tracker -/

/-- The slice with another directory and another conflict tracker in a half. -/
def withTables (h : Half) (d : Tab DirEntry) (c : List Conf) (m : Mach) : Mach := modHalf h (fun hs => { hs with dir := d, conf := c }) m

theorem halfAt_withTables (h : Half) (d : Tab DirEntry) (c : List Conf) (m : Mach) :
    halfAt (withTables h d c m) h = { halfAt m h with dir := d, conf := c } := halfAt_modHalf ..

theorem topoPart_withTables (h : Half) (d : Tab DirEntry) (c : List Conf) (m : Mach) : topoPart (withTables h d c m) = topoPart m :=
  topoPart_modHalf m h fun _ => rfl

/-- Where the line stays put, a request acts in a slice whose directory and conflict tracker alone have changed. -/
theorem actingIn_still {m : Mach} (he : m.ras.errs = []) (ha : m.ras.armed = false) (g : Regs) (h : Half) (r : Req) (had : Bool)
    (hput : StaysPut g h (lineOf r.addr) (dirOf (halfAt m h) (lineOf r.addr)) (nextDir (dirOf (halfAt m h) (lineOf r.addr)) r had) m) :
    ∃ d c, actingIn g h r had m = withTables h d c m := by
  obtain ⟨d, hd⟩ := applyDir_still he ha g h r had hput
  have hdir : ∀ c : HalfSt → List Conf, modHalf h (fun hs => { hs with conf := c hs }) (withDir h d m) = withTables h d (c { halfAt m h with dir := d }) m := fun c =>
    (modHalf_modHalf h _ _ m).trans (modHalf_congr rfl)
  have hnone : withDir h d m = withTables h d (halfAt m h).conf m := modHalf_congr rfl
  unfold actingIn
  rw [hd]
  split
  · exact ⟨d, _, hdir _⟩
  · exact ⟨d, _, hnone⟩

/-- The line is as much at rest after the decision as before it. -/
theorem LineAtRest.withTables {g : Regs} {m : Mach} {h : Half} {r : Req} (hr : LineAtRest g m h r) (d : Tab DirEntry) (c : List Conf) (e : DirEntry)
    (had : Bool) : LineAtRest g (withTables h d c m) h (decidedReq e r had) where
  port := hr.port
  given := hr.given
  bound := hr.bound
  package := by
    rw [isPackage_of_topo (topoPart_withTables h d c m), isPackage_of_topo (topoPart_withTables h d c m)]
    exact hr.package
  errs := hr.errs
  armed := hr.armed
  quiet := hr.quiet
  frames := by rw [halfAt_withTables]; exact hr.frames
  merge := by rw [halfAt_withTables]; exact hr.merge
  victims := by rw [halfAt_withTables]; exact hr.victims
  moves := by rw [halfAt_withTables]; exact hr.moves
  miss := by rw [halfAt_withTables]; exact hr.miss
  missWait := by rw [halfAt_withTables]; exact hr.missWait
  refetch := by rw [halfAt_withTables]; exact hr.refetch

/-! ## The data phase of a line at rest -/

section AtRest

variable {g : Regs} {m : Mach} {h : Half} {r : Req} (hr : LineAtRest g m h r)

include hr

theorem waitsInLine_none (r' : Req) (ha : r'.addr = r.addr) : waitsInLine h r' m = none := by
  have hmerge : (halfAt m h).merge.find? (fun e => e.waiters.any fun x => lineOf x.addr == lineOf r.addr) = none := by
    rw [List.find?_eq_none]
    intro e he
    simpa using (hr.merge e he).2
  have hvb : (halfAt m h).vb.find? (fun e => e.waiters.any fun x => lineOf x.addr == lineOf r.addr) = none := by
    rw [List.find?_eq_none]
    intro e he
    simpa using hr.victims e he
  have hmoves : (halfAt m h).moves.find? (fun x => x.line == lineOf r.addr) = none := by
    rw [List.find?_eq_none]
    intro v hv
    simpa using hr.moves v hv
  have hmiss : (halfAt m h).missWait.any (fun x => lineOf x.addr == lineOf r.addr) = false := by
    rw [List.any_eq_false]
    intro x hx
    simpa using hr.missWait x hx
  simp only [waitsInLine, ha, hmerge, hvb, hmoves, hmiss, hr.refetch, Bool.or_self, Bool.false_and, Bool.false_eq_true, if_false]

/-- A request whose lookup finds no lost line goes to its line. -/
theorem dataPhase_line {r' : Req} (hr' : r' = { r with looked := r.looked || (lookup g m h (lineOf r.addr)).isSome })
    (hlost : ∀ p, lookupFor g m h r' = some p → (lineOfLoc (halfAt m h) (lineOf r.addr) p).lost = false) (hev : r.op ≠ .evict) (hup : r.op ≠ .upg) :
    dataPhase g h r m = lineOp g h r' m := by
  have h1 : (r.op == .evict) = false := beq_eq_false_iff_ne.mpr hev
  have h2 : (r.op == .upg) = false := beq_eq_false_iff_ne.mpr hup
  have hwait := waitsInLine_none hr r' (by rw [hr'])
  subst hr'
  simp only [hr.given] at hwait hlost
  simp only [dataPhase, hr.given, h1, h2, hr.miss, hwait, Option.filter_none, Bool.false_eq_true, if_false]
  split
  next p hp => simp only [hlost p hp, Bool.false_and, Bool.false_eq_true, if_false]
  next => simp only [Bool.false_and, Bool.false_eq_true, if_false]

/-- A request for a resident line that is not lost goes to its line. -/
theorem dataPhase_resident {p : Loc} (hl : lookup g m h (lineOf r.addr) = some p) (hlost : (lineOfLoc (halfAt m h) (lineOf r.addr) p).lost = false)
    (hev : r.op ≠ .evict) (hup : r.op ≠ .upg) : dataPhase g h r m = lineOp g h { r with looked := true } m := by
  refine dataPhase_line hr (by rw [hl, Option.isSome_some, Bool.or_true]) (fun q hq => ?_) hev hup
  have hfor : lookupFor g m h { r with looked := true } = some p := locate_of_lookup hl
  rw [hfor, Option.some.injEq] at hq
  exact hq ▸ hlost

/-- A request for a line that the half does not hold goes to its line too. -/
theorem dataPhase_absent (hl : locate (halfAt m h) (lineOf r.addr) = none) (hev : r.op ≠ .evict) (hup : r.op ≠ .upg) :
    dataPhase g h r m = lineOp g h r m := by
  have hlook : lookup g m h (lineOf r.addr) = none := by simp only [lookup, hl]
  have hfor : lookupFor g m h r = none := by simp only [lookupFor, hl, hlook, ite_self]
  refine dataPhase_line hr (by rw [hlook, Option.isSome_none, Bool.or_false]) (fun q hq => ?_) hev hup
  exact absurd (hfor.symm.trans hq) (by simp)

/-- R153, R154: a line of package memory that the half does not hold is fetched. -/
theorem lineOp_absent (hl : locate (halfAt m h) (lineOf r.addr) = none)
    (hop : r.op = .rdNc ∨ r.op = .rdS ∨ r.op = .rdU ∨ r.op = .wr ∨ r.op = .addl ∨ r.op = .atomR ∨ r.op = .atomN) :
    lineOp g h r m = missStart g h r m := by
  have hlook : lookup g m h (lineOf r.addr) = none := by simp only [lookup, hl]
  have hfor : lookupFor g m h r = none := by simp only [lookupFor, hl, hlook, ite_self]
  have hfetch : fetchLine g h r m = missStart g h r m := by simp only [fetchLine, hr.package.2, if_true]
  rcases hop with ho | ho | ho | ho | ho | ho | ho <;>
    simp only [lineOp, ho, readHit, writeOn, hfor, hfetch, ite_self]

theorem drainFirst_none (secs : BitVec 4) (r' : Req) (ha : r'.addr = r.addr) : drainFirst g h r' secs m = (false, m) := by
  have hnil : (halfAt m h).merge.filter (fun e => e.line == lineOf r.addr && secs.getLsbD e.sec.val) = [] := by
    rw [List.filter_eq_nil_iff]
    intro e he
    simp [(hr.merge e he).1]
  simp only [drainFirst, ha, hnil, List.isEmpty_nil, if_true]

omit hr in
theorem readSectors_clean (he : m.ras.errs = []) (own : Option Req) (l : LineAddr) (p : Loc) (secs : BitVec 4) :
    readSectors g h own l p secs m = (true, m) := by
  simp only [readSectors, he, List.isEmpty_nil, if_true]

end AtRest

end Sys2Proof.Machine
end

section
/-!
A frame that changes where a line stands (R127, R142, R146): what it changes for the line, and what it leaves of every other line. Used by
the proof of O31.
-/

namespace Sys2Proof.Machine

/-- R127: a line is known by its set, its tag and its place. -/
theorem eq_of_setIx_tagIx {x l : LineAddr} (hs : setIx x = setIx l) (ht : tagIx x = tagIx l) (hi : lineIx x = lineIx l) : x = l := by
  have hhigh : ∀ i, 15 ≤ i → x.getLsbD i = l.getLsbD i := by
    intro i h15
    by_cases h44 : i < 44
    · have hb := congrArg (fun y => y.getLsbD (i - 15)) ht
      simp only [tagIx, granule, BitVec.getLsbD_extractLsb'] at hb
      rw [show 2 + (13 + (i - 15)) = i by omega] at hb
      simpa [show i - 15 < 29 by omega, show 13 + (i - 15) < 42 by omega] using hb
    · rw [BitVec.getLsbD_of_ge x i (by omega), BitVec.getLsbD_of_ge l i (by omega)]
  refine BitVec.eq_of_getLsbD_eq fun i h44 => ?_
  by_cases h15 : 15 ≤ i
  · exact hhigh i h15
  by_cases h2 : i < 2
  · have hmod : x.toNat % 4 = l.toNat % 4 := congrArg Fin.val hi
    have hbit : ∀ y : LineAddr, y.getLsbD i = (y.toNat % 2 ^ 2).testBit i := fun y => by
      rw [Nat.testBit_mod_two_pow, decide_eq_true h2, Bool.true_and]
      rfl
    rw [hbit x, hbit l, show (2 : Nat) ^ 2 = 4 from rfl, hmod]
  · have hb := congrArg (fun y => y.getLsbD (i - 2)) hs
    simp only [setIx, granule, BitVec.getLsbD_xor, BitVec.getLsbD_extractLsb', BitVec.getLsbD_setWidth] at hb
    rw [hhigh (2 + (13 + (i - 2))) (by omega), hhigh (2 + (26 + (i - 2))) (by omega), hhigh (2 + (39 + (i - 2))) (by omega)] at hb
    have h0 : 2 + (0 + (i - 2)) = i := by omega
    rw [h0] at hb
    simpa [show i - 2 < 13 by omega, show i - 2 < 42 by omega] using hb

/-- What a read of a line gives in a half. -/
def seenIn (hs : HalfSt) (l : LineAddr) : Option Line := (locate hs l).map fun p => mergedData hs l (lineOfLoc hs l p).data

theorem lineSeen_eq (m : Mach) (h : Half) (l : LineAddr) : lineSeen m h l = seenIn (halfAt m h) l := rfl

theorem frameHas_of_locate {hs : HalfSt} {l : LineAddr} {w : Nat} (hl : locate hs l = some (.frame w)) :
    w < 24 ∧ frameHas (frameAt hs (setIx l) w) l = true := by
  unfold locate at hl
  split at hl
  next v hv =>
    rw [Option.some.injEq, Loc.frame.injEq] at hl
    have hp := List.find?_some hv
    exact hl ▸ ⟨List.mem_range.mp (List.mem_of_find?_eq_some hv), hp⟩
  next =>
    obtain ⟨e, -, he⟩ := Option.map_eq_some_iff.mp hl
    exact Loc.noConfusion he

/-- Frames that hold the same lines. -/
structure HoldsAlike (f f' : Frame) : Prop where
  tag    : f'.tag = f.tag
  packed : f'.packed = f.packed
  pres   : ∀ i : Fin 4, f'.lines[i].pres = f.lines[i].pres

section Change

variable {hs : HalfSt} {l : LineAddr} {w : Nat} {f' : Frame} (hwf : tabWf Frame.free hs.frames = true) (hw : w < 24)

include hwf hw

theorem frameAt_withFrame (s : BitVec 13) {v : Nat} (hv : v < 24) :
    frameAt (withFrame l w f' hs) s v = if s = setIx l ∧ v = w then f' else frameAt hs s v := by
  have hkey : s.toNat * 24 + v = (setIx l).toNat * 24 + w ↔ s = setIx l ∧ v = w := by
    rw [← BitVec.toNat_inj]
    omega
  exact (tabGet_tabSet hwf _ _ _).trans (if_congr hkey rfl rfl)

variable (ha : HoldsAlike (frameAt hs (setIx l) w) f')

include ha

/-- A frame that holds the same lines leaves every line where it is. -/
theorem locate_withFrame (x : LineAddr) : locate (withFrame l w f' hs) x = locate hs x := by
  have hhas : ∀ v ∈ List.range Config.ways, frameHas (frameAt (withFrame l w f' hs) (setIx x) v) x = frameHas (frameAt hs (setIx x) v) x := by
    intro v hv
    rw [frameAt_withFrame hwf hw _ (List.mem_range.mp hv)]
    split
    next h => rw [h.1, h.2, frameHas, frameHas, ha.tag, ha.pres]
    next => rfl
  unfold locate
  rw [List.find?_congr hhas]
  rfl

omit ha in
theorem lineOfLoc_withFrame {x : LineAddr} {p : Loc} (hp : locate hs x = some p) :
    lineOfLoc (withFrame l w f' hs) x p = if setIx x = setIx l ∧ p = .frame w then f'.lines[lineIx x] else lineOfLoc hs x p := by
  cases p with
  | vb s =>
    rw [if_neg fun h => Loc.noConfusion h.2]
    rfl
  | frame v =>
    unfold lineOfLoc frameOf
    dsimp only
    rw [frameAt_withFrame hwf hw _ (frameHas_of_locate hp).1]
    by_cases h : setIx x = setIx l ∧ v = w
    · rw [if_pos h, if_pos ⟨h.1, congrArg Loc.frame h.2⟩]
    · rw [if_neg h, if_neg fun h' => h ⟨h'.1, Loc.frame.inj h'.2⟩]

/-- A change of the frame's lines shows in the lines that change, and in no other. -/
theorem seenIn_withFrame {x : LineAddr} (hx : setIx x = setIx l → locate hs x = some (.frame w) →
    f'.lines[lineIx x].data = (frameAt hs (setIx l) w).lines[lineIx x].data) : seenIn (withFrame l w f' hs) x = seenIn hs x := by
  unfold seenIn
  rw [locate_withFrame hwf hw ha]
  cases hp : locate hs x with
  | none => rfl
  | some p =>
    rw [Option.map_some, Option.map_some, lineOfLoc_withFrame hwf hw hp]
    by_cases h : setIx x = setIx l ∧ p = .frame w
    · obtain ⟨hset, rfl⟩ := h
      rw [if_pos ⟨hset, rfl⟩, hx hset hp, lineOfLoc, frameOf, hset]
      rfl
    · rw [if_neg h]
      rfl

theorem seenIn_withFrame_same (hl : locate hs l = some (.frame w)) :
    seenIn (withFrame l w f' hs) l = some (mergedData hs l f'.lines[lineIx l].data) := by
  unfold seenIn
  rw [locate_withFrame hwf hw ha, hl, Option.map_some, lineOfLoc_withFrame hwf hw hl, if_pos ⟨rfl, rfl⟩]
  rfl

end Change

/-! ## The line in its frame -/

section Resident

variable {hs : HalfSt} {l : LineAddr} {w : Nat} (hwf : tabWf Frame.free hs.frames = true) (hl : locate hs l = some (.frame w))

/-- The frame of a line with the line's part replaced. -/
def withLine (l : LineAddr) (f : Frame) (st : LineSt) : Frame := { f with lines := f.lines.set (lineIx l).val st (lineIx l).isLt }

include hl

theorem withLine_alike {st : LineSt} (hst : st.pres = true) : HoldsAlike (frameAt hs (setIx l) w) (withLine l (frameAt hs (setIx l) w) st) := by
  have hhas := (frameHas_of_locate hl).2
  rw [frameHas, Bool.and_eq_true] at hhas
  refine ⟨rfl, rfl, fun i => ?_⟩
  by_cases hi : i = lineIx l
  · rw [hi]
    simpa [withLine, hst] using hhas.2
  · have hne : (lineIx l).val ≠ i.val := fun e => hi (Fin.ext e.symm)
    simp [withLine, Vector.getElem_set_ne, hne]

include hwf

/-- A write of the line in its frame shows there alone. -/
theorem seenIn_withLine {st : LineSt} (hst : st.pres = true) :
    seenIn (withFrame l w (withLine l (frameAt hs (setIx l) w) st) hs) l = some (mergedData hs l st.data)
    ∧ ∀ x, x ≠ l → seenIn (withFrame l w (withLine l (frameAt hs (setIx l) w) st) hs) x = seenIn hs x := by
  obtain ⟨hw, hhas⟩ := frameHas_of_locate hl
  have ha := withLine_alike hl hst
  refine ⟨?_, fun x hx => seenIn_withFrame hwf hw ha fun hset hp => ?_⟩
  · rw [seenIn_withFrame_same hwf hw ha hl]
    simp [withLine]
  · have hhas' := (frameHas_of_locate hp).2
    rw [frameHas, Bool.and_eq_true, beq_iff_eq] at hhas hhas'
    have htag : tagIx x = tagIx l := by rw [← hhas.1, ← hhas'.1, hset]
    have hne : (lineIx l).val ≠ (lineIx x).val := fun e => hx (eq_of_setIx_tagIx hset htag (Fin.ext e.symm))
    simp [withLine, Vector.getElem_set_ne, hne]

end Resident

/-! ## A hit makes its frame the youngest (R146) -/

/-- The slice after a touch: nothing but the age of a frame has changed. -/
structure Touched (h : Half) (l : LineAddr) (w : Nat) (m m' : Mach) : Prop where
  frames : ∃ f, m' = modHalf h (fun hs => { hs with frames := f }) m ∧ tabWf Frame.free f = true
  locate : ∀ x, locate (halfAt m' h) x = locate (halfAt m h) x
  seen   : ∀ x, seenIn (halfAt m' h) x = seenIn (halfAt m h) x
  packed : (frameAt (halfAt m' h) (setIx l) w).packed = (frameAt (halfAt m h) (setIx l) w).packed
  lines  : (frameAt (halfAt m' h) (setIx l) w).lines = (frameAt (halfAt m h) (setIx l) w).lines

theorem Touched.refl (h : Half) (l : LineAddr) (w : Nat) {m : Mach} (hwf : tabWf Frame.free (halfAt m h).frames = true) : Touched h l w m m where
  frames := ⟨_, (modHalf_eq_self rfl).symm, hwf⟩
  locate _ := rfl
  seen _ := rfl
  packed := rfl
  lines := rfl

/-- What no frame enters is untouched. -/
theorem Touched.spares {α : Type} {part : HalfSt → α} (hp : ∀ x f, part { x with frames := f } = part x) {h : Half} {l : LineAddr} {w : Nat} {m m' : Mach}
    (ht : Touched h l w m m') : part (halfAt m' h) = part (halfAt m h) := by
  obtain ⟨f, rfl, -⟩ := ht.frames
  rw [halfAt_modHalf]
  exact hp _ _

theorem touched_touch {g : Regs} {h : Half} {r : Req} {m : Mach} (he : m.ras.errs = []) (ha : m.ras.armed = false) {w : Nat}
    (hwf : tabWf Frame.free (halfAt m h).frames = true) (hl : locate (halfAt m h) (lineOf r.addr) = some (.frame w)) :
    Touched h (lineOf r.addr) w m (touch g h r m) := by
  obtain ⟨hw, -⟩ := frameHas_of_locate hl
  have halike : HoldsAlike (frameAt (halfAt m h) (setIx (lineOf r.addr)) w) { frameAt (halfAt m h) (setIx (lineOf r.addr)) w with age := 0 } :=
    ⟨rfl, rfl, fun _ => rfl⟩
  unfold touch
  dsimp only
  rw [hl]
  dsimp only
  split
  next => exact .refl h _ w hwf
  next =>
    rw [putFrame_clean he ha]
    refine ⟨⟨_, modHalf_congr rfl, tabSet_wf hwf _ _⟩, fun x => ?_, fun x => ?_, ?_, ?_⟩
    · rw [halfAt_modHalf]
      exact locate_withFrame hwf hw halike x
    · rw [halfAt_modHalf]
      refine seenIn_withFrame hwf hw halike fun hset _ => rfl
    · rw [halfAt_modHalf, frameAt_withFrame hwf hw _ hw, if_pos ⟨rfl, rfl⟩]
    · rw [halfAt_modHalf, frameAt_withFrame hwf hw _ hw, if_pos ⟨rfl, rfl⟩]

/-! ## Reads and upgrades of a resident line (R150, R206) -/

theorem isPackedLine_of_frame {hs : HalfSt} {l : LineAddr} {w : Nat} (hl : locate hs l = some (.frame w)) :
    isPackedLine hs l = (frameAt hs (setIx l) w).packed := by
  simp only [isPackedLine, hl, frameOf]

/-- To complete requests moves no line. -/
theorem isPackedLine_blind (h : Half) (l : LineAddr) : BlindToSend (fun m => isPackedLine (halfAt m h) l) where
  port _ _ _ := rfl
  link _ _ _ := rfl
  power j f m := by
    by_cases e : h = j
    · subst e
      rw [halfAt_modHalf]
      rfl
    · rw [halfAt_modHalf_ne m _ e]
  out _ _ := rfl
  probe _ _ := rfl
  ends _ _ _ := rfl

theorem moveIfPacked_single {h : Half} {r : Req} {m : Mach} (hp : isPackedLine (halfAt m h) (lineOf r.addr) = false) : moveIfPacked h r m = m := by
  rw [moveIfPacked, hp]
  rfl

section Reads

variable {g : Regs} {m : Mach} {h : Half} {r : Req} (hr : LineAtRest g m h r) {w : Nat} (hl : locate (halfAt m h) (lineOf r.addr) = some (.frame w))
  (hp : (frameAt (halfAt m h) (setIx (lineOf r.addr)) w).packed = false)

include hl hp

/-- R206: an upgrade completes without data. -/
theorem upg_completes : moveIfPacked h r (complete r .done 0 m) = complete r .done 0 m := by
  refine moveIfPacked_single ?_
  refine ((isPackedLine_blind h (lineOf r.addr)).complete m r .done 0).trans ?_
  rw [isPackedLine_of_frame hl, hp]

include hr

/-- A read of a resident line is answered with its bytes. -/
theorem readHit_resident (hlook : r.looked = true) (hlost : (lineOfLoc (halfAt m h) (lineOf r.addr) (.frame w)).lost = false)
    (hop : r.op = .rdNc ∨ r.op = .rdS ∨ r.op = .rdU) :
    readHit g h r m = answerRead r (lineOfLoc (halfAt m h) (lineOf r.addr) (.frame w)).data (touch g h r m) := by
  have hfor : lookupFor g m h r = some (.frame w) := by simp only [lookupFor, hlook, if_true, hl]
  have hpref : (r.op == .pref) = false := by rcases hop with ho | ho | ho <;> rw [ho] <;> decide
  have ht := touched_touch (g := g) hr.errs hr.armed hr.frames hl
  have hsingle : isPackedLine (halfAt (touch g h r m) h) (lineOf r.addr) = false := by
    rw [isPackedLine_of_frame ((ht.locate _).trans hl), ht.packed, hp]
  have hstays : ∀ d, moveIfPacked h r (answerRead r d (touch g h r m)) = answerRead r d (touch g h r m) := by
    intro d
    refine moveIfPacked_single ?_
    have hb := isPackedLine_blind h (lineOf r.addr)
    rcases hop with ho | ho | ho <;> simp only [answerRead, ho] <;> exact (hb.complete _ _ _ _).trans hsingle
  simp only [readHit, hfor, hlost, hpref, drainFirst_none hr _ r rfl, readSectors_clean hr.errs, Bool.false_eq_true, if_false, Bool.not_true, hstays,
    ite_self]

end Reads

end Sys2Proof.Machine
end

section
/-!
Bytes that a write leaves in the merge buffer (R142, R143): what a read of the line then gives. Used by the proof of O31.
-/

namespace Sys2Proof.Machine

/-! ## Bytes under enables -/

/-- The mask of the bytes below `n` that are enabled. -/
def maskBelow {k : Nat} (w : Nat) (be : BitVec k) (n : Nat) : BitVec w :=
  (List.range n).foldl (fun a i => if be.getLsbD i then a ||| (BitVec.ofNat w 0xFF <<< (8 * i)) else a) 0

theorem getLsbD_byte {w i n : Nat} (hi : i < w) : (BitVec.ofNat w 0xFF <<< (8 * n)).getLsbD i = decide (i / 8 = n) := by
  have hff : ∀ k, (0xFF : Nat).testBit k = decide (k < 8) := fun k => Nat.testBit_two_pow_sub_one 8 k
  rw [BitVec.getLsbD_shiftLeft, BitVec.getLsbD_ofNat, hff, decide_eq_true hi, Bool.true_and, Bool.eq_iff_iff]
  simp only [Bool.and_eq_true, Bool.not_eq_true', decide_eq_false_iff_not, decide_eq_true_eq]
  omega

theorem getLsbD_maskBelow {k w : Nat} (be : BitVec k) (n i : Nat) (hi : i < w) :
    (maskBelow w be n).getLsbD i = (decide (i / 8 < n) && be.getLsbD (i / 8)) := by
  induction n with
  | zero => simp [maskBelow]
  | succ n ih =>
    have hstep : maskBelow w be (n + 1) = if be.getLsbD n then maskBelow w be n ||| (BitVec.ofNat w 0xFF <<< (8 * n)) else maskBelow w be n := by
      rw [maskBelow, List.range_succ, List.foldl_append]
      rfl
    rw [hstep]
    by_cases hb : be.getLsbD n = true
    · rw [if_pos hb, BitVec.getLsbD_or, ih, getLsbD_byte hi, Bool.eq_iff_iff]
      simp only [Bool.or_eq_true, Bool.and_eq_true, decide_eq_true_eq]
      constructor
      · rintro (⟨h1, h2⟩ | h)
        · exact ⟨by omega, h2⟩
        · exact ⟨by omega, h ▸ hb⟩
      · rintro ⟨h1, h2⟩
        by_cases h : i / 8 = n
        · exact .inr h
        · exact .inl ⟨by omega, h2⟩
    · rw [if_neg hb, ih, Bool.eq_iff_iff]
      simp only [Bool.and_eq_true, decide_eq_true_eq]
      refine and_congr_left fun h2 => ⟨fun h => by omega, fun h => ?_⟩
      have hne : i / 8 ≠ n := fun e => hb (e ▸ h2)
      omega

theorem getLsbD_byteMask (be : LineBE) {i : Nat} (hi : i < 2048) : (byteMask be).getLsbD i = be.getLsbD (i / 8) := by
  have h := getLsbD_maskBelow (w := 2048) be 256 i hi
  rw [decide_eq_true (by omega), Bool.true_and] at h
  exact h

theorem getLsbD_sectorByteMask (be : BitVec 64) {i : Nat} (hi : i < 512) : (sectorByteMask be).getLsbD i = be.getLsbD (i / 8) := by
  have h := getLsbD_maskBelow (w := 512) be 64 i hi
  rw [decide_eq_true (by omega), Bool.true_and] at h
  exact h

theorem getLsbD_mergeSector (be : BitVec 64) (x y : Sector) {i : Nat} (hi : i < 512) :
    (mergeSector be x y).getLsbD i = if be.getLsbD (i / 8) then x.getLsbD i else y.getLsbD i := by
  rw [mergeSector, BitVec.getLsbD_or, BitVec.getLsbD_and, BitVec.getLsbD_and, BitVec.getLsbD_not, getLsbD_sectorByteMask be hi]
  cases be.getLsbD (i / 8) <;> simp [hi]

theorem getLsbD_mergeBytes (be : LineBE) (x y : Line) {i : Nat} (hi : i < 2048) :
    (mergeBytes be x y).getLsbD i = if be.getLsbD (i / 8) then x.getLsbD i else y.getLsbD i := by
  rw [mergeBytes, BitVec.getLsbD_or, BitVec.getLsbD_and, BitVec.getLsbD_and, BitVec.getLsbD_not, getLsbD_byteMask be hi]
  cases be.getLsbD (i / 8) <;> simp [hi]

/-- Bytes that are merged in twice are there once. -/
theorem mergeBytes_twice (be : LineBE) (x y : Line) : mergeBytes be (mergeBytes be x y) y = mergeBytes be x y := by
  refine BitVec.eq_of_getLsbD_eq fun i hi => ?_
  rw [getLsbD_mergeBytes be _ _ hi, getLsbD_mergeBytes be _ _ hi]
  split <;> simp_all

theorem mergeBytes_none (x y : Line) : mergeBytes 0 x y = y := by
  refine BitVec.eq_of_getLsbD_eq fun i hi => ?_
  rw [getLsbD_mergeBytes 0 _ _ hi]
  simp

/-- The bytes of a sector under its part of the enables. -/
theorem sectorOf_mergeBytes (be : LineBE) (x y : Line) {s : Nat} (hs : s < 4) :
    sectorOf (mergeBytes be x y) s = mergeSector (be.extractLsb' (64 * s) 64) (sectorOf x s) (sectorOf y s) := by
  refine BitVec.eq_of_getLsbD_eq fun i hi => ?_
  have hbyte : (512 * s + i) / 8 = 64 * s + i / 8 := by omega
  have hlt : i / 8 < 64 := by omega
  rw [getLsbD_sectorOf, getLsbD_mergeBytes be x y (by omega), getLsbD_mergeSector _ _ _ hi, BitVec.getLsbD_extractLsb', getLsbD_sectorOf,
    getLsbD_sectorOf, hbyte]
  simp only [hi, hlt, decide_true, Bool.true_and]

/-- Bytes that are kept under their enables. -/
theorem mergeSector_masked (be : BitVec 64) (x y : Sector) : mergeSector be (x &&& sectorByteMask be) y = mergeSector be x y := by
  refine BitVec.eq_of_getLsbD_eq fun i hi => ?_
  rw [getLsbD_mergeSector be _ _ hi, getLsbD_mergeSector be _ _ hi, BitVec.getLsbD_and, getLsbD_sectorByteMask be hi]
  split <;> simp_all

theorem mergeSector_none (x y : Sector) : mergeSector 0 x y = y := by
  refine BitVec.eq_of_getLsbD_eq fun i hi => ?_
  rw [getLsbD_mergeSector 0 _ _ hi]
  simp

/-- A line is its four sectors. -/
theorem eq_of_sectorOf {x y : Line} (h : ∀ s < 4, sectorOf x s = sectorOf y s) : x = y := by
  refine BitVec.eq_of_getLsbD_eq fun i hi => ?_
  have hb := congrArg (fun z => z.getLsbD (i % 512)) (h (i / 512) (by omega))
  simp only [getLsbD_sectorOf, Nat.mod_lt i (show 0 < 512 by decide), decide_true, Bool.true_and] at hb
  rwa [Nat.div_add_mod] at hb

/-! ## Entries of the merge buffer -/

/-- An entry of a line as a write leaves it for a sector. -/
structure EntryOf (l : LineAddr) (be : LineBE) (data : Line) (s : Nat) (e : MergeEntry) : Prop where
  line     : e.line = l
  sec      : e.sec.val = s
  enables  : e.be = be.extractLsb' (64 * s) 64
  bytes    : e.data = sectorOf data s &&& sectorByteMask (be.extractLsb' (64 * s) 64)
  draining : e.draining = false

/-- The entry that a write makes for a sector in a free place of the buffer. -/
def newEntry (r : Req) (be : LineBE) (data : Line) (s slot : Nat) : MergeEntry :=
  ⟨slot, lineOf r.addr, ⟨s % 4, Nat.mod_lt _ (by decide)⟩, sectorOf data s &&& sectorByteMask (be.extractLsb' (64 * s) 64),
    be.extractLsb' (64 * s) 64, missLabel r, false, []⟩

/-- While an entry is free, one of the places of the buffer is. -/
theorem exists_slot {es : List MergeEntry} (h : es.length < 16) :
    ∃ i, (List.range 16).find? (fun i => !(es.any fun e => e.slot == i)) = some i ∧ ∀ e ∈ es, e.slot ≠ i := by
  cases hf : (List.range 16).find? (fun i => !(es.any fun e => e.slot == i)) with
  | some i =>
    have hp := List.find?_some hf
    refine ⟨i, rfl, fun e he hs => ?_⟩
    rw [Bool.not_eq_true', List.any_eq_false] at hp
    exact hp e he (beq_iff_eq.mpr hs)
  | none =>
    have hall : List.range 16 ⊆ es.map (·.slot) := by
      intro i hi
      have hused := List.find?_eq_none.mp hf i hi
      simp only [Bool.not_eq_true', Bool.not_eq_false, List.any_eq_true, beq_iff_eq] at hused
      obtain ⟨e, he, hs⟩ := hused
      exact List.mem_map.mpr ⟨e, he, hs⟩
    have hle := (List.subperm_of_subset List.nodup_range hall).length_le
    rw [List.length_range, List.length_map] at hle
    omega

/-- The slice with entries added to the merge buffer of a half. -/
def withEntries (h : Half) (es : List MergeEntry) (m : Mach) : Mach := modHalf h (fun hs => { hs with merge := hs.merge ++ es }) m

theorem merge_withEntries (h : Half) (es : List MergeEntry) (m : Mach) : (halfAt (withEntries h es m) h).merge = (halfAt m h).merge ++ es := by
  rw [withEntries, halfAt_modHalf]

section Put

variable {m : Mach} {h : Half} (he : m.ras.errs = []) (ha : m.ras.armed = false)

include he ha

theorem setMerge_clean (g : Regs) (e : MergeEntry) : setMerge g h e m = putMerge h e m := by
  have hn : ∀ i, noteWrite g .merge h i (putMerge h e m) = putMerge h e m := fun i => noteWrite_clean (m := putMerge h e m) he ha g .merge h i
  rw [setMerge, hn, hn, hn]

omit he ha in
/-- To replace an entry that stands alone in its place by itself. -/
theorem putMerge_fresh {e : MergeEntry} (hfree : ∀ x ∈ (halfAt m h).merge, x.slot ≠ e.slot) :
    putMerge h e (withEntries h [e] m) = withEntries h [e] m := by
  have hmap : ((halfAt m h).merge ++ [e]).map (fun x => if x.slot == e.slot then e else x) = (halfAt m h).merge ++ [e] := by
    rw [List.map_append]
    refine congrArg₂ _ ?_ (by simp)
    refine (List.map_congr_left fun x hx => if_neg ?_).trans (List.map_id' _)
    rw [beq_iff_eq]
    exact hfree x hx
  refine modHalf_eq_self ?_
  rw [merge_withEntries, hmap, withEntries, halfAt_modHalf]

/-- A sector without an entry gets one in a free place. -/
theorem mergePut_new (g : Regs) (r : Req) (be : LineBE) (data : Line) {s : Nat} (hs : s < 4) (hlen : (halfAt m h).merge.length < 16)
    (hno : mergeOf (halfAt m h) (lineOf r.addr) s = none) :
    ∃ e, EntryOf (lineOf r.addr) be data s e ∧ mergePut g h r be data m s = withEntries h [e] m := by
  obtain ⟨i, hi, hfree⟩ := exists_slot hlen
  refine ⟨newEntry r be data s i, ⟨rfl, Nat.mod_eq_of_lt hs, rfl, rfl, rfl⟩, ?_⟩
  have hfind : ((List.range Config.mergeEntries).find? fun i => !((halfAt m h).merge.any fun e => e.slot == i)).getD 0 = i :=
    congrArg (fun x : Option Nat => x.getD 0) hi
  have hset := (setMerge_clean (m := withEntries h [newEntry r be data s i] m) he ha g _).trans (putMerge_fresh (e := newEntry r be data s i) hfree)
  unfold mergePut sectorWrite
  dsimp only
  rw [hno]
  dsimp only
  rw [hfind]
  exact hset

omit he ha in
theorem withEntries_nil (h : Half) (m : Mach) : withEntries h [] m = m := by
  refine modHalf_eq_self ?_
  rw [List.append_nil]

omit he ha in
theorem withEntries_withEntries (h : Half) (es fs : List MergeEntry) (m : Mach) :
    withEntries h fs (withEntries h es m) = withEntries h (es ++ fs) m := by
  refine (modHalf_modHalf h _ _ m).trans (modHalf_congr ?_)
  rw [List.append_assoc]

/-- Sectors without entries get one each. -/
theorem mergePuts_new (g : Regs) (r : Req) (be : LineBE) (data : Line) (secs : List Nat) (hn : secs.Nodup) (hlt : ∀ s ∈ secs, s < 4)
    (hlen : (halfAt m h).merge.length + secs.length ≤ 16) (hno : ∀ s ∈ secs, mergeOf (halfAt m h) (lineOf r.addr) s = none) :
    ∃ es, List.Forall₂ (EntryOf (lineOf r.addr) be data) secs es ∧ secs.foldl (mergePut g h r be data) m = withEntries h es m := by
  induction secs generalizing m with
  | nil => exact ⟨[], .nil, (withEntries_nil h m).symm⟩
  | cons s secs ih =>
    obtain ⟨hs, hn⟩ := List.nodup_cons.mp hn
    rw [List.length_cons] at hlen
    obtain ⟨e, hent, hput⟩ := mergePut_new he ha g r be data (hlt s List.mem_cons_self) (by omega) (hno s List.mem_cons_self)
    obtain ⟨es, hes, hfold⟩ := ih (m := withEntries h [e] m) he ha hn (fun x hx => hlt x (List.mem_cons_of_mem s hx))
      (by rw [merge_withEntries, List.length_append, List.length_singleton]; omega) (by
        intro x hx
        have hne : e.sec.val ≠ x := fun h => hs (hent.sec.symm.trans h ▸ hx)
        have hold := hno x (List.mem_cons_of_mem s hx)
        unfold mergeOf at hold ⊢
        rw [merge_withEntries, List.find?_append, hold]
        simp [hne])
    exact ⟨e :: es, .cons hent hes, by rw [List.foldl_cons, hput, hfold, withEntries_withEntries, List.singleton_append]⟩

/-- The sectors that enables touch. -/
def touchedSectors (be : LineBE) : List Nat := (List.range 4).filter fun s => be.extractLsb' (64 * s) 64 != 0

omit he ha in
theorem entry_of_forall {l : LineAddr} {be : LineBE} {data : Line} {secs : List Nat} {es : List MergeEntry}
    (hf : List.Forall₂ (EntryOf l be data) secs es) {e : MergeEntry} (hm : e ∈ es) : ∃ s ∈ secs, EntryOf l be data s e := by
  induction hf with
  | nil => exact absurd hm List.not_mem_nil
  | cons hx _ ih =>
    rcases List.mem_cons.mp hm with rfl | hm
    · exact ⟨_, List.mem_cons_self, hx⟩
    · obtain ⟨s, hs, hent⟩ := ih hm
      exact ⟨s, List.mem_cons_of_mem _ hs, hent⟩

/-- R143: the bytes of a line without entries enter the merge buffer, which has room; none of its entries is full. -/
theorem mergeIn_new (g : Regs) (r : Req) (be : LineBE) (data : Line) (hline : ∀ e ∈ (halfAt m h).merge, e.line ≠ lineOf r.addr)
    (hfits : mergeFits m h be) : ∃ es, List.Forall₂ (EntryOf (lineOf r.addr) be data) (touchedSectors be) es
      ∧ mergeIn g h r be data m = (false, withEntries h es m) := by
  obtain ⟨hlen, hfull⟩ := hfits
  have hlen16 : (halfAt m h).merge.length + 4 ≤ 16 := hlen
  have hno : ∀ s, mergeOf (halfAt m h) (lineOf r.addr) s = none := by
    intro s
    refine List.find?_eq_none.mpr fun e hm => ?_
    simp [hline e hm]
  have hlt : ∀ s ∈ touchedSectors be, s < 4 := fun s hs => List.mem_range.mp (List.mem_filter.mp hs).1
  have hcount : (touchedSectors be).length ≤ 4 := by
    simpa [touchedSectors] using List.length_filter_le (fun s => be.extractLsb' (64 * s) 64 != 0) (List.range 4)
  obtain ⟨es, hes, hfold⟩ := mergePuts_new he ha g r be data (touchedSectors be) (List.nodup_range.filter _) hlt (by omega) fun s _ => hno s
  refine ⟨es, hes, ?_⟩
  have hroom : ¬ ((halfAt m h).merge.length + (touchedSectors be).length > Config.mergeEntries) := by
    have : Config.mergeEntries = 16 := rfl
    omega
  have hstay : ∀ s e, mergeOf (halfAt (withEntries h es m) h) (lineOf r.addr) s = some e → (e.be == BitVec.allOnes 64) = false := by
    intro s e hfind
    have hp := List.find?_some hfind
    simp only [Bool.and_eq_true, beq_iff_eq] at hp
    have hmem := List.mem_of_find?_eq_some hfind
    rw [merge_withEntries] at hmem
    rcases List.mem_append.mp hmem with hm | hm
    · exact absurd hp.1 (hline e hm)
    · obtain ⟨t, ht, hent⟩ := entry_of_forall hes hm
      rw [hent.enables]
      exact beq_eq_false_iff_ne.mpr (hfull t (hlt t ht))
  unfold mergeIn
  dsimp only
  simp only [hno, Option.filter_none, Option.isNone_none, List.filter_true]
  have hnone : (touchedSectors be).findSome? (fun _ => (none : Option MergeEntry)) = none := List.findSome?_eq_none_iff.mpr fun _ _ => rfl
  unfold touchedSectors at hnone hroom hfold
  rw [hnone]
  dsimp only
  rw [if_neg hroom]
  dsimp only
  rw [hfold]
  refine congrArg (Prod.mk false) (foldl_eq_self fun s _ => ?_)
  split
  next e hfind => rw [hstay s e hfind, if_neg Bool.false_ne_true]
  next => rfl

end Put

/-! ## What a read gives -/

section Seen

variable {l : LineAddr} {be : LineBE} {data : Line}

/-- The bytes of an entry put into a line. -/
def entryInto (d : Line) (e : MergeEntry) : Line := withSector d e.sec.val (mergeSector e.be e.data (sectorOf d e.sec.val))

theorem sectorOf_entryInto {s : Nat} {e : MergeEntry} (he : EntryOf l be data s e) (d : Line) {t : Nat} (ht : t < 4) :
    sectorOf (entryInto d e) t = if s = t then mergeSector (be.extractLsb' (64 * t) 64) (sectorOf data t) (sectorOf d t) else sectorOf d t := by
  rw [entryInto, sectorOf_withSector d _ ht, he.sec]
  split
  next h =>
    subst h
    rw [he.enables, he.bytes, mergeSector_masked]
  next => rfl

theorem sectorOf_entriesInto {secs : List Nat} {es : List MergeEntry} (hf : List.Forall₂ (EntryOf l be data) secs es) (hn : secs.Nodup) (d : Line)
    {t : Nat} (ht : t < 4) : sectorOf (es.foldl entryInto d) t
    = if t ∈ secs then mergeSector (be.extractLsb' (64 * t) 64) (sectorOf data t) (sectorOf d t) else sectorOf d t := by
  induction hf generalizing d with
  | nil => rfl
  | @cons s e secs es hent _ ih =>
    obtain ⟨hs, hn⟩ := List.nodup_cons.mp hn
    rw [List.foldl_cons, ih hn, sectorOf_entryInto hent d ht]
    by_cases h : s = t
    · subst h
      rw [if_neg hs, if_pos rfl, if_pos List.mem_cons_self]
    · rw [if_neg h]
      refine if_congr ?_ rfl rfl
      rw [List.mem_cons]
      exact (or_iff_right (Ne.symm h)).symm

/-- The entries of a write give the bytes that it wrote. -/
theorem entriesInto_eq {es : List MergeEntry} (hf : List.Forall₂ (EntryOf l be data) (touchedSectors be) es) (d : Line) :
    es.foldl entryInto d = mergeBytes be data d := by
  refine eq_of_sectorOf fun t ht => ?_
  rw [sectorOf_entriesInto hf (List.nodup_range.filter _) d ht, sectorOf_mergeBytes be data d ht]
  split
  next => rfl
  next h =>
    have hz : be.extractLsb' (64 * t) 64 = 0 := by
      by_contra hne
      exact h (List.mem_filter.mpr ⟨List.mem_range.mpr ht, bne_iff_ne.mpr hne⟩)
    rw [hz, mergeSector_none]

variable {m : Mach} {h : Half} {es : List MergeEntry} {secs : List Nat} (hf : List.Forall₂ (EntryOf l be data) secs es)

include hf

theorem liveMerges_withEntries (hline : ∀ e ∈ (halfAt m h).merge, e.line ≠ l) : liveMerges (halfAt (withEntries h es m) h) l = es := by
  rw [liveMerges, merge_withEntries, List.filter_append, List.filter_eq_nil_iff.mpr fun e he => by simp [hline e he], List.nil_append,
    List.filter_eq_self]
  intro e he
  obtain ⟨s, -, hent⟩ := entry_of_forall hf he
  simp [hent.line, hent.draining]

theorem liveMerges_withEntries_ne {x : LineAddr} (hx : x ≠ l) : liveMerges (halfAt (withEntries h es m) h) x = liveMerges (halfAt m h) x := by
  have hnil : es.filter (fun e => e.line == x && !e.draining) = [] := by
    refine List.filter_eq_nil_iff.mpr fun e he => ?_
    obtain ⟨s, -, hent⟩ := entry_of_forall hf he
    simp [hent.line, Ne.symm hx]
  rw [liveMerges, merge_withEntries, List.filter_append, hnil, List.append_nil, liveMerges]

end Seen

/-- A read of the line gives the bytes that entered the buffer; a read of another line gives what it gave. -/
theorem seenIn_withEntries {m : Mach} {h : Half} {l : LineAddr} {w : Nat} {be : LineBE} {data : Line} {es : List MergeEntry}
    (hf : List.Forall₂ (EntryOf l be data) (touchedSectors be) es) (hline : ∀ e ∈ (halfAt m h).merge, e.line ≠ l)
    (hl : locate (halfAt m h) l = some (.frame w)) :
    seenIn (halfAt (withEntries h es m) h) l = some (mergeBytes be data (lineOfLoc (halfAt m h) l (.frame w)).data)
    ∧ ∀ x, x ≠ l → seenIn (halfAt (withEntries h es m) h) x = seenIn (halfAt m h) x := by
  have hloc : ∀ x, locate (halfAt (withEntries h es m) h) x = locate (halfAt m h) x := by
    intro x
    rw [withEntries, halfAt_modHalf]
    rfl
  have hline' : ∀ x p, lineOfLoc (halfAt (withEntries h es m) h) x p = lineOfLoc (halfAt m h) x p := by
    intro x p
    rw [withEntries, halfAt_modHalf]
    rfl
  refine ⟨?_, fun x hx => ?_⟩
  · rw [seenIn, hloc, hl, Option.map_some, hline', mergedData, liveMerges_withEntries hf hline]
    exact congrArg some (entriesInto_eq hf _)
  · simp only [seenIn, hloc, hline', mergedData, liveMerges_withEntries_ne hf hx]

end Sys2Proof.Machine
end

section
/-!
Writes and updates of a resident line at rest (R142, R144, R222, R244): straight to the banks or through the merge buffer. Used by the proof of O31.
-/

namespace Sys2Proof.Machine

/-- A request ends with a completion, and leaves the value `v` in its line, every other line and the directory as they were. -/
def EndsWith (h : Half) (r : Req) (m : Mach) (old v : Line) (out : Mach) : Prop :=
  ∃ t, out = complete { r with bound := none } .done old t ∧ seenIn (halfAt t h) (lineOf r.addr) = some v
    ∧ (∀ x, x ≠ lineOf r.addr → seenIn (halfAt t h) x = seenIn (halfAt m h) x) ∧ (halfAt t h).dir = (halfAt m h).dir

theorem settleReport_unbound {r : Req} (hb : r.bound = none) (m : Mach) : settleReport r m = ({ r with bound := none }, m) := by
  rw [settleReport, hb, reportBytes]

theorem wrote_unbound {g : Regs} {h : Half} {r : Req} (hb : r.bound = none) (hp : r.op ≠ .place) (m : Mach) :
    wrote g h r m = complete { r with bound := none } .done 0 m := by
  have hne : (r.op == .place) = false := beq_eq_false_iff_ne.mpr hp
  simp only [wrote, hne, settleReport_unbound hb, Bool.false_eq_true, if_false]

/-- An update writes the bytes of its result under their enables. -/
theorem mergeBytes_updateOn (r : Req) (d : Line) : mergeBytes (updateOn r d).2.1 (updateOn r d).1 d = (updateOn r d).1 := by
  unfold updateOn
  split
  · exact mergeBytes_twice ..
  · unfold atomOn
    dsimp only
    split
    · exact mergeBytes_none ..
    · exact mergeBytes_twice ..

theorem mergedData_none {hs : HalfSt} {l : LineAddr} (hm : ∀ e ∈ hs.merge, e.line ≠ l) (d : Line) : mergedData hs l d = d := by
  have hnil : liveMerges hs l = [] := List.filter_eq_nil_iff.mpr fun e he => by simp [hm e he]
  rw [mergedData, hnil, List.foldl_nil]

/-- The part of a frame that a line has, once enabled bytes are written. -/
def bankedLine (be : LineBE) (data : Line) (ds : BitVec 4) (st : LineSt) : LineSt := { st with data := mergeBytes be data st.data, dirty := ds }

/-- A write to the banks changes the line in its frame. -/
theorem writeDirect_clean {m : Mach} (he : m.ras.errs = []) (ha : m.ras.armed = false) (g : Regs) (h : Half) (l : LineAddr) (w : Nat) (be : LineBE)
    (data : Line) : ∃ ds, writeDirect g h l (.frame w) be data m = modHalf h (withFrame l w (withLine l (frameAt (halfAt m h) (setIx l) w)
      (bankedLine be data ds (lineOfLoc (halfAt m h) l (.frame w))))) m := by
  unfold writeDirect modLineSt
  dsimp only
  rw [putFrame_clean he ha]
  exact ⟨_, rfl⟩

section Resident

variable {g : Regs} {m : Mach} {h : Half} {r : Req} (hr : LineAtRest g m h r) {w : Nat} (hl : locate (halfAt m h) (lineOf r.addr) = some (.frame w))

include hr hl

theorem touched_rest : Touched h (lineOf r.addr) w m (touch g h r m) := touched_touch hr.errs hr.armed hr.frames hl

theorem errs_touch : (touch g h r m).ras = m.ras := by
  obtain ⟨f, hf, -⟩ := (touched_rest hr hl).frames
  rw [hf]
  rfl

theorem merge_touch : (halfAt (touch g h r m) h).merge = (halfAt m h).merge := (touched_rest hr hl).spares (part := (·.merge)) fun _ _ => rfl

theorem dir_touch : (halfAt (touch g h r m) h).dir = (halfAt m h).dir := (touched_rest hr hl).spares (part := (·.dir)) fun _ _ => rfl

theorem lines_touch : lineOfLoc (halfAt (touch g h r m) h) (lineOf r.addr) (.frame w) = lineOfLoc (halfAt m h) (lineOf r.addr) (.frame w) :=
  congrArg (fun v : Vector LineSt 4 => v[lineIx (lineOf r.addr)]) (touched_rest hr hl).lines

theorem leavesPacked_touch (hp : (frameAt (halfAt m h) (setIx (lineOf r.addr)) w).packed = false) :
    leavesPacked g (touch g h r m) h (lineOf r.addr) = false := by
  have ht := touched_rest hr hl
  rw [leavesPacked, isPackedLine_of_frame ((ht.locate _).trans hl), ht.packed, hp, Bool.false_and]

theorem writesDirect_touch : writesDirect (touch g h r m) h r w = writesDirect m h r w := by
  have ht := touched_rest hr hl
  have hcopy : (halfAt (touch g h r m) h).rcopy = (halfAt m h).rcopy := ht.spares (part := (·.rcopy)) fun _ _ => rfl
  have hmerge : ∀ s, mergeOf (halfAt (touch g h r m) h) (lineOf r.addr) s = mergeOf (halfAt m h) (lineOf r.addr) s := fun s => by
    rw [mergeOf, merge_touch hr hl, mergeOf]
  simp only [writesDirect, ht.packed, ht.lines, hcopy, hmerge]

/-- Bytes that enter the merge buffer after a touch. -/
theorem mergeIn_touch (be : LineBE) (data : Line) (hfits : mergeFits m h be) :
    ∃ t, mergeIn g h r be data (touch g h r m) = (false, t)
      ∧ seenIn (halfAt t h) (lineOf r.addr) = some (mergeBytes be data (lineOfLoc (halfAt m h) (lineOf r.addr) (.frame w)).data)
      ∧ (∀ x, x ≠ lineOf r.addr → seenIn (halfAt t h) x = seenIn (halfAt m h) x) ∧ (halfAt t h).dir = (halfAt m h).dir := by
  have ht := touched_rest hr hl
  have hras := errs_touch hr hl
  have hline : ∀ e ∈ (halfAt (touch g h r m) h).merge, e.line ≠ lineOf r.addr := by
    rw [merge_touch hr hl]
    exact fun e he => (hr.merge e he).1
  obtain ⟨es, hes, hin⟩ := mergeIn_new (m := touch g h r m) (h := h) (hras ▸ hr.errs) (hras ▸ hr.armed) g r be data hline
    (by rw [mergeFits, merge_touch hr hl]; exact hfits)
  obtain ⟨hseen, hothers⟩ := seenIn_withEntries hes hline ((ht.locate _).trans hl)
  refine ⟨_, hin, ?_, fun x hx => (hothers x hx).trans (ht.seen x), ?_⟩
  · rw [hseen, lines_touch hr hl]
  · rw [withEntries, halfAt_modHalf]
    exact dir_touch hr hl

/-- Bytes that go straight to the banks after a touch. -/
theorem writeDirect_touch (be : LineBE) (data : Line) :
    seenIn (halfAt (writeDirect g h (lineOf r.addr) (.frame w) be data (touch g h r m)) h) (lineOf r.addr)
      = some (mergeBytes be data (lineOfLoc (halfAt m h) (lineOf r.addr) (.frame w)).data)
    ∧ (∀ x, x ≠ lineOf r.addr →
      seenIn (halfAt (writeDirect g h (lineOf r.addr) (.frame w) be data (touch g h r m)) h) x = seenIn (halfAt m h) x)
    ∧ (halfAt (writeDirect g h (lineOf r.addr) (.frame w) be data (touch g h r m)) h).dir = (halfAt m h).dir := by
  have hras := errs_touch hr hl
  have ht := touched_rest hr hl
  have hl3 := (ht.locate _).trans hl
  have hwf3 : tabWf Frame.free (halfAt (touch g h r m) h).frames = true := by
    obtain ⟨f, hf, hwf⟩ := ht.frames
    rw [hf, halfAt_modHalf]
    exact hwf
  have hpres : (lineOfLoc (halfAt (touch g h r m) h) (lineOf r.addr) (.frame w)).pres = true := by
    have hhas := (frameHas_of_locate hl3).2
    rw [frameHas, Bool.and_eq_true] at hhas
    exact hhas.2
  have hline : ∀ e ∈ (halfAt (touch g h r m) h).merge, e.line ≠ lineOf r.addr := by
    rw [merge_touch hr hl]
    exact fun e he => (hr.merge e he).1
  obtain ⟨ds, hwrite⟩ := writeDirect_clean (m := touch g h r m) (hras ▸ hr.errs) (hras ▸ hr.armed) g h (lineOf r.addr) w be data
  obtain ⟨hseen, hothers⟩ := seenIn_withLine hwf3 hl3
    (st := bankedLine be data ds (lineOfLoc (halfAt (touch g h r m) h) (lineOf r.addr) (.frame w))) hpres
  rw [hwrite, halfAt_modHalf]
  refine ⟨?_, fun x hx => (hothers x hx).trans (ht.seen x), dir_touch hr hl⟩
  rw [hseen, mergedData_none hline, bankedLine, lines_touch hr hl]

variable (hp : (frameAt (halfAt m h) (setIx (lineOf r.addr)) w).packed = false)

include hp

/-- R142: a WR merges its bytes into its resident line. -/
theorem writeHit_ends (ho : r.op = .wr) (hfit : writesDirect m h r w = true ∨ mergeFits m h r.be) :
    EndsWith h r m 0 (mergeBytes r.be r.data (lineOfLoc (halfAt m h) (lineOf r.addr) (.frame w)).data) (writeHit g h r (.frame w) m) := by
  have hplace : r.op ≠ .place := by rw [ho]; decide
  have hleave := leavesPacked_touch hr hl hp
  cases hd : writesDirect m h r w with
  | true =>
    obtain ⟨hseen, hothers, hdir⟩ := writeDirect_touch hr hl r.be r.data
    refine ⟨writeDirect g h (lineOf r.addr) (.frame w) r.be r.data (touch g h r m), ?_, hseen, hothers, hdir⟩
    simp only [writeHit, hleave, writesDirect_touch hr hl, hd, wrote_unbound hr.bound hplace, Bool.false_eq_true, if_false, if_true]
  | false =>
    obtain ⟨t, hin, hseen, hothers, hdir⟩ := mergeIn_touch hr hl r.be r.data (hfit.resolve_left (by rw [hd]; decide))
    refine ⟨t, ?_, hseen, hothers, hdir⟩
    simp only [writeHit, hleave, writesDirect_touch hr hl, hd, hin, wrote_unbound hr.bound hplace, Bool.false_eq_true, if_false]

/-- R222: an ADDL or an atomic leaves its result in its resident line and returns the old value. -/
theorem updateHit_ends (hfit : mergeFits m h (updateOn r (lineOfLoc (halfAt m h) (lineOf r.addr) (.frame w)).data).2.1) :
    EndsWith h r m ((updateOn r (lineOfLoc (halfAt m h) (lineOf r.addr) (.frame w)).data).2.2.setWidth 2048)
      (updateOn r (lineOfLoc (halfAt m h) (lineOf r.addr) (.frame w)).data).1 (updateHit g h r (.frame w) m) := by
  have hleave := leavesPacked_touch hr hl hp
  have hras := errs_touch hr hl
  have hline : ∀ e ∈ (halfAt (touch g h r m) h).merge, e.line ≠ lineOf r.addr := by
    rw [merge_touch hr hl]
    exact fun e he => (hr.merge e he).1
  have hfind : (halfAt (touch g h r m) h).merge.find? (fun e => e.line == lineOf r.addr && e.draining && (sectorsOf r).getLsbD e.sec.val) = none :=
    List.find?_eq_none.mpr fun e he => by simp [hline e he]
  obtain ⟨t, hin, hseen, hothers, hdir⟩ := mergeIn_touch hr hl _ (updateOn r (lineOfLoc (halfAt m h) (lineOf r.addr) (.frame w)).data).1 hfit
  refine ⟨t, ?_, ?_, hothers, hdir⟩
  · unfold updateHit
    dsimp only
    rw [hleave, hfind, readSectors_clean (hras ▸ hr.errs), mergedData_none hline, lines_touch hr hl, hin, settleReport_unbound hr.bound]
    rfl
  · rw [hseen, mergeBytes_updateOn]

end Resident

end Sys2Proof.Machine
end

section
/-!
A coherent request at its order point, and the answers to its snoops (R201, R206 to R208). Used by the proof of O31.
-/

namespace Sys2Proof.Machine

/-! ## The order point -/

/-- The slice once a request has passed its order point uncounted: an atomic has trained its counter. -/
def passedIn (h : Half) (r : Req) (m : Mach) : Mach := if r.op == .atomR || r.op == .atomN then trainPred h r m else m

/-- The slice with other atomic counters in a half. -/
def withPred (h : Half) (t : Tab (BitVec 2)) (m : Mach) : Mach := modHalf h (fun hs => { hs with pred := t }) m

theorem passedIn_pred (h : Half) (r : Req) (m : Mach) : ∃ t, passedIn h r m = withPred h t m := by
  unfold passedIn
  split
  · refine ⟨(halfAt (trainPred h r m) h).pred, ?_⟩
    unfold trainPred withPred
    dsimp only
    rw [halfAt_modHalf]
    exact modHalf_congr rfl
  · exact ⟨_, (modHalf_eq_self rfl).symm⟩

section Pred

variable (h : Half) (t : Tab (BitVec 2)) (g : Regs) (m : Mach) (l : LineAddr)

theorem halfAt_withPred : halfAt (withPred h t m) h = { halfAt m h with pred := t } := halfAt_modHalf ..

theorem lostSeen_withPred : lostSeen g (withPred h t m) h l = lostSeen g m h l := by
  unfold lostSeen lookup
  rw [halfAt_withPred]
  rfl

theorem topoPart_withPred : topoPart (withPred h t m) = topoPart m := topoPart_modHalf m h fun _ => rfl

theorem isPackage_withPred (a : Addr) : isPackage (withPred h t m) a = isPackage m a :=
  isPackage_of_topo (topoPart_withPred h t m) a

end Pred

section Moved

variable (g : Regs) (h : Half) (r : Req) (m : Mach) (l : LineAddr)

theorem lostSeen_pointMoved : lostSeen g (pointMoved h r m) h l = lostSeen g m h l := by
  unfold lostSeen lookup
  rw [halfAt_pointMoved]
  rfl

theorem dirRoom_pointMoved : dirRoom (halfAt (pointMoved h r m) h) l = dirRoom (halfAt m h) l := by
  rw [halfAt_pointMoved]
  rfl

theorem wantsEntry_pointMoved : wantsEntry (pointMoved h r m) h r = wantsEntry m h r := by
  unfold wantsEntry
  rw [halfAt_pointMoved]
  simp only [isPackage_of_topo (topoPart_pointMoved h r m)]
  rfl

theorem goesToMemory_pointMoved : goesToMemory g (pointMoved h r m) h r = goesToMemory g m h r := by
  unfold goesToMemory lineAbsent inReservation
  rw [halfAt_pointMoved]
  simp only [isPackage_of_topo (topoPart_pointMoved h r m), sliceWord_of_topo (topoPart_pointMoved h r m)]
  rfl

end Moved

theorem orderNow_coherent {r : Req} (hop : coherentOp r.op = true) (g : Regs) (h : Half) (m : Mach) :
    orderNow g h r m = orderLine g h r (pointMoved h r m) := by
  unfold orderNow
  dsimp only
  split <;> rename_i ho
  case h_8 => rfl
  all_goals exact absurd hop (by rw [ho]; decide)

theorem pointRefusal_coherent {r : Req} (hop : coherentOp r.op = true) (g : Regs) (m : Mach) (h : Half) : pointRefusal g m h r = none := by
  unfold pointRefusal
  split <;> rename_i ho
  case h_5 => rfl
  all_goals exact absurd hop (by rw [ho]; decide)

/-- What a request of Tables 6.3 and 6.4 brings to the order point of a half at rest. -/
structure MayPass (g : Regs) (m : Mach) (h : Half) (r : Req) : Prop where
  ready   : OrderReady g m h (lineOf r.addr)
  op      : coherentOp r.op = true
  port    : ∃ p, r.origin = .port p
  unpassed : r.passed = false
  package : isPackage m r.addr = true
  unbound : bindingOf g r.addr = none
  seen    : lostSeen g m h (lineOf r.addr) = false
  room    : wantsEntry m h r = false ∨ dirRoom (halfAt m h) (lineOf r.addr) = true
  here    : r.op = .atomR ∨ r.op = .atomN → goesToMemory g m h r = false

namespace MayPass

variable {g : Regs} {m : Mach} {h : Half} {r : Req} (hr : MayPass g m h r)

include hr

/-- A request that may pass comes to the directory. -/
theorem orderNow_eq : orderNow g h r m = directoryStage g h (passedReq r) (passedIn h r (pointMoved h r m)) := by
  have hr1 := orderReady_pointMoved h r m hr.ready
  obtain ⟨t, ht⟩ := passedIn_pred h r (pointMoved h r m)
  have hpass : passPoint g h r (pointMoved h r m) = (passedReq r, passedIn h r (pointMoved h r m)) :=
    passPoint_quiet hr.ready.quiet.1 hr.ready.quiet.2 hr.unpassed (.inr hr.unbound)
  have hroom : (wantsEntry (pointMoved h r m) h r && !dirRoom (halfAt (pointMoved h r m) h) (lineOf r.addr)) = false := by
    rw [wantsEntry_pointMoved, dirRoom_pointMoved]
    rcases hr.room with hw | hd
    · rw [hw, Bool.false_and]
    · rw [hd, Bool.not_true, Bool.and_false]
  have hmem : ((r.op == .atomR || r.op == .atomN) && goesToMemory g (pointMoved h r m) h r) = false := by
    rw [goesToMemory_pointMoved]
    cases ha : r.op == .atomR || r.op == .atomN with
    | false => rw [Bool.false_and]
    | true =>
      rw [Bool.or_eq_true, beq_iff_eq, beq_iff_eq] at ha
      rw [hr.here ha, Bool.and_false]
  have hsafe : (halfAt (withPred h t (pointMoved h r m)) h).safeDue = none := by
    rw [halfAt_withPred]
    exact hr1.safe
  have hlost : lostSeen g (withPred h t (pointMoved h r m)) h (lineOf r.addr) = false := by
    rw [lostSeen_withPred, lostSeen_pointMoved]
    exact hr.seen
  have hpack : isPackage (withPred h t (pointMoved h r m)) r.addr = true := by
    rw [isPackage_withPred, isPackage_of_topo (topoPart_pointMoved h r m)]
    exact hr.package
  have hxwb : (r.op == .xwb) = false := beq_eq_false_iff_ne.mpr fun ho => absurd hr.op (by rw [ho]; decide)
  have hgrp : (r.op == .grpContrib) = false := beq_eq_false_iff_ne.mpr fun ho => absurd hr.op (by rw [ho]; decide)
  rw [orderNow_coherent hr.op]
  unfold orderLine
  simp only [readLookup_clean hr1.errs, cleanLine_ready hr1, readMerges_clean hr1.errs, pointRefusal_coherent hr.op, hr1.safe, Option.isSome_none,
    Bool.false_and, Bool.or_self, Bool.not_false, Bool.true_and, hroom, Bool.false_eq_true, if_false, hr.unpassed, hmem, hpass]
  rw [ht, show (passedReq r).addr = r.addr from rfl, show (passedReq r).op = r.op from rfl]
  simp only [hsafe, hlost, hpack, hxwb, hgrp, Option.isSome_none, Bool.false_and, Bool.true_or, Bool.false_eq_true, if_false, if_true]

omit hr in
theorem dirOf_passed : dirOf (halfAt (passedIn h r (pointMoved h r m)) h) (lineOf r.addr) = dirOf (halfAt m h) (lineOf r.addr) := by
  obtain ⟨t, ht⟩ := passedIn_pred h r (pointMoved h r m)
  rw [ht, halfAt_withPred, halfAt_pointMoved]
  rfl

/-- At the directory a request acts where it snoops nobody, else it holds its line and snoops the holders. -/
theorem orderNow_cases {k : SnpKind} {xs : List Holder} (hs : snoopsOf (dirOf (halfAt m h) (lineOf r.addr)) r = (k, xs)) : orderNow g h r m
    = if xs.isEmpty then act g h (passedReq r) false none (passedIn h r (pointMoved h r m))
      else snoopAll g h (lineOf r.addr) k xs (setConf h (lineOf r.addr) (some (newConf (lineOf r.addr) .acting (some (passedReq r)) xs))
        (passedIn h r (pointMoved h r m))) := by
  obtain ⟨p, hp⟩ := hr.port
  have hport : ((passedReq r).origin == Origin.bellows) = false := by
    rw [show (passedReq r).origin = .port p from hp]
    rfl
  have hsn : snoopsOf (dirOf (halfAt m h) (lineOf r.addr)) (passedReq r) = (k, xs) := hs
  rw [hr.orderNow_eq]
  unfold directoryStage
  dsimp only
  rw [hport, Bool.false_and, if_neg (by decide), show lineOf (passedReq r).addr = lineOf r.addr from rfl, dirOf_passed, hsn]

end MayPass

/-! ## The answers to the snoops -/

theorem confOf_line {hs : HalfSt} {l : LineAddr} {c : Conf} (hc : confOf hs l = some c) : c.line = l :=
  beq_iff_eq.mp (List.find?_some (p := fun c : Conf => c.line == l) hc)

section Answer

variable {g : Regs} {h : Half} {l : LineAddr} {x : Holder} {had : Bool} {m : Mach} {c : Conf}

theorem answerConf_eq (hc : confOf (halfAt m h) l = some c) (hx : x ∈ c.pend) :
    answerConf g ⟨h, l, x, had⟩ m = advanceConf g h { c with pend := c.pend.erase x, had := c.had || had } m := by
  unfold answerConf
  simp only [hc, List.contains_iff_mem.mpr hx, Bool.not_true, Bool.false_eq_true, if_false]

/-- The last answer lets the request act. -/
theorem answerConf_last {r : Req} (hc : confOf (halfAt m h) l = some c) (hwhy : c.why = .acting) (hreq : c.req = some r) (hw : c.waitXwb = none)
    (hp : c.pend = [x]) : answerConf g ⟨h, l, x, had⟩ m
      = act g h r (c.had || had) c.ret (setConf h l (some { c with pend := [], had := c.had || had }) m) := by
  have he : c.pend.erase x = [] := by rw [hp, List.erase_cons_head]
  rw [answerConf_eq hc (hp ▸ List.mem_cons_self)]
  unfold advanceConf
  simp only [he, hw, hwhy, hreq, confOf_line hc, List.isEmpty_nil, Option.isSome_none, Bool.not_true, Bool.or_self, Bool.false_eq_true, if_false]

/-- An answer that is not the last is noted. -/
theorem answerConf_more {y : Holder} {ys : List Holder} (hc : confOf (halfAt m h) l = some c) (hp : c.pend = x :: y :: ys) :
    answerConf g ⟨h, l, x, had⟩ m = setConf h l (some { c with pend := y :: ys, had := c.had || had }) m := by
  have he : c.pend.erase x = y :: ys := by rw [hp, List.erase_cons_head]
  rw [answerConf_eq hc (hp ▸ List.mem_cons_self)]
  unfold advanceConf
  simp only [he, confOf_line hc, List.isEmpty_cons, Bool.not_false, Bool.true_or, if_true]

end Answer

end Sys2Proof.Machine
end

section
/-!
Coherent requests act at the home of their line (R142, R154, R201, R202, R206 to R208, R222). Settles O31.
-/

namespace Sys2Proof.Machine

/-- A request that has looked its line up. -/
def lookedReq (r : Req) : Req := { r with looked := true }

/-- A request whose line stands at rest in a frame of its own, and has not been lost. -/
structure Resident (g : Regs) (m : Mach) (h : Half) (r : Req) (w : Nat) : Prop where
  rest   : LineAtRest g m h r
  look   : lookup g m h (lineOf r.addr) = some (.frame w)
  single : (frameAt (halfAt m h) (setIx (lineOf r.addr)) w).packed = false
  kept   : (lineOfLoc (halfAt m h) (lineOf r.addr) (.frame w)).lost = false

namespace Resident

variable {g : Regs} {m : Mach} {h : Half} {r : Req} {w : Nat} (hr : Resident g m h r w)

include hr

theorem looked : Resident g m h (lookedReq r) w where
  rest := ⟨hr.rest.port, hr.rest.given, hr.rest.bound, hr.rest.package, hr.rest.errs, hr.rest.armed, hr.rest.quiet, hr.rest.frames, hr.rest.merge,
    hr.rest.victims, hr.rest.moves, hr.rest.miss, hr.rest.missWait, hr.rest.refetch⟩
  look := hr.look
  single := hr.single
  kept := hr.kept

theorem withTables (d : Tab DirEntry) (c : List Conf) (e : DirEntry) (had : Bool) :
    Resident g (withTables h d c m) h (decidedReq e r had) w where
  rest := hr.rest.withTables d c e had
  look := by
    unfold lookup
    rw [halfAt_withTables]
    exact hr.look
  single := by
    rw [halfAt_withTables]
    exact hr.single
  kept := by
    rw [halfAt_withTables]
    exact hr.kept

theorem located : locate (halfAt m h) (lineOf r.addr) = some (.frame w) := locate_of_lookup hr.look

theorem lookupFor_looked : lookupFor g m h (lookedReq r) = some (.frame w) := hr.located

theorem dataPhase_eq (hev : r.op ≠ .evict) (hup : r.op ≠ .upg) : dataPhase g h r m = lineOp g h (lookedReq r) m :=
  dataPhase_resident hr.rest hr.look hr.kept hev hup

/-- R206: a read is answered with the bytes of its line. -/
theorem dataPhase_read (hop : r.op = .rdNc ∨ r.op = .rdS ∨ r.op = .rdU) :
    dataPhase g h r m = answerRead (lookedReq r) (lineOfLoc (halfAt m h) (lineOf r.addr) (.frame w)).data (touch g h (lookedReq r) m) := by
  have hread : lineOp g h (lookedReq r) m = readHit g h (lookedReq r) m := by
    have ho : (lookedReq r).op = r.op := rfl
    rcases hop with h1 | h1 | h1 <;> simp only [lineOp, ho, h1]
  have hne : r.op ≠ .evict ∧ r.op ≠ .upg := by rcases hop with h1 | h1 | h1 <;> rw [h1] <;> decide
  rw [hr.dataPhase_eq hne.1 hne.2, hread]
  exact readHit_resident hr.looked.rest hr.located hr.single rfl hr.kept hop

/-- R206: an UPG completes without data. -/
theorem dataPhase_upg (ho : r.op = .upg) : dataPhase g h r m = complete (lookedReq r) .done 0 m := by
  have hlook : dataPhase g h r m = moveIfPacked h (lookedReq r) (complete (lookedReq r) .done 0 m) := by
    unfold dataPhase
    split
    next d hd => exact absurd (hr.rest.given.symm.trans hd) (by simp)
    next =>
      dsimp only
      rw [if_neg (by rw [ho]; decide), if_pos (by rw [ho]; decide), hr.look, Option.isSome_some, Bool.or_true]
      rfl
  rw [hlook]
  exact upg_completes hr.located hr.single

theorem dataPhase_write (ho : r.op = .wr) (hfit : writesDirect m h r w = true ∨ mergeFits m h r.be) :
    EndsWith h (lookedReq r) m 0 (mergeBytes r.be r.data (lineOfLoc (halfAt m h) (lineOf r.addr) (.frame w)).data) (dataPhase g h r m) := by
  have hwrite : dataPhase g h r m = writeHit g h (lookedReq r) (.frame w) m := by
    rw [hr.dataPhase_eq (by rw [ho]; decide) (by rw [ho]; decide)]
    simp only [lineOp, show (lookedReq r).op = .wr from ho, writeOn, hr.lookupFor_looked]
  rw [hwrite]
  exact writeHit_ends hr.looked.rest hr.located hr.single ho hfit

theorem dataPhase_update (hop : r.op = .addl ∨ r.op = .atomR ∨ r.op = .atomN)
    (hfit : mergeFits m h (updateOn r (lineOfLoc (halfAt m h) (lineOf r.addr) (.frame w)).data).2.1) :
    EndsWith h (lookedReq r) m ((updateOn r (lineOfLoc (halfAt m h) (lineOf r.addr) (.frame w)).data).2.2.setWidth 2048)
      (updateOn r (lineOfLoc (halfAt m h) (lineOf r.addr) (.frame w)).data).1 (dataPhase g h r m) := by
  have hne : r.op ≠ .evict ∧ r.op ≠ .upg := by rcases hop with h1 | h1 | h1 <;> rw [h1] <;> decide
  have hupd : dataPhase g h r m = updateHit g h (lookedReq r) (.frame w) m := by
    have ho : (lookedReq r).op = r.op := rfl
    rw [hr.dataPhase_eq hne.1 hne.2]
    rcases hop with h1 | h1 | h1 <;> simp only [lineOp, ho, h1, hr.lookupFor_looked]
  rw [hupd]
  exact updateHit_ends hr.looked.rest hr.located hr.single hfit

theorem lostSeen_none : lostSeen g m h (lineOf r.addr) = false := by
  simp only [lostSeen, hr.look, hr.kept]

end Resident

/-- R206, R207: an EVICT completes without data, and its line is considered for packing. -/
theorem dataPhase_evict {g : Regs} {m : Mach} {h : Half} {r : Req} (hg : r.given = none) (ho : r.op = .evict) :
    ∃ b, dataPhase g h r m = complete { r with looked := b } .done 0 (tryPack g h (lineOf r.addr) m) := by
  unfold dataPhase
  split
  next d hd => exact absurd (hg.symm.trans hd) (by simp)
  next =>
    dsimp only
    rw [if_pos (by rw [ho]; decide)]
    exact ⟨_, rfl⟩

/-! ## Acting -/

theorem locksLine_port {r : Req} (hp : ∃ p, r.origin = .port p) (hop : coherentOp r.op = true) (hplace : r.op ≠ .place) : locksLine r = false := by
  obtain ⟨p, hp⟩ := hp
  have hx : ∀ o, coherentOp o = false → (r.op == o) = false := fun o ho => beq_eq_false_iff_ne.mpr fun he => by
    rw [he, ho] at hop
    exact absurd hop (by decide)
  rw [locksLine, beq_eq_false_iff_ne.mpr hplace, hx .xUnique rfl, hx .xUpgrade rfl, hp]
  rfl

/-- A request of Tables 6.3 and 6.4 that comes to act at its home: the line is at rest, and only the request itself may hold it. -/
structure MayAct (g : Regs) (m : Mach) (h : Half) (r : Req) : Prop where
  rest  : LineAtRest g m h r
  mine  : ∀ c, confOf (halfAt m h) (lineOf r.addr) = some c → ∃ x, c.req = some x ∧ x.id = r.id
  op    : coherentOp r.op = true
  place : r.op ≠ .place

/-- The request as the directory decides it in its slice. -/
def decidedIn (m : Mach) (h : Half) (r : Req) (had : Bool) : Req := decidedReq (dirOf (halfAt m h) (lineOf r.addr)) r had

section Act

variable {g : Regs} {h : Half} {r : Req} {had : Bool} {m : Mach} (hr : MayAct g m h r)

include hr

theorem MayAct.act_eq {ret : Option Line} (hlost : (ret.isNone && lostSeen g m h (lineOf r.addr) && lostEnds r.op) = false) :
    act g h r had ret m = actOn g h (decidedIn m h r had) ret (actingIn g h r had m) :=
  Machine.act_eq hr.rest.errs hr.rest.armed hr.mine (locksLine_port hr.rest.port hr.op hr.place) ret hlost

/-- A line that a package returned installs dirty. -/
theorem act_arrives (d : Line)
    (hop : r.op = .rdNc ∨ r.op = .rdS ∨ r.op = .rdU ∨ r.op = .upg ∨ r.op = .wr ∨ r.op = .addl ∨ r.op = .atomR ∨ r.op = .atomN) :
    act g h r had (some d) m = arriveLine h (lineOf r.addr) d 0xF [decidedIn m h r had] (actingIn g h r had m) := by
  rw [hr.act_eq (by rw [Option.isNone_some, Bool.false_and, Bool.false_and])]
  exact actOn_arrives d hop

theorem act_absent (hl : locate (halfAt m h) (lineOf r.addr) = none)
    (hop : r.op = .rdNc ∨ r.op = .rdS ∨ r.op = .rdU ∨ r.op = .wr ∨ r.op = .addl ∨ r.op = .atomR ∨ r.op = .atomN) :
    act g h r had none m = missStart g h (decidedIn m h r had) (actingIn g h r had m) := by
  obtain ⟨d, c, hin⟩ := actingIn_still hr.rest.errs hr.rest.armed g h r had (.inl hl)
  have hrest := hr.rest.withTables d c (dirOf (halfAt m h) (lineOf r.addr)) had
  have hloc : locate (halfAt (withTables h d c m) h) (lineOf r.addr) = none := by
    rw [halfAt_withTables]
    exact hl
  have hlook : lookup g m h (lineOf r.addr) = none := by simp only [lookup, hl]
  have hseen : lostSeen g m h (lineOf r.addr) = false := by simp only [lostSeen, hlook]
  have hne : r.op ≠ .evict ∧ r.op ≠ .upg := by rcases hop with h1 | h1 | h1 | h1 | h1 | h1 | h1 <;> rw [h1] <;> decide
  rw [hr.act_eq (by rw [hseen, Bool.and_false, Bool.false_and]), hin]
  exact (dataPhase_absent hrest hloc hne.1 hne.2).trans (lineOp_absent hrest hloc hop)

theorem act_evict (ho : r.op = .evict) :
    ∃ b, act g h r had none m = complete { decidedIn m h r had with looked := b } .done 0 (tryPack g h (lineOf r.addr) (actingIn g h r had m)) := by
  rw [hr.act_eq (by rw [ho]; exact Bool.and_false _)]
  exact dataPhase_evict hr.rest.given ho

variable {w : Nat} (hres : Resident g m h r w)

include hres

theorem act_resident : act g h r had none m = dataPhase g h (decidedIn m h r had) (actingIn g h r had m) :=
  hr.act_eq (by rw [hres.lostSeen_none, Bool.and_false, Bool.false_and])

variable (hput : StaysPut g h (lineOf r.addr) (dirOf (halfAt m h) (lineOf r.addr)) (nextDir (dirOf (halfAt m h) (lineOf r.addr)) r had) m)

include hput

omit hr in
/-- Where the line stays put, it is resident in the slice in which the request acts, and that slice shows the same lines. -/
theorem resident_acting : Resident g (actingIn g h r had m) h (decidedIn m h r had) w
    ∧ lineOfLoc (halfAt (actingIn g h r had m) h) (lineOf r.addr) (.frame w) = lineOfLoc (halfAt m h) (lineOf r.addr) (.frame w)
    ∧ ∀ x, seenIn (halfAt (actingIn g h r had m) h) x = seenIn (halfAt m h) x := by
  obtain ⟨d, c, hin⟩ := actingIn_still hres.rest.errs hres.rest.armed g h r had hput
  rw [hin]
  refine ⟨hres.withTables d c _ had, ?_, fun x => ?_⟩ <;> rw [halfAt_withTables] <;> rfl

theorem act_read (hop : r.op = .rdNc ∨ r.op = .rdS ∨ r.op = .rdU) : act g h r had none m
    = answerRead (lookedReq (decidedIn m h r had)) (lineOfLoc (halfAt m h) (lineOf r.addr) (.frame w)).data
        (touch g h (lookedReq (decidedIn m h r had)) (actingIn g h r had m)) := by
  obtain ⟨hacting, hline, -⟩ := resident_acting hres hput
  rw [act_resident hr hres, hacting.dataPhase_read hop]
  exact congrArg (fun st : LineSt => answerRead (lookedReq (decidedIn m h r had)) st.data
    (touch g h (lookedReq (decidedIn m h r had)) (actingIn g h r had m))) hline

theorem act_upg (ho : r.op = .upg) : act g h r had none m = complete (lookedReq (decidedIn m h r had)) .done 0 (actingIn g h r had m) := by
  rw [act_resident hr hres, (resident_acting hres hput).1.dataPhase_upg ho]

omit hr in
theorem fits_acting (be : LineBE) : (mergeFits m h be → mergeFits (actingIn g h r had m) h be)
    ∧ writesDirect (actingIn g h r had m) h (decidedIn m h r had) w = writesDirect m h r w := by
  obtain ⟨d, c, hin⟩ := actingIn_still hres.rest.errs hres.rest.armed g h r had hput
  rw [hin]
  unfold mergeFits writesDirect
  rw [halfAt_withTables]
  exact ⟨id, rfl⟩

/-- R142: a WR merges its bytes into its line. -/
theorem act_write (ho : r.op = .wr) (hfit : writesDirect m h r w = true ∨ mergeFits m h r.be) :
    EndsWith h (lookedReq (decidedIn m h r had)) (actingIn g h r had m) 0
      (mergeBytes r.be r.data (lineOfLoc (halfAt m h) (lineOf r.addr) (.frame w)).data) (act g h r had none m) := by
  obtain ⟨hacting, hline, -⟩ := resident_acting hres hput
  obtain ⟨hmerge, hdirect⟩ := fits_acting hres hput r.be
  have hend := hacting.dataPhase_write ho (hfit.imp hdirect.trans hmerge)
  rw [← act_resident hr hres] at hend
  rw [← hline]
  exact hend

/-- R222: an ADDL or an atomic leaves its result in its line and returns the old value. -/
theorem act_update (hop : r.op = .addl ∨ r.op = .atomR ∨ r.op = .atomN)
    (hfit : mergeFits m h (updateOn r (lineOfLoc (halfAt m h) (lineOf r.addr) (.frame w)).data).2.1) :
    EndsWith h (lookedReq (decidedIn m h r had)) (actingIn g h r had m)
      ((updateOn r (lineOfLoc (halfAt m h) (lineOf r.addr) (.frame w)).data).2.2.setWidth 2048)
      (updateOn r (lineOfLoc (halfAt m h) (lineOf r.addr) (.frame w)).data).1 (act g h r had none m) := by
  obtain ⟨hacting, hline, -⟩ := resident_acting hres hput
  rw [← hline] at hfit ⊢
  have hend := hacting.dataPhase_update hop ((fits_acting hres hput _).1 hfit)
  rw [← act_resident hr hres] at hend
  exact hend

omit hr in
/-- What a request that ends in its slice shows of the lines and the directory. -/
theorem EndsWith.shown {old v : Line} {out : Mach} (he : EndsWith h (lookedReq (decidedIn m h r had)) (actingIn g h r had m) old v out) :
    ∃ t, out = complete { lookedReq (decidedIn m h r had) with bound := none } .done old t ∧ lineSeen t h (lineOf r.addr) = some v
      ∧ (∀ x, x ≠ lineOf r.addr → lineSeen t h x = lineSeen m h x)
      ∧ ∀ x, dirOf (halfAt t h) x = dirOf (halfAt (actingIn g h r had m) h) x := by
  obtain ⟨-, -, hseen⟩ := resident_acting hres hput
  obtain ⟨t, hout, hown, hothers, hdir⟩ := he
  exact ⟨t, hout, (lineSeen_eq t h _).trans hown, fun x hx => ((lineSeen_eq t h x).trans (hothers x hx)).trans (hseen x), dirOf_of_dir hdir⟩

end Act

/-- The line stays put unless the half packs and the last holder leaves. -/
theorem staysPut_of {g : Regs} {h : Half} {l : LineAddr} {e e' : DirEntry} {m : Mach}
    (hs : g.hc[h].cmode ≠ 2 ∨ e'.agents ≠ 0 ∨ e'.chips ≠ 0 ∨ (e.agents = 0 ∧ e.chips = 0)) : StaysPut g h l e e' m := by
  rcases hs with hc | ha | hq | hn
  · exact .inr (.inl hc)
  · exact .inr (.inr (.inl (.inl ha)))
  · exact .inr (.inr (.inl (.inr hq)))
  · exact .inr (.inr (.inr (not_hasHolder.mpr hn)))

/-- Settles O31: the order point, the answers to the snoops, and the data phase of a line at rest, each by the rules of its part. -/
theorem coherentRequestsActAtTheirHome : Obligations.CoherentRequestsActAtTheirHome := by
  refine ⟨?_, ?_, ?_⟩
  · intro g h r m l e r0 m1 m0 hready hop hport hfresh hpack hunbound _ hseen hroom hhere
    have hpass : MayPass g m h r := ⟨hready, hop, hport, hfresh, hpack, hunbound, hseen, hroom, hhere⟩
    have hm0 : passedIn h r (pointMoved h r m) = m0 := if_congr (by rw [Bool.or_eq_true, beq_iff_eq, beq_iff_eq]) rfl rfl
    have hnow := hpass.orderNow_cases (k := (snoopsOf e r).1) (xs := (snoopsOf e r).2) rfl
    rw [hm0] at hnow
    exact ⟨fun hnil => hnow.trans (if_pos (List.isEmpty_iff.mpr hnil)), fun hne => hnow.trans (if_neg (mt List.isEmpty_iff.mp hne))⟩
  · intro g h l x had m c r hc hwhy hreq hw heard
    exact ⟨answerConf_last hc hwhy hreq hw, fun y ys => answerConf_more hc⟩
  · intro g h r had m l hs e e' r1 r2 m1 m2 hmine hop hplace hrest
    have hr : MayAct g m h r := ⟨hrest, hmine, hop, hplace⟩
    refine ⟨fun d => act_arrives hr d, act_absent hr, ?_⟩
    intro w hlook hsingle hkept d
    have hres : Resident g m h r w := ⟨hrest, hlook, hsingle, hkept⟩
    refine ⟨act_evict hr, ?_⟩
    intro hput ends
    have hstays : StaysPut g h l e e' m := staysPut_of hput
    exact ⟨act_read hr hres hstays, act_upg hr hres hstays, fun ho hfit => (act_write hr hres hstays ho hfit).shown hres hstays,
      fun ho hfit => (act_update hr hres hstays ho hfit).shown hres hstays⟩

end Sys2Proof.Machine
end
